-- ==== Sys2Proof/Word.lean ====
section
/-! DEFINITION. The words the ZN-408 exchanges with the outside: bytes and 16-bit words of telegrams (R150) and of the configuration block (R151). -/

namespace Sys2Proof

/-- One byte of a telegram, of the configuration block or of a converter read. -/
abbrev Byte := BitVec 8

/-- A 16-bit field, sent most significant byte first (R150). -/
abbrev Word16 := BitVec 16

/-- The 72 switch pins, nine per oven place: bit `9 * (k - 1) + j` is input `j` of place `k` (R121). -/
abbrev Pins := BitVec 72

end Sys2Proof
end

