-- ==== Sys2Proof/Config.lean ====
section
/-! DEFINITION. What a section board fixes: the fields of the configuration block after the tests and clamps of R147, in the order of R151. -/

namespace Sys2Proof

/-- A loaded configuration (R147, R151). Held from a successful load until the next start. -/
structure Configuration where
  /-- own station number, 1 to 63 -/
  station : Nat
  /-- first local oven F -/
  firstOven : Nat
  /-- local oven count K -/
  ovenCount : Nat
  /-- battery oven count N -/
  batteryOvens : Nat
  /-- series step S -/
  step : Nat
  /-- the first S class order entries -/
  classOrder : List Nat
  /-- T_def, minutes -/
  targetDefault : Nat
  /-- M_early, minutes -/
  earlyMargin : Nat
  /-- W_min, minutes -/
  supportAge : Nat
  overdueAfter : Nat
  /-- bid window, in units of 100 ms -/
  bidWindow : Nat
  spEarly : Nat
  spMid : Nat
  spLate : Nat
  t1 : Nat
  t2 : Nat
  leakOffset : Nat
  spFloor : Nat
  pHigh : Nat
  permitMax : Nat
  kp : Nat
  ki : Nat
  uMin : Nat
  uMax : Nat
  slew : Nat
  uFail : Nat
  /-- aspirate_hold, seconds -/
  aspirateHold : Nat
  span : Nat
  /-- zero codes of places 1 to 8 -/
  zeroCodes : List Nat
  pusherStation : Nat
  guideStation : Nat
  carStation : Nat
  chargerStation : Nat
  /-- panel stations 1 to 4; an entry of 0 names no station (R136) -/
  panelStations : List Nat
  converterAddress : Nat
  /-- quench time, seconds -/
  quenchTime : Nat
  /-- leak_on, seconds -/
  leakOn : Nat
  /-- leak_off, seconds -/
  leakOff : Nat
  /-- reseal_after, minutes -/
  resealAfter : Nat
  /-- oven part of the relay mask: bit n selects oven alarm n (R151) -/
  ovenMask : Word16
  /-- station part of the relay mask: bit n selects station alarm n, bit 7 not read (R151) -/
  stationMask : Byte
  deriving DecidableEq, Repr

end Sys2Proof
end

