-- ==== Sys2Proof/Syntax.lean ====
section
/-! DEFINITION. The commands of the ZN-408: one constructor of `Instr` for each row of spec/opcode_table.json, in the table's order, with the operands the rules give the event. -/

namespace Sys2Proof

/-- The two doors of an oven: P, pusher side, and C, coke side (R58). -/
inductive Side where
  | p
  | c
  deriving DecidableEq, Repr

/-- The nine switch inputs of an oven place, in the order file 08 lists them. -/
inductive SwitchInput where
  | valveClosed
  | capOpen
  | capClosed
  | present (side : Side)
  | latched (side : Side)
  | leak (side : Side)
  deriving DecidableEq, Repr

/-- The machine views (R110). -/
inductive ViewName where
  | pusher
  | guide
  | car
  deriving DecidableEq, Repr

/-- The neighbour views: oven F - 1 and oven F + K (R113). -/
inductive NeighbourName where
  | lower
  | upper
  deriving DecidableEq, Repr

/-- What a received telegram's frame says beside its payload (R150): the two bytes of the arbitration field, and
whether the check the receiver computes equals the one appended. -/
structure Header where
  urgency : Byte
  station : Byte
  checkGood : Bool
  deriving DecidableEq, Repr

/-- A command: one event that reaches the part.
Ovens in telegrams are the byte on the line; timer expiries name the local oven of their record by its battery
number; places are counted from 1 as in R122 and R125. -/
inductive Instr where
  | minuteExpiry
  | pnlHold (h : Header) (oven : Byte)
  | pnlRelease (h : Header) (oven : Byte)
  | pnlOut (h : Header) (oven : Byte)
  | pnlIn (h : Header) (oven : Byte)
  | pnlTarget (h : Header) (oven : Byte) (value : Word16)
  | pnlDeclare (h : Header) (oven : Byte) (value : Word16) (phase : Byte)
  | pnlAbort (h : Header) (oven : Byte)
  | pnlClear (h : Header) (oven : Byte)
  | cha (h : Header) (oven : Byte)
  | che (h : Header) (oven : Byte)
  | chargeLimitExpiry (oven : Nat)
  | evaluationExpiry (backupLow : Bool)
  | bid (h : Header) (oven : Byte) (lateness : Word16)
  | windowExpiry
  | holdOffExpiry
  | deferralExpiry
  | pas (h : Header) (oven : Byte)
  | rms (h : Header) (oven : Byte)
  | rmh (h : Header) (oven stroke : Byte)
  | prepareLimitExpiry
  | armedLimitExpiry
  | permitTimerExpiry
  | rmhLimitExpiry
  | doorLimitExpiry
  | debounceExpiry (place : Nat) (input : SwitchInput)
  | leakTimerExpiry (oven : Nat) (side : Side)
  | clearTimerExpiry (oven : Nat) (side : Side)
  | leakingSpellExpiry (oven : Nat) (side : Side)
  | sealedSpellExpiry (oven : Nat) (side : Side)
  | valveMotionTimerExpiry (oven : Nat)
  | capMotionTimerExpiry (oven : Nat)
  | pressureHighTimerExpiry (oven : Nat)
  | aspirateHoldExpiry (oven : Nat)
  | quarterSecondExpiry
  | transactionComplete (first second : Byte)
  | channelByteNack
  | addressNack
  | clockHoldTimeout
  | pwmPeriodEnd
  | qcr (h : Header) (orderId verdict reason : Byte)
  | deadlineExpiry
  | mst (h : Header) (position activity load aligned owner : Byte)
  | machineViewFreshnessExpiry (view : ViewName)
  | ovs (h : Header) (oven : Byte) (stateWord lateness : Word16) (doors : Byte)
      (offtake pressure alarms : Word16)
  | neighbourViewFreshnessExpiry (view : NeighbourName)
  | pdn (h : Header) (oven stroke unpermitted : Byte)
  | scs (h : Header) (stage oven reason anchor count head alarms : Byte)
  | refreshTimerExpiry (station : Nat)
  | settleTimerExpiry
  | lineIdleAttempt
  /-- the arbitration field of the telegram that won -/
  | lostContention (urgency station : Byte)
  | attemptSucceeded
  | attemptFailed
  | silentExpiry
  | scsPeriodExpiry
  /-- whether the memory acknowledged its address and the offset, the bytes read, the backup comparator's report -/
  | configLoadComplete (acked : Bool) (block : List Byte) (backupLow : Bool)
  | configLoadClockTimeout
  | configRetryExpiry
  | resetAsserted
  | resetReleased
  | mainSupplyApplied
  | mainSupplyLost
  | backupSupplyLost
  | millisecondExpiry (pins : Pins)
  | pwmCompareMatch (place : Nat)
  deriving DecidableEq, Repr

end Sys2Proof
end

