-- ==== Sys2Proof/Machine/State.lean ====
section
/-! DEFINITION. Everything the spec gives the ZN-408 to hold, block by block, as plain data, and the part right after
reset. INVENTORY.md lists each field with the rule that names it and its reset value. -/

namespace Sys2Proof.Machine

open Sys2Proof

/-! ## Timers -/

/-- A timer, stopped or running toward an interval in milliseconds. Its expiry is a command (log 2). -/
inductive Timer where
  | stopped
  | running (toward : Nat)
  deriving DecidableEq, Repr

/-- A timer that is marked when it has expired: the PREPARE limit (R41) and the settle timer (R119). -/
inductive Limit where
  | stopped
  | running (toward : Nat)
  | expired
  deriving DecidableEq, Repr

/-! ## OCT: oven records (R1) -/

inductive Phase where
  | unknown
  | empty
  | charging
  | coking
  | ready
  | pushing
  | out
  deriving DecidableEq, Repr

/-- The fields of an oven record that the retained domain keeps (R1, R145). -/
structure Retained where
  phase : Phase
  /-- minutes, 0 to 4095 -/
  age : Nat
  /-- target coking time, minutes, 600 to 2400 -/
  target : Nat
  hold : Bool
  deriving DecidableEq, Repr

/-- The oven alarms, in the bit order of R150. -/
inductive OvenAlarm where
  | pressureSensor
  | pressureHigh
  | valveFault
  | capFault
  | doorForcedP
  | doorForcedC
  | resealP
  | resealC
  | doorSwitch
  | doorLate
  | pushAborted
  | pushUnpermitted
  | overdue
  | chargeLate
  | ageLost
  | ramLate
  deriving DecidableEq, Repr

/-- The station alarms an SCS carries, in the bit order of R150. CONFIG_FAULT stands apart (R139). -/
inductive StationAlarm where
  | carTimeout
  | hotCar
  | lineSilent
  | samplePort
  | retainedLost
  | backupLow
  | sectionOverlap
  deriving DecidableEq, Repr

/-- An oven record (R1). -/
structure Oven where
  /-- battery oven number -/
  number : Nat
  kept : Retained
  /-- oven alarm set, bit n as R150 numbers it -/
  alarms : Word16
  /-- charge-start-in-flight flag -/
  inFlight : Bool
  chpPending : Bool
  chargeLimit : Timer
  deriving DecidableEq, Repr

/-! ## DMN: door records (R58) -/

inductive DoorState where
  | sealed
  | leaking
  | released
  | unlatched
  | off
  | fault
  deriving DecidableEq, Repr

/-- A door record (R58). -/
structure Door where
  state : DoorState
  /-- the level of the door's permit output -/
  permit : Bool
  leakTimer : Timer
  clearTimer : Timer
  leakingSpell : Timer
  sealedSpell : Timer
  resealWanted : Bool
  deriving DecidableEq, Repr

/-! ## OCU: offtake records (R71) -/

inductive OfftakeMode where
  | pi
  | aspirate
  | isolate
  | hold
  deriving DecidableEq, Repr

inductive SubState where
  | moving
  | reached
  | failed
  deriving DecidableEq, Repr

/-- The mode a sequence in ISOLATE runs toward (R86, R87). -/
inductive NextMode where
  | aspirate
  | pi
  deriving DecidableEq, Repr

/-- The confirmation a sequence is waiting for (R85 to R88). -/
inductive Confirmation where
  | valveClosed
  | capOpen
  | capClosed
  deriving DecidableEq, Repr

/-- An offtake record (R71). -/
structure Offtake where
  mode : OfftakeMode
  sub : Option SubState
  next : Option NextMode
  /-- the confirmation the running or FAILED sequence still waits for; none once REACHED (log 9) -/
  awaits : Option Confirmation
  entryPending : Bool
  /-- valve command u, permille -/
  valve : Nat
  /-- cap command line: true commands the cap open -/
  capOpen : Bool
  /-- latest pressure, Pa -/
  pressure : Option Int
  invalidCount : Nat
  validCount : Nat
  sensorFailed : Bool
  /-- PI accumulator A, in 1/64 permille -/
  acc : Nat
  highTimer : Timer
  aspirateTimer : Timer
  valveTimer : Timer
  capTimer : Timer
  deriving DecidableEq, Repr

/-- The records of one local oven, created together by a successful load (R148). -/
structure Place where
  oven : Oven
  doorP : Door
  doorC : Door
  offtake : Offtake
  deriving DecidableEq, Repr

/-! ## BSU (R25) -/

inductive RoundState where
  | idle
  | deferring
  | bidding
  deriving DecidableEq, Repr

/-- The bid round record (R25). -/
structure BidRecord where
  oven : Nat
  lateness : Int
  window : Timer
  deriving DecidableEq, Repr

/-- An entry of the rival bid list (R25). -/
structure Rival where
  station : Nat
  oven : Nat
  lateness : Int
  deriving DecidableEq, Repr

structure Bsu where
  round : RoundState
  record : Option BidRecord
  rivals : List Rival
  holdOff : Timer
  deferral : Timer
  deferredTo : Option Nat
  deriving DecidableEq, Repr

/-! ## PSQ (R38, R49) -/

inductive Stage where
  | prepare
  | armed
  | pushing
  | closing
  | returning
  deriving DecidableEq, Repr

inductive AbortReason where
  | panel
  | isolateFail
  | prepareTime
  | armedTime
  | carRefused
  | carTimeout
  | carList
  | doorFault
  deriving DecidableEq, Repr

/-- The push context (R38). permit-valid is set exactly while the permit timer runs, so the timer holds both. -/
structure Context where
  oven : Nat
  stage : Stage
  prepareLimit : Limit
  armedLimit : Timer
  rmhLimit : Timer
  doorLimit : Timer
  spotDone : Bool
  spotAwaited : Bool
  permit : Timer
  unpermitted : Bool
  piRequested : Bool
  stroke : Option Nat
  reason : Option AbortReason
  deriving DecidableEq, Repr

/-- An entry of the pending PDN list (R38, R49). -/
structure PendingPdn where
  oven : Nat
  stroke : Nat
  unpermitted : Bool
  deriving DecidableEq, Repr

structure Psq where
  context : Option Context
  /-- in rising oven number -/
  pendingPdn : List PendingPdn
  deriving DecidableEq, Repr

/-! ## QOU (R94, R97) -/

/-- The order kinds with what each carries (R94, R95). -/
inductive OrderKind where
  | spot (oven : Nat)
  | quench (seconds : Nat)
  | dump
  | release
  deriving DecidableEq, Repr

inductive OrderState where
  | queued
  | sent
  | accepted
  deriving DecidableEq, Repr

/-- A car order (R94). -/
structure Order where
  id : Nat
  kind : OrderKind
  state : OrderState
  offered : Bool
  owed : Bool
  deadline : Timer
  deriving DecidableEq, Repr

structure Qou where
  /-- oldest first -/
  orders : List Order
  nextId : Nat
  deriving DecidableEq, Repr

/-! ## LVT (R110, R113, R115, R116, R119) -/

inductive Activity where
  | idle
  | busy
  | fault
  deriving DecidableEq, Repr

inductive Load where
  | empty
  | hot
  | quenched
  deriving DecidableEq, Repr

/-- A view is fresh while its timer runs and stale once it is stopped (R110); an absent view is no view. -/
structure PusherView where
  position : Nat
  activity : Activity
  fresh : Timer
  deriving DecidableEq, Repr

structure GuideView where
  position : Nat
  activity : Activity
  aligned : Bool
  fresh : Timer
  deriving DecidableEq, Repr

structure CarView where
  position : Nat
  activity : Activity
  load : Load
  owner : Nat
  fresh : Timer
  deriving DecidableEq, Repr

structure NeighbourView where
  phase : Phase
  age : Nat
  fresh : Timer
  deriving DecidableEq, Repr

/-- An entry of the peer activity list (R116). -/
structure Peer where
  station : Nat
  refresh : Timer
  deriving DecidableEq, Repr

structure Lvt where
  pusher : Option PusherView
  guide : Option GuideView
  car : Option CarView
  lower : Option NeighbourView
  upper : Option NeighbourView
  anchor : Option Nat
  /-- refreshed longest ago first -/
  peers : List Peer
  settle : Limit
  deriving DecidableEq, Repr

/-! ## BLI (R131, R132, R135) -/

/-- The telegram kinds (R130). -/
inductive Kind where
  | ppm
  | prf
  | qco
  | chp
  | chr
  | bid
  | pdn
  | scs
  | ovs
  | mst
  | pas
  | rms
  | rmh
  | qcr
  | cha
  | che
  | pnl
  deriving DecidableEq, Repr

/-- The subject of a queue entry (R132). -/
inductive Subject where
  | oven (n : Nat)
  | order (id : Nat)
  | station
  deriving DecidableEq, Repr

/-- An entry of the transmit queue (R132). -/
structure TxEntry where
  kind : Kind
  subject : Subject
  payload : List Byte
  /-- the count of entries created before it (log 12) -/
  offerTime : Nat
  deriving DecidableEq, Repr

/-- The attempt on the line (R131): the frame being sent, and whether an offer has replaced the entry's payload
since the attempt began (R133). -/
structure Attempt where
  kind : Kind
  subject : Subject
  frame : List Byte
  replaced : Bool
  deriving DecidableEq, Repr

structure Bli where
  /-- head first -/
  queue : List TxEntry
  attempt : Option Attempt
  failed : Nat
  /-- runs toward 5 s while the BLI is silent -/
  silent : Timer
  offerClock : Nat
  deriving DecidableEq, Repr

/-! ## FLS (R121, R124, R125) -/

/-- One switch input (R121, R122). -/
structure Input where
  /-- the level of the last sample -/
  pin : Option Bool
  /-- the debounced level; none before the first (R122) -/
  level : Option Bool
  stability : Timer
  deriving DecidableEq, Repr

/-- The nine inputs of one place. -/
structure PlaceInputs where
  valveClosed : Input
  capOpen : Input
  capClosed : Input
  presentP : Input
  latchedP : Input
  leakP : Input
  presentC : Input
  latchedC : Input
  leakC : Input
  deriving DecidableEq, Repr

/-- One valve PWM channel (R124). -/
structure Channel where
  applied : Nat
  buffered : Nat
  deriving DecidableEq, Repr

/-- The scan state (R125). -/
structure Scan where
  running : Bool
  /-- current place, 1 to K -/
  place : Nat
  addressNack : Bool
  nackCount : Nat
  deriving DecidableEq, Repr

/-- One step of a transaction on the two-wire port (R126, R147). -/
inductive PortStep where
  | start
  | write (address : Nat)
  | byte (value : Nat)
  | repeatedStart
  | read (address : Nat)
  | readAck
  | readNack
  | stop
  deriving DecidableEq, Repr

structure Fls where
  /-- eight places -/
  inputs : List PlaceInputs
  /-- the PWM count, as at the last PWM event (log 16) -/
  pwmCount : Nat
  /-- eight channels -/
  channels : List Channel
  scan : Scan
  /-- what the port was last given to send: a transaction, with the stop of a failed one before it (R126, R127, R147); empty
  after a transaction that ended whole and after a failed configuration read (log 30) -/
  port : List PortStep
  deriving DecidableEq, Repr

/-! ## RTB (R144, R145) -/

/-- The retained domain (R145). While oven records exist, `records` is empty and the copy is the records' own
`kept` fields. -/
structure RetainedDomain where
  valid : Bool
  firstOven : Nat
  ovenCount : Nat
  records : List Retained
  deriving DecidableEq, Repr

/-- Where the part stands with its configuration (R147 to R149). -/
inductive LoadState where
  /-- no main supply, or the reset line held -/
  | absent
  /-- the read of the configuration memory is on the port -/
  | reading
  /-- the load has failed and the retry timer decides -/
  | failed
  | loaded (config : Configuration)
  deriving DecidableEq, Repr

/-! ## ASR (R139, R141 to R143) -/

structure Asr where
  /-- station alarm set, bit n as R150 numbers it -/
  station : Byte
  configFault : Bool
  relay : Bool
  /-- the round-robin place, counted from 0 -/
  roundRobin : Nat
  scsPeriod : Timer
  deriving DecidableEq, Repr

/-! ## The part and its queue of commands -/

/-- The ZN-408: the state of its eleven blocks. -/
structure Part where
  mainOn : Bool
  /-- the backup supply holds what the retained domain needs, as last heard (R145, log 23) -/
  backupOn : Bool
  resetHeld : Bool
  load : LoadState
  /-- toward 5 s after a failed load (R148) -/
  retry : Timer
  /-- the main dividers: stopped, or milliseconds counted modulo 1000 (R144) -/
  dividers : Option Nat
  retained : RetainedDomain
  /-- one entry per local oven while a configuration is loaded, none otherwise -/
  places : List Place
  bsu : Bsu
  psq : Psq
  qou : Qou
  lvt : Lvt
  bli : Bli
  fls : Fls
  asr : Asr
  deriving DecidableEq, Repr

/-- The machine: the part, and the commands waiting for it, first in first out. -/
structure State where
  pending : List Instr
  part : Part
  deriving DecidableEq, Repr

/-! ## Reset and start values of the blocks -/

/-- R37. -/
def Bsu.start : Bsu :=
  { round := .idle, record := none, rivals := [], holdOff := .stopped, deferral := .stopped, deferredTo := none }

/-- R57. -/
def Psq.start : Psq := { context := none, pendingPdn := [] }

/-- R109. -/
def Qou.start : Qou := { orders := [], nextId := 1 }

/-- R120, with the settle timer not yet started (R119). -/
def Lvt.start : Lvt :=
  { pusher := none, guide := none, car := none, lower := none, upper := none, anchor := none, peers := []
    settle := .stopped }

/-- R138. -/
def Bli.start : Bli :=
  { queue := [], attempt := none, failed := 0, silent := .stopped, offerClock := 0 }

/-- No level taken yet (R122). -/
def Input.fresh : Input := { pin := none, level := none, stability := .stopped }

def PlaceInputs.fresh : PlaceInputs :=
  { valveClosed := .fresh, capOpen := .fresh, capClosed := .fresh
    presentP := .fresh, latchedP := .fresh, leakP := .fresh
    presentC := .fresh, latchedC := .fresh, leakC := .fresh }

/-- R125, R128: no scan, count 0. The place and the address-NACK flag have no start value in the spec, and the first scan
sets both: 1 and clear are the model's choice (log 27). -/
def Scan.start : Scan := { running := false, place := 1, addressNack := false, nackCount := 0 }

/-- R122, R124, R129. -/
def Fls.start : Fls :=
  { inputs := List.replicate 8 .fresh, pwmCount := 0, channels := List.replicate 8 ⟨0, 0⟩, scan := .start, port := [] }

/-- R123, R142: the relay is active until the first load has succeeded. The spec gives the station alarm set from that load on:
that it and CONFIG_FAULT are clear from reset until then is the model's choice (log 31). -/
def Asr.start : Asr :=
  { station := 0, configFault := false, relay := true, roundRobin := 0, scsPeriod := .stopped }

/-- A retained domain that has never been initialised (log 4). -/
def RetainedDomain.blank : RetainedDomain := { valid := false, firstOven := 0, ovenCount := 0, records := [] }

/-- The read of the configuration block on the port (R147): memory address 0x56, offset 0, 86 bytes of which the last
is not acknowledged. -/
def configReadSteps : List PortStep :=
  [.start, .write 0x56, .byte 0, .repeatedStart, .read 0x56] ++ List.replicate 85 .readAck ++ [.readNack, .stop]

/-- The part right after the release of the reset line, its configuration read under way (R149, R129; log 4). What the
blocks hold before the load are their start values (log 31). -/
def Part.reset : Part :=
  { mainOn := true, backupOn := true, resetHeld := false, load := .reading, retry := .stopped, dividers := some 0
    retained := .blank, places := [], bsu := .start, psq := .start, qou := .start, lvt := .start, bli := .start
    fls := { Fls.start with port := configReadSteps }, asr := .start }

/-- Reset, with no command waiting. -/
def State.reset : State := { pending := [], part := Part.reset }

/-! ## Why a step can stop -/

/-- The reasons to stop with a fault: none. The spec stops the part nowhere, so no constructor is needed and no run
ends in a fault (log 1). -/
inductive Fault where
  deriving DecidableEq, Repr

/-- The reasons to refuse a command. -/
inductive Refusal where
  /-- Raised only by an arm of `exec` whose command has no meaning yet. Safe: a claim about that command cannot be
  proved. No arm raises it now. -/
  | notModelled (mnemonic : String)
  deriving DecidableEq, Repr

end Sys2Proof.Machine
end

