-- ==== Sys2Proof/Machine/Codes.lean ====
section
/-! DEFINITION. The value codes and kind table of R150 and R130: how names are spelled in bytes, and back. -/

namespace Sys2Proof.Machine

open Sys2Proof

/-! ## Kinds -/

/-- Kind codes (R150, payload layouts). -/
def Kind.code : Kind → Nat
  | .mst => 0x08
  | .ovs => 0x10
  | .scs => 0x11
  | .bid => 0x12
  | .pdn => 0x13
  | .pas => 0x18
  | .rms => 0x19
  | .rmh => 0x1A
  | .ppm => 0x20
  | .prf => 0x21
  | .qco => 0x28
  | .qcr => 0x29
  | .chp => 0x30
  | .chr => 0x31
  | .cha => 0x32
  | .che => 0x33
  | .pnl => 0x38

/-- Payload lengths (R150). -/
def Kind.payloadLength : Kind → Nat
  | .mst => 5
  | .ovs => 12
  | .scs => 7
  | .bid => 3
  | .pdn => 3
  | .pas => 1
  | .rms => 1
  | .rmh => 2
  | .ppm => 1
  | .prf => 2
  | .qco => 4
  | .qcr => 3
  | .chp => 1
  | .chr => 2
  | .cha => 1
  | .che => 1
  | .pnl => 5

/-- The urgency the part sends a kind with (R130). The part sends no kind below SCS and OVS in this list; machines and
panels choose their own urgency. -/
def Kind.urgency : Kind → Nat
  | .ppm => 1
  | .prf => 1
  | .qco => 2
  | .chp => 3
  | .chr => 3
  | .bid => 4
  | .pdn => 4
  | .scs => 8
  | .ovs => 9
  | .mst => 15
  | .pas => 15
  | .rms => 15
  | .rmh => 15
  | .qcr => 15
  | .cha => 15
  | .che => 15
  | .pnl => 15

/-- Every kind, for looking a code up. -/
def allKinds : List Kind :=
  [.ppm, .prf, .qco, .chp, .chr, .bid, .pdn, .scs, .ovs, .mst, .pas, .rms, .rmh, .qcr, .cha, .che, .pnl]

def kindOfCode (n : Nat) : Option Kind := allKinds.find? (fun k => k.code == n)

/-! ## Values -/

def Phase.code : Phase → Nat
  | .unknown => 0
  | .empty => 1
  | .charging => 2
  | .coking => 3
  | .ready => 4
  | .pushing => 5
  | .out => 6

def phaseOfCode : Nat → Option Phase
  | 0 => some .unknown
  | 1 => some .empty
  | 2 => some .charging
  | 3 => some .coking
  | 4 => some .ready
  | 5 => some .pushing
  | 6 => some .out
  | _ => none

def DoorState.code : DoorState → Nat
  | .sealed => 0
  | .leaking => 1
  | .released => 2
  | .unlatched => 3
  | .off => 4
  | .fault => 5

def OfftakeMode.code : OfftakeMode → Nat
  | .pi => 0
  | .aspirate => 1
  | .isolate => 2
  | .hold => 3

def subCode : Option SubState → Nat
  | none => 0
  | some .moving => 1
  | some .reached => 2
  | some .failed => 3

/-- 1 to 5; a station without a context sends 0. -/
def Stage.code : Stage → Nat
  | .prepare => 1
  | .armed => 2
  | .pushing => 3
  | .closing => 4
  | .returning => 5

def AbortReason.code : AbortReason → Nat
  | .panel => 1
  | .isolateFail => 2
  | .prepareTime => 3
  | .armedTime => 4
  | .carRefused => 5
  | .carTimeout => 6
  | .carList => 7
  | .doorFault => 8

def OrderKind.code : OrderKind → Nat
  | .spot _ => 1
  | .quench _ => 2
  | .dump => 3
  | .release => 4

def OrderState.code : OrderState → Nat
  | .queued => 1
  | .sent => 2
  | .accepted => 3

/-- The QCR verdicts (R100, R150). -/
inductive Verdict where
  | accept
  | refuse
  | done
  deriving DecidableEq, Repr

def verdictOfCode : Nat → Option Verdict
  | 1 => some .accept
  | 2 => some .refuse
  | 3 => some .done
  | _ => none

/-- The reasons of a push refusal (R42, R150). -/
inductive PrfReason where
  | notArmed
  | support
  | guide
  | car
  | pusher
  deriving DecidableEq, Repr

def PrfReason.code : PrfReason → Nat
  | .notArmed => 1
  | .support => 2
  | .guide => 3
  | .car => 4
  | .pusher => 5

/-- The reasons of a charge refusal (R12, R15, R16, R150). -/
inductive ChrReason where
  | notEmpty
  | doors
  | busy
  | cap
  deriving DecidableEq, Repr

def ChrReason.code : ChrReason → Nat
  | .notEmpty => 1
  | .doors => 2
  | .busy => 3
  | .cap => 4

def activityOfCode : Nat → Option Activity
  | 0 => some .idle
  | 1 => some .busy
  | 2 => some .fault
  | _ => none

def loadOfCode : Nat → Option Load
  | 0 => some .empty
  | 1 => some .hot
  | 2 => some .quenched
  | _ => none

def flagOfCode : Nat → Option Bool
  | 0 => some false
  | 1 => some true
  | _ => none

/-- Bit of an alarm in the oven alarm set (R150). -/
def OvenAlarm.bit : OvenAlarm → Nat
  | .pressureSensor => 0
  | .pressureHigh => 1
  | .valveFault => 2
  | .capFault => 3
  | .doorForcedP => 4
  | .doorForcedC => 5
  | .resealP => 6
  | .resealC => 7
  | .doorSwitch => 8
  | .doorLate => 9
  | .pushAborted => 10
  | .pushUnpermitted => 11
  | .overdue => 12
  | .chargeLate => 13
  | .ageLost => 14
  | .ramLate => 15

/-- Bit of an alarm in the station alarm byte (R150). -/
def StationAlarm.bit : StationAlarm → Nat
  | .carTimeout => 0
  | .hotCar => 1
  | .lineSilent => 2
  | .samplePort => 3
  | .retainedLost => 4
  | .backupLow => 5
  | .sectionOverlap => 6

/-- The level alarms of an oven: PRESSURE_SENSOR, PRESSURE_HIGH, RESEAL_P, RESEAL_C, OVERDUE (R139). The other eleven
bits are the latched ones. -/
def ovenLevelMask : Word16 := 0x10C3

/-- The level alarms of the station: LINE_SILENT, SAMPLE_PORT, BACKUP_LOW (R139). -/
def stationLevelMask : Byte := 0x2C

/-! ## Bytes -/

/-- A number as one byte. -/
def byteOf (n : Nat) : Byte := BitVec.ofNat 8 n

/-- A number as two bytes, most significant first (R150). -/
def bytesOf16 (n : Nat) : List Byte := [BitVec.ofNat 8 (n / 256), BitVec.ofNat 8 n]

/-- A signed number as 16-bit two's complement, two bytes (R150). -/
def bytesOfInt16 (x : Int) : List Byte := bytesOf16 (BitVec.ofInt 16 x).toNat

end Sys2Proof.Machine
end

