-- ==== Sys2Proof/Decode.lean ====
section
/-! DEFINITION. From bits to commands. No row of spec/opcode_table.json gives bits, so `decodeTableWord` answers none.
What does arrive in bits is a telegram on the battery line: `decodeFrame` reads its frame by R150, `encodeFrame` writes
it, and `telegramFrame` is the frame of a telegram the part sends. -/

namespace Sys2Proof

open Sys2Proof.Machine

/-- The command that a table word spells: none, since no row of the table has bits. -/
def decodeTableWord (_nbits _w : Nat) : Option Instr := none

/-! ## The check (R150) -/

/-- One bit into the check register: shift left by one, and combine with 0x1021 when the bit shifted out differs from
the data bit. -/
def crcBit (reg : Word16) (bit : Bool) : Word16 :=
  if reg.msb != bit then (reg <<< 1) ^^^ 0x1021 else reg <<< 1

/-- One byte, most significant bit first. -/
def crcByte (reg : Word16) (b : Byte) : Word16 :=
  [7, 6, 5, 4, 3, 2, 1, 0].foldl (fun r k => crcBit r (b.getLsbD k)) reg

/-- The check of a telegram's bytes: the register starts at 0xFFFF and is not inverted at the end. -/
def crc (bytes : List Byte) : Word16 := bytes.foldl crcByte 0xFFFF

/-- The two bytes of a word, most significant first. -/
def splitWord (w : Word16) : List Byte := [w.extractLsb' 8 8, w.extractLsb' 0 8]

/-- A word from its two bytes, the first the more significant. -/
def joinWord (hi lo : Byte) : Word16 := hi ++ lo

/-! ## Frames -/

/-- Bytes 0 to 3 + length of a telegram (R150). -/
def frameBody (urgency station : Byte) (k : Kind) (payload : List Byte) : List Byte :=
  [urgency, station, byteOf k.code, byteOf payload.length] ++ payload

/-- The frame of a telegram the part sends: its kind's urgency, its own station number, and the check (R130, R150). -/
def telegramFrame (station : Nat) (k : Kind) (payload : List Byte) : List Byte :=
  let body := frameBody (byteOf k.urgency) (byteOf station) k payload
  body ++ splitWord (crc body)

/-- The arbitration field as one number, urgency first: the lower wins (R130, R131, R150). -/
def arbitrationField (urgency station : Nat) : Nat := urgency * 256 + station

/-! ## Reading and writing telegrams -/

/-- The command of a telegram of a kind, by its payload layout (R150). A PNL goes by its sub-command; 0 and above 8
are dropped (R137). PPM, PRF, QCO, CHP and CHR have no owner here (R136, step 3). -/
def commandOfPayload (h : Header) : Kind → List Byte → Option Instr
  | .mst, [position, activity, load, aligned, owner] => some (.mst h position activity load aligned owner)
  | .ovs, [oven, s1, s0, l1, l0, doors, o1, o0, p1, p0, a1, a0] =>
      some (.ovs h oven (joinWord s1 s0) (joinWord l1 l0) doors (joinWord o1 o0) (joinWord p1 p0) (joinWord a1 a0))
  | .scs, [stage, oven, reason, anchor, count, head, alarms] => some (.scs h stage oven reason anchor count head alarms)
  | .bid, [oven, l1, l0] => some (.bid h oven (joinWord l1 l0))
  | .pdn, [oven, stroke, unpermitted] => some (.pdn h oven stroke unpermitted)
  | .pas, [oven] => some (.pas h oven)
  | .rms, [oven] => some (.rms h oven)
  | .rmh, [oven, stroke] => some (.rmh h oven stroke)
  | .qcr, [orderId, verdict, reason] => some (.qcr h orderId verdict reason)
  | .cha, [oven] => some (.cha h oven)
  | .che, [oven] => some (.che h oven)
  | .pnl, [sub, oven, v1, v0, phase] =>
      match sub.toNat with
      | 1 => some (.pnlHold h oven)
      | 2 => some (.pnlRelease h oven)
      | 3 => some (.pnlOut h oven)
      | 4 => some (.pnlIn h oven)
      | 5 => some (.pnlTarget h oven (joinWord v1 v0))
      | 6 => some (.pnlDeclare h oven (joinWord v1 v0) phase)
      | 7 => some (.pnlAbort h oven)
      | 8 => some (.pnlClear h oven)
      | _ => none
  | _, _ => none

/-- Read a frame (R150): the kind must be in the catalogue and the length that of its kind (R136, steps 1 and 3), and
the frame must hold just its payload and two check bytes. A bad check is carried in the header, for the receive filter
to drop. The urgency and station bytes are taken whole, with a nonzero upper bit or a station of 0 neither masked nor
dropped: the model's choice, log 29. -/
def decodeFrame : List Byte → Option Instr
  | urgency :: station :: code :: length :: rest =>
      match kindOfCode code.toNat with
      | none => none
      | some k =>
          if length.toNat = k.payloadLength ∧ rest.length = k.payloadLength + 2 then
            let payload := rest.take k.payloadLength
            let check := rest.drop k.payloadLength
            let good := check == splitWord (crc ([urgency, station, code, length] ++ payload))
            commandOfPayload ⟨urgency, station, good⟩ k payload
          else none
  | _ => none

/-- The header, kind and payload of a command that is a telegram; a PNL field its sub-command does not use is 0. -/
def payloadOfCommand : Instr → Option (Header × Kind × List Byte)
  | .pnlHold h oven => some (h, .pnl, [1, oven, 0, 0, 0])
  | .pnlRelease h oven => some (h, .pnl, [2, oven, 0, 0, 0])
  | .pnlOut h oven => some (h, .pnl, [3, oven, 0, 0, 0])
  | .pnlIn h oven => some (h, .pnl, [4, oven, 0, 0, 0])
  | .pnlTarget h oven value => some (h, .pnl, [5, oven] ++ splitWord value ++ [0])
  | .pnlDeclare h oven value phase => some (h, .pnl, [6, oven] ++ splitWord value ++ [phase])
  | .pnlAbort h oven => some (h, .pnl, [7, oven, 0, 0, 0])
  | .pnlClear h oven => some (h, .pnl, [8, oven, 0, 0, 0])
  | .cha h oven => some (h, .cha, [oven])
  | .che h oven => some (h, .che, [oven])
  | .bid h oven lateness => some (h, .bid, [oven] ++ splitWord lateness)
  | .pas h oven => some (h, .pas, [oven])
  | .rms h oven => some (h, .rms, [oven])
  | .rmh h oven stroke => some (h, .rmh, [oven, stroke])
  | .qcr h orderId verdict reason => some (h, .qcr, [orderId, verdict, reason])
  | .mst h position activity load aligned owner => some (h, .mst, [position, activity, load, aligned, owner])
  | .ovs h oven stateWord lateness doors offtake pressure alarms =>
      some (h, .ovs, [oven] ++ splitWord stateWord ++ splitWord lateness ++ [doors] ++ splitWord offtake
        ++ splitWord pressure ++ splitWord alarms)
  | .pdn h oven stroke unpermitted => some (h, .pdn, [oven, stroke, unpermitted])
  | .scs h stage oven reason anchor count head alarms =>
      some (h, .scs, [stage, oven, reason, anchor, count, head, alarms])
  | _ => none

/-- Write a telegram's frame (R150). A header with a bad check writes one that differs from the computed check. -/
def encodeFrame (i : Instr) : Option (List Byte) :=
  match payloadOfCommand i with
  | none => none
  | some (h, k, payload) =>
      let body := frameBody h.urgency h.station k payload
      let check := if h.checkGood then crc body else crc body ^^^ 1
      some (body ++ splitWord check)

end Sys2Proof
end

