-- ==== Sys2Proof/Machine/Limits.lean ====
section
/-! DEFINITION. The intervals and counts that rules give with their unit (file 00, "Scope of numbers"). Milliseconds. -/

namespace Sys2Proof.Machine

def seconds (n : Nat) : Nat := n * 1000

/-- R18 -/
def chargeLimitMs : Nat := seconds 1800
/-- R31 -/
def holdOffMs : Nat := seconds 5
/-- R39 -/
def prepareLimitMs : Nat := seconds 900
/-- R40 -/
def armedLimitMs : Nat := seconds 600
/-- R44 -/
def rmhLimitMs : Nat := seconds 240
/-- R47, R52 -/
def doorLimitMs : Nat := seconds 900
/-- R44 -/
def permitMs : Nat := seconds 60
/-- R85 -/
def valveMotionMs : Nat := seconds 20
/-- R85 to R87 -/
def capMotionMs : Nat := seconds 15
/-- R74 -/
def pressureHighMs : Nat := seconds 60
/-- R95: the ACCEPT deadline -/
def acceptDeadlineMs : Nat := seconds 5
/-- R111 -/
def machineFreshMs : Nat := seconds 3
/-- R114 -/
def neighbourFreshMs : Nat := seconds 6
/-- R116 -/
def peerRefreshMs : Nat := seconds 6
/-- R119 -/
def settleMs : Nat := seconds 6
/-- R135 -/
def silentMs : Nat := seconds 5
/-- R143 -/
def scsPeriodMs : Nat := seconds 2
/-- R148 -/
def retryMs : Nat := seconds 5
/-- R121 -/
def debounceMs : Nat := 50

/-- R1: an age saturates here. -/
def maxAge : Nat := 4095
/-- R94 -/
def maxOrders : Nat := 4
/-- R132 -/
def maxQueue : Nat := 8
/-- R25 -/
def maxRivals : Nat := 8
/-- R116 -/
def maxPeers : Nat := 8
/-- R135: failed attempts that bring silence -/
def maxFailed : Nat := 32

end Sys2Proof.Machine
end

