-- ==== Sys2Proof/Machine/Ops.lean ====
section
/-! DEFINITION. The named operations over State that every block shares: running a meaning on the part, reaching the
records of a local oven, and offering a telegram to the transmit queue (R133). -/

namespace Sys2Proof.Machine

open Sys2Proof

/-! ## Running a meaning -/

/-- Run a meaning on the part, leaving the queue of commands as it is. -/
def State.update (s : State) (f : Part → Part) : Host.Outcome State Fault Refusal :=
  .next { s with part := f s.part }

/-- The configuration, held from a successful load until the next start (R147). -/
def Part.config (p : Part) : Option Configuration :=
  match p.load with
  | .loaded c => some c
  | _ => none

/-- The backup comparator's report: one that is not low says that the backup supply is back above the level the retained
domain needs. The spec has no event of its own for that: the model's choice, log 23. -/
def Part.hearBackup (p : Part) (low : Bool) : Part := { p with backupOn := p.backupOn || !low }

/-- Run a meaning that needs the configuration: no block has records, and the part is off the line, without one
(R138, R148). -/
def State.whenLoaded (s : State) (f : Configuration → Part → Part) : Host.Outcome State Fault Refusal :=
  s.update fun p =>
    match p.config with
    | none => p
    | some c => f c p

/-! ## Timers -/

/-- Whether a timer runs. -/
def Timer.active : Timer → Bool
  | .stopped => false
  | .running _ => true

/-- Whether a limit runs. -/
def Limit.active : Limit → Bool
  | .running _ => true
  | _ => false

/-! ## Records of local ovens -/

/-- The place, counted from 0, of a local oven F to F + K - 1. -/
def placeOf (c : Configuration) (oven : Nat) : Option Nat :=
  if c.firstOven ≤ oven ∧ oven < c.firstOven + c.ovenCount then some (oven - c.firstOven) else none

/-- Whether an oven is local. -/
def isLocal (c : Configuration) (oven : Nat) : Bool :=
  decide (c.firstOven ≤ oven ∧ oven < c.firstOven + c.ovenCount)

/-- Act on the place of a local oven; nothing happens for any other oven. -/
def withLocal (c : Configuration) (oven : Nat) (p : Part) (f : Nat → Part) : Part :=
  match placeOf c oven with
  | none => p
  | some i => f i

def Part.modifyPlace (p : Part) (i : Nat) (f : Place → Place) : Part :=
  { p with places := p.places.modify i f }

def Part.modifyOven (p : Part) (i : Nat) (f : Oven → Oven) : Part :=
  p.modifyPlace i fun pl => { pl with oven := f pl.oven }

def Part.setOfftake (p : Part) (i : Nat) (o : Offtake) : Part :=
  p.modifyPlace i fun pl => { pl with offtake := o }

/-- The door record of a side. -/
def Place.door (pl : Place) : Side → Door
  | .p => pl.doorP
  | .c => pl.doorC

def Place.withDoor (pl : Place) (side : Side) (d : Door) : Place :=
  match side with
  | .p => { pl with doorP := d }
  | .c => { pl with doorC := d }

def Part.setDoor (p : Part) (i : Nat) (side : Side) (d : Door) : Part :=
  p.modifyPlace i fun pl => pl.withDoor side d

/-- The phase of the local oven at a place, if there is one. -/
def Part.phaseAt (p : Part) (i : Nat) : Option Phase := (p.places[i]?).map fun pl => pl.oven.kept.phase

/-- Latched in the sense the other chapters use: SEALED or LEAKING (R59). -/
def DoorState.isLatched : DoorState → Bool
  | .sealed => true
  | .leaking => true
  | _ => false

/-- Both doors of a place are SEALED or LEAKING. -/
def Place.bothLatched (pl : Place) : Bool := pl.doorP.state.isLatched && pl.doorC.state.isLatched

/-- Both doors of a place are OFF. -/
def Place.bothOff (pl : Place) : Bool := pl.doorP.state == .off && pl.doorC.state == .off

/-! ## The transmit queue (R132, R133) -/

/-- The same kind and subject: one item of the queue. -/
def TxEntry.isItem (e : TxEntry) (k : Kind) (sub : Subject) : Bool := e.kind == k && e.subject == sub

/-- Place a new entry after every entry of equal or lower urgency number and before every entry of higher number. -/
def insertEntry (e : TxEntry) : List TxEntry → List TxEntry
  | [] => [e]
  | x :: xs => if e.kind.urgency < x.kind.urgency then e :: x :: xs else x :: insertEntry e xs

/-- Note that an offer has replaced the entry whose attempt is on the line. -/
def Attempt.markReplaced (a : Attempt) (k : Kind) (sub : Subject) : Attempt :=
  if a.kind = k ∧ a.subject = sub then { a with replaced := true } else a

/-- An offer to the transmit queue (R133): replaced in place, placed by urgency and offer time, or refused when eight
entries stand and none is the same item. Answers whether the offer was taken. -/
def Bli.offer (b : Bli) (k : Kind) (sub : Subject) (payload : List Byte) : Bli × Bool :=
  if b.queue.any (·.isItem k sub) then
    ({ b with
        queue := b.queue.map fun e => if e.isItem k sub then { e with payload := payload } else e
        attempt := b.attempt.map (·.markReplaced k sub) }, true)
  else if b.queue.length < maxQueue then
    ({ b with
        queue := insertEntry ⟨k, sub, payload, b.offerClock⟩ b.queue
        offerClock := b.offerClock + 1 }, true)
  else (b, false)

/-- A producer's offer, for a producer that drops a refusal. -/
def Part.offer (p : Part) (k : Kind) (sub : Subject) (payload : List Byte) : Part :=
  { p with bli := (p.bli.offer k sub payload).1 }

/-- Whether the queue would take an offer. -/
def Part.takes (p : Part) (k : Kind) (sub : Subject) (payload : List Byte) : Bool :=
  (p.bli.offer k sub payload).2

end Sys2Proof.Machine
end

