-- ==== Sys2Proof/Machine/Operands.lean ====
section
/-! DEFINITION. The operand forms: who may send a telegram (the receive filter, R136), the packed fields of received
telegrams (R150), and the switch inputs of a place (R121, R122). -/

namespace Sys2Proof.Machine

open Sys2Proof

/-! ## The receive filter (R136) -/

/-- A telegram from another station with a good check: steps 1 and 2. The echo of an own attempt is taken within
ATTEMPT_SUCCEEDED (R134). -/
def fromOther (h : Header) (c : Configuration) : Bool :=
  h.checkGood && h.station.toNat != c.station

/-- Step 4: a kind taken from one configured station only. -/
def isFrom (h : Header) (c : Configuration) (station : Nat) : Bool :=
  fromOther h c && h.station.toNat == station

/-- Step 4: a PNL is taken from the configured panel stations; an entry of 0 names no station. -/
def isFromPanel (h : Header) (c : Configuration) : Bool :=
  fromOther h c && h.station.toNat != 0 && c.panelStations.contains h.station.toNat

/-! ## Packed fields -/

/-- Signed 16-bit two's complement (R150). -/
def signed16 (w : Word16) : Int := w.toInt

/-- The phase code of an OVS state word: bits 14 to 12. -/
def stateWordPhase (w : Word16) : Nat := w.toNat / 4096 % 8

/-- The age of an OVS state word: bits 11 to 0. -/
def stateWordAge (w : Word16) : Nat := w.toNat % 4096

/-! ## Switch inputs -/

def PlaceInputs.get (x : PlaceInputs) : SwitchInput → Input
  | .valveClosed => x.valveClosed
  | .capOpen => x.capOpen
  | .capClosed => x.capClosed
  | .present .p => x.presentP
  | .latched .p => x.latchedP
  | .leak .p => x.leakP
  | .present .c => x.presentC
  | .latched .c => x.latchedC
  | .leak .c => x.leakC

def PlaceInputs.set (x : PlaceInputs) (input : SwitchInput) (v : Input) : PlaceInputs :=
  match input with
  | .valveClosed => { x with valveClosed := v }
  | .capOpen => { x with capOpen := v }
  | .capClosed => { x with capClosed := v }
  | .present .p => { x with presentP := v }
  | .latched .p => { x with latchedP := v }
  | .leak .p => { x with leakP := v }
  | .present .c => { x with presentC := v }
  | .latched .c => { x with latchedC := v }
  | .leak .c => { x with leakC := v }

/-- The number of an input within its place, in the order file 08 lists the nine. -/
def inputNumber : SwitchInput → Nat
  | .valveClosed => 0
  | .capOpen => 1
  | .capClosed => 2
  | .present .p => 3
  | .latched .p => 4
  | .leak .p => 5
  | .present .c => 6
  | .latched .c => 7
  | .leak .c => 8

/-- The pin of an input at a place counted from 0. -/
def pinLevel (pins : Pins) (i : Nat) (input : SwitchInput) : Bool := pins.getLsbD (9 * i + inputNumber input)

/-- The debounced level an owner reads (R122); an input without a first level reads inactive. -/
def Part.level (p : Part) (i : Nat) (input : SwitchInput) : Bool :=
  match p.fls.inputs[i]? with
  | none => false
  | some x => (x.get input).level.getD false

/-- The debounced levels of the three offtake switches. -/
structure OfftakeLevels where
  valveClosed : Bool
  capOpen : Bool
  capClosed : Bool
  deriving DecidableEq, Repr

def Part.offtakeLevels (p : Part) (i : Nat) : OfftakeLevels :=
  { valveClosed := p.level i .valveClosed, capOpen := p.level i .capOpen, capClosed := p.level i .capClosed }

end Sys2Proof.Machine
end

