-- ==== Sys2Proof/Machine/Flags.lean ====
section
/-! DEFINITION. The alarm flags and what follows from them at once: the alarm sets (R139), the relay decision (R141),
the OVS and SCS contents and the event offer of an OVS (R142, R143), and the OVERDUE condition (R4). -/

namespace Sys2Proof.Machine

open Sys2Proof

/-! ## Alarm sets (R139) -/

def ovenBit (a : OvenAlarm) : Word16 := 1 <<< a.bit

def stationBit (a : StationAlarm) : Byte := 1 <<< a.bit

/-- Whether an alarm is raised in an oven alarm set. -/
def hasOven (set : Word16) (a : OvenAlarm) : Bool := set.getLsbD a.bit

/-- Whether an alarm is raised in the station alarm set. -/
def hasStation (set : Byte) (a : StationAlarm) : Bool := set.getLsbD a.bit

/-! ## Lateness (R4) -/

/-- Age minus target coking time. -/
def Retained.lateness (r : Retained) : Int := (r.age : Int) - (r.target : Int)

/-- Whether OVERDUE holds (R4). -/
def Retained.isOverdue (c : Configuration) (r : Retained) : Bool :=
  r.phase == .ready && decide ((c.overdueAfter : Int) ≤ r.lateness)

/-- Whether an age is at or above the ready threshold, target minus M_early (R2, R3). -/
def Retained.atThreshold (c : Configuration) (r : Retained) : Bool :=
  decide ((r.target : Int) - (c.earlyMargin : Int) ≤ (r.age : Int))

/-! ## The relay (R141) -/

/-- The relay decision. -/
def relayDecision (c : Configuration) (places : List Place) (station : Byte) (configFault : Bool) : Bool :=
  places.any (fun pl => pl.oven.alarms &&& c.ovenMask != 0)
    || (station &&& c.stationMask &&& 0x7F) != 0
    || configFault

/-- Take the relay decision again (R141). -/
def Part.decideRelay (c : Configuration) (p : Part) : Part :=
  { p with asr := { p.asr with relay := relayDecision c p.places p.asr.station p.asr.configFault } }

/-! ## Oven state telegrams (R142, R150) -/

def stateWordOf (r : Retained) : Nat := (if r.hold then 32768 else 0) + r.phase.code * 4096 + r.age % 4096

def offtakeWordOf (o : Offtake) : Nat := o.mode.code * 16384 + subCode o.sub * 4096 + o.valve % 1024

/-- The pressure field: two's complement, or the no-sample marker 0x8000 (R150). -/
def pressureBytes : Option Int → List Byte
  | none => bytesOf16 0x8000
  | some x => bytesOfInt16 x

/-- The OVS payload of a local oven as it stands. -/
def ovsPayload (pl : Place) : List Byte :=
  [byteOf pl.oven.number] ++ bytesOf16 (stateWordOf pl.oven.kept) ++ bytesOfInt16 pl.oven.kept.lateness
    ++ [byteOf (pl.doorP.state.code * 16 + pl.doorC.state.code)]
    ++ bytesOf16 (offtakeWordOf pl.offtake) ++ pressureBytes pl.offtake.pressure
    ++ bytesOf16 pl.oven.alarms.toNat

/-- Offer an OVS for the local oven at a place; a refused offer is skipped (R142). -/
def Part.offerOvs (p : Part) (i : Nat) : Part :=
  match p.places[i]? with
  | none => p
  | some pl => p.offer .ovs (.oven pl.oven.number) (ovsPayload pl)

/-! ## Section state telegrams (R143, R150) -/

/-- The head byte: kind code in bits 7 to 4, state code in bits 3 to 0; 0 for an empty list. -/
def headByte : List Order → Nat
  | [] => 0
  | o :: _ => o.kind.code * 16 + o.state.code

/-- The SCS payload as the part stands. -/
def scsPayload (p : Part) : List Byte :=
  let stage := (p.psq.context.map fun x => x.stage.code).getD 0
  let oven := (p.psq.context.map fun x => x.oven).getD 0
  let reason := ((p.psq.context.bind fun x => x.reason).map AbortReason.code).getD 0
  [byteOf stage, byteOf oven, byteOf reason, byteOf (p.lvt.anchor.getD 0), byteOf p.qou.orders.length,
    byteOf (headByte p.qou.orders), p.asr.station &&& 0x7F]

/-! ## Raising and clearing -/

/-- Store a new alarm set of an oven; a change is acted on at once by the relay decision and the event offer (R139). -/
def setOvenAlarms (c : Configuration) (i : Nat) (set : Word16) (p : Part) : Part :=
  match p.places[i]? with
  | none => p
  | some pl =>
      if pl.oven.alarms = set then p
      else ((p.modifyOven i fun o => { o with alarms := set }).decideRelay c).offerOvs i

/-- Raise an alarm of the oven at a place. -/
def raiseOven (c : Configuration) (i : Nat) (a : OvenAlarm) (p : Part) : Part :=
  match p.places[i]? with
  | none => p
  | some pl => setOvenAlarms c i (pl.oven.alarms ||| ovenBit a) p

/-- Remove a level alarm of the oven at a place. -/
def removeOven (c : Configuration) (i : Nat) (a : OvenAlarm) (p : Part) : Part :=
  match p.places[i]? with
  | none => p
  | some pl => setOvenAlarms c i (pl.oven.alarms &&& ~~~ovenBit a) p

/-- Hold or remove a level alarm of the oven at a place by its condition. -/
def holdOven (c : Configuration) (i : Nat) (a : OvenAlarm) (on : Bool) (p : Part) : Part :=
  if on then raiseOven c i a p else removeOven c i a p

/-- Store a new station alarm set, with the relay decision (R139, R141). -/
def setStationAlarms (c : Configuration) (set : Byte) (p : Part) : Part :=
  { p with asr := { p.asr with station := set } }.decideRelay c

/-- Raise a station alarm. -/
def raiseStation (c : Configuration) (a : StationAlarm) (p : Part) : Part :=
  setStationAlarms c (p.asr.station ||| stationBit a) p

/-- Remove a level station alarm. -/
def removeStation (c : Configuration) (a : StationAlarm) (p : Part) : Part :=
  setStationAlarms c (p.asr.station &&& ~~~stationBit a) p

/-- Hold or remove a level station alarm by its condition. -/
def holdStation (c : Configuration) (a : StationAlarm) (on : Bool) (p : Part) : Part :=
  if on then raiseStation c a p else removeStation c a p

/-- Evaluate OVERDUE again from the oven's phase and lateness (R4). -/
def evalOverdue (c : Configuration) (i : Nat) (p : Part) : Part :=
  match p.places[i]? with
  | none => p
  | some pl => holdOven c i .overdue (pl.oven.kept.isOverdue c) p

end Sys2Proof.Machine
end

