-- ==== Sys2Proof/Machine/CarOrders.lean ====
section
/-! DEFINITION. The car order list (QOU): offers from the PSQ, order ids, sending the head, withdrawal (R94 to R98, R106). -/

namespace Sys2Proof.Machine

open Sys2Proof

/-- The DONE deadline of a kind (R95). -/
def OrderKind.doneDeadline : OrderKind → Nat
  | .spot _ => seconds 240
  | .quench _ => seconds 300
  | .dump => seconds 300
  | .release => seconds 30

/-- Only a SPOT's outcome is owed to the PSQ (R95). -/
def OrderKind.owesOutcome : OrderKind → Bool
  | .spot _ => true
  | _ => false

def OrderKind.isRelease : OrderKind → Bool
  | .release => true
  | _ => false

/-- The QCO payload of an order (R98, R150). -/
def qcoPayload (o : Order) : List Byte :=
  let oven := match o.kind with
    | .spot n => n
    | _ => 0
  let secs := match o.kind with
    | .quench n => n
    | _ => 0
  [byteOf o.id, byteOf o.kind.code, byteOf oven, byteOf secs]

/-- From 255 back to 1; the id 0 is not used (R97). -/
def nextOrderId (n : Nat) : Nat := if n ≥ 255 then 1 else n + 1

/-- In flight: SENT, ACCEPTED, or QUEUED with its offered flag set (R106). -/
def Order.inFlight (o : Order) : Bool :=
  match o.state with
  | .queued => o.offered
  | _ => true

/-- Offer the head to the transmit queue when it is QUEUED and not offered (R98). -/
def qouOfferHead (p : Part) : Part :=
  match p.qou.orders with
  | [] => p
  | head :: rest =>
      if head.state = .queued ∧ head.offered = false then
        if p.takes .qco (.order head.id) (qcoPayload head) then
          let p := p.offer .qco (.order head.id) (qcoPayload head)
          { p with qou := { p.qou with orders := { head with offered := true } :: rest } }
        else p
      else p

/-- A new order at the tail, with the next id (R96, R97). -/
def qouCreate (kind : OrderKind) (p : Part) : Part :=
  let o : Order :=
    { id := p.qou.nextId, kind := kind, state := .queued, offered := false, owed := kind.owesOutcome
      deadline := .stopped }
  { p with qou := { orders := p.qou.orders ++ [o], nextId := nextOrderId p.qou.nextId } }

/-- Whether the list takes an offer (R96). -/
def qouTakes (p : Part) : Bool := decide (p.qou.orders.length < maxOrders)

/-- Take an offered order; one appended to an empty list is offered to the line at once (R96, R98). Only called when
`qouTakes` holds. -/
def qouAppend (kind : OrderKind) (p : Part) : Part :=
  let created := qouCreate kind p
  if p.qou.orders.isEmpty then qouOfferHead created else created

/-- What is left of the list by a withdrawal: the head when it is in flight, owing no outcome (R106, steps 1 to 3). -/
def keptByWithdrawal : List Order → List Order
  | [] => []
  | head :: _ => if head.inFlight then [{ head with owed := false }] else []

/-- Withdraw on an abort and append a RELEASE (R106). -/
def qouWithdraw (p : Part) : Part :=
  qouAppend .release { p with qou := { p.qou with orders := keptByWithdrawal p.qou.orders } }

end Sys2Proof.Machine
end

