-- ==== Sys2Proof/Machine/Doors.lean ====
section
/-! DEFINITION. The DMN on one door record: entries to each state with their timers, the switch table, leak spells,
reseal-wanted and the permit decision (R59 to R69). What the other blocks do about a change is in Reactions.lean. -/

namespace Sys2Proof.Machine

open Sys2Proof

/-! ## Entries (R59, R61, R66 to R68) -/

/-- The interval of the two spell timers: reseal_after minutes (R68). -/
def spellMs (c : Configuration) : Nat := seconds (c.resealAfter * 60)

/-- The four timers stopped. -/
def Door.stopTimers (d : Door) : Door :=
  { d with leakTimer := .stopped, clearTimer := .stopped, leakingSpell := .stopped, sealedSpell := .stopped }

/-- Enter SEALED: the leak line is read as it stands (R66), and the sealed spell runs while reseal-wanted is set (R68). -/
def Door.enterSealed (c : Configuration) (leak : Bool) (d : Door) : Door :=
  { d.stopTimers with
      state := .sealed, permit := false
      leakTimer := if leak then .running (seconds c.leakOn) else .stopped
      sealedSpell := if d.resealWanted then .running (spellMs c) else .stopped }

/-- Enter LEAKING on a confirmed leak: the leaking spell starts, and the clear timer at once for an inactive line (R66, R67). -/
def Door.enterLeaking (c : Configuration) (leak : Bool) (d : Door) : Door :=
  { d.stopTimers with
      state := .leaking, permit := false
      clearTimer := if leak then .stopped else .running (seconds c.leakOff)
      leakingSpell := .running (spellMs c) }

/-- Enter RELEASED: the permit line is active only here (R59, R63). -/
def Door.enterReleased (d : Door) : Door := { d.stopTimers with state := .released, permit := true }

def Door.enterUnlatched (d : Door) : Door := { d.stopTimers with state := .unlatched, permit := false }

/-- Enter OFF, where reseal-wanted is cleared (R60, R68). -/
def Door.enterOff (d : Door) : Door := { d.stopTimers with state := .off, permit := false, resealWanted := false }

/-- Enter FAULT (R61). -/
def Door.enterFault (d : Door) : Door := { d.stopTimers with state := .fault, permit := false }

/-! ## The permit decision (R63 to R65) -/

/-- The conditions of R63 that the two doors of an oven share: the push context in PREPARE or ARMED for the oven, the
offtake in ISOLATE REACHED, the latest sample valid and at or below permit_max. -/
def permitReady (c : Configuration) (p : Part) (i : Nat) : Bool :=
  match p.psq.context, p.places[i]? with
  | some x, some pl =>
      (x.stage == .prepare || x.stage == .armed) && x.oven == pl.oven.number
        && pl.offtake.mode == .isolate && pl.offtake.sub == some .reached
        && (match pl.offtake.pressure with
            | none => false
            | some v => decide (v ≤ (c.permitMax : Int)))
  | _, _ => false

/-- The decision on one door: a latched door is released when the conditions hold, a released one returns to SEALED when
they fail (R63, R65). A door that is not present and latched keeps its state. -/
def Door.decide (c : Configuration) (ready leak : Bool) (d : Door) : Door :=
  if ready then (if d.state.isLatched then d.enterReleased else d)
  else if d.state = .released then d.enterSealed c leak else d

/-! ## Switch changes (R60, R62) -/

/-- The state table of R60 for the present line. -/
def Door.presentChange (c : Configuration) (ready leak level : Bool) (d : Door) : Door :=
  match d.state, level with
  | .sealed, false => d.enterFault
  | .leaking, false => d.enterFault
  | .released, false => d.enterFault
  | .unlatched, false => d.enterOff
  | .off, true => d.enterUnlatched
  | .fault, true => (d.enterSealed c leak).decide c ready leak
  | _, _ => d

/-- The state table of R60 for the latched line. -/
def Door.latchedChange (c : Configuration) (ready leak level : Bool) (d : Door) : Door :=
  match d.state, level with
  | .sealed, false => d.enterUnlatched
  | .leaking, false => d.enterUnlatched
  | .released, false => d.enterUnlatched
  | .unlatched, true => (d.enterSealed c leak).decide c ready leak
  | .off, true => d.enterFault
  | .fault, false => d.enterOff
  | _, _ => d

/-- The leak line's changes: counted only in SEALED and LEAKING (R66, R67). -/
def Door.leakChange (c : Configuration) (level : Bool) (d : Door) : Door :=
  match d.state with
  | .sealed => { d with leakTimer := if level then .running (seconds c.leakOn) else .stopped }
  | .leaking => { d with clearTimer := if level then .stopped else .running (seconds c.leakOff) }
  | _ => d

def forcedAlarm : Side → OvenAlarm
  | .p => .doorForcedP
  | .c => .doorForcedC

def resealAlarm : Side → OvenAlarm
  | .p => .resealP
  | .c => .resealC

/-- DOOR_FORCED: a sealed or leaking door becomes UNLATCHED (R62); and a door of a CHARGING oven becomes UNLATCHED, OFF or
FAULT (R18), but for the changes out of RELEASED and FAULT, of which R62 and R61 say that they raise none. R18 goes beyond
R60 to R62, and the model raises both rules' alarms: its choice, log 24. -/
def doorForced (charging : Bool) (old new : DoorState) : Bool :=
  (old.isLatched && new == .unlatched)
    || (charging && old != new && (old.isLatched || old == .unlatched || old == .off)
      && (new == .unlatched || new == .off || new == .fault))

/-- The alarms of a change of state: DOOR_SWITCH on entering FAULT (R61), and DOOR_FORCED (R18, R62). -/
def doorChangeAlarms (charging : Bool) (side : Side) (old new : DoorState) : List OvenAlarm :=
  (if new = .fault ∧ old ≠ .fault then [.doorSwitch] else [])
    ++ (if doorForced charging old new then [forcedAlarm side] else [])

/-! ## Spell expiries (R66 to R68) -/

/-- The door condition of an oven (R69): a door LEAKING, UNLATCHED, OFF or FAULT. -/
def DoorState.lowersSetpoint : DoorState → Bool
  | .leaking => true
  | .unlatched => true
  | .off => true
  | .fault => true
  | _ => false

def Place.doorCondition (pl : Place) : Bool := pl.doorP.state.lowersSetpoint || pl.doorC.state.lowersSetpoint

/-! ## Storing the record -/

/-- Store a door record, with the event offer of a change of state (R142) and the level alarm of reseal-wanted (R68). -/
def commitDoor (c : Configuration) (i : Nat) (side : Side) (d : Door) (p : Part) : Part :=
  match p.places[i]? with
  | none => p
  | some pl =>
      let stored := p.setDoor i side d
      let shown := if (pl.door side).state = d.state then stored else stored.offerOvs i
      holdOven c i (resealAlarm side) d.resealWanted shown

/-- Take the permit decision for one door (R63 to R65). -/
def permitDecide (c : Configuration) (i : Nat) (side : Side) (p : Part) : Part :=
  match p.places[i]? with
  | none => p
  | some pl =>
      let d := (pl.door side).decide c (permitReady c p i) (p.level i (.leak side))
      if d = pl.door side then p else commitDoor c i side d p

/-- Take the permit decision for both doors of an oven, P before C (R64). -/
def permitPass (c : Configuration) (i : Nat) (p : Part) : Part := permitDecide c i .c (permitDecide c i .p p)

end Sys2Proof.Machine
end

