-- ==== Sys2Proof/Machine/Offtake.lean ====
section
/-! DEFINITION. The OCU on one offtake record: conversion, setpoint and PI step (R72 to R82), the motion sequences and
mode changes (R83 to R92). Functions of the record, the configuration and the debounced switches; what the other
blocks do about a change is in Reactions.lean. -/

namespace Sys2Proof.Machine

open Sys2Proof

/-! ## Samples (R72, R73, R74) -/

def clampInt (lo hi x : Int) : Int := max lo (min hi x)

/-- A code as a pressure: difference to the zero code times span, divided by 4096 toward zero, clamped (R72). -/
def convert (c : Configuration) (i : Nat) (code : Nat) : Int :=
  clampInt (-1000) 1000
    ((((code : Int) - ((c.zeroCodes.getD i 0 : Nat) : Int)) * (c.span : Int)).tdiv 4096)

/-- A valid sample recorded and counted (R72, steps 1 and 2). -/
def Offtake.countValid (o : Offtake) (pressure : Int) : Offtake :=
  { o with pressure := some pressure, invalidCount := 0, validCount := min 4 (o.validCount + 1) }

/-- An invalid sample recorded and counted (R72, steps 1 and 2 for an invalid sample). -/
def Offtake.countInvalid (o : Offtake) : Offtake :=
  { o with pressure := none, validCount := 0, invalidCount := min 3 (o.invalidCount + 1) }

/-- The fourth consecutive valid sample clears the sensor-failed flag (R73). -/
def Offtake.recovers (o : Offtake) : Bool := o.sensorFailed && o.validCount == 4

/-- The third consecutive invalid sample sets it (R73). -/
def Offtake.fails (o : Offtake) : Bool := !o.sensorFailed && o.invalidCount == 3

/-- PRESSURE_HIGH timing of a valid sample (R74). -/
def Offtake.timeHigh (c : Configuration) (raised : Bool) (pressure : Int) (o : Offtake) : Offtake :=
  if pressure ≤ (c.pHigh : Int) then { o with highTimer := .stopped }
  else if o.mode = .pi ∧ o.highTimer = .stopped ∧ raised = false then { o with highTimer := .running pressureHighMs }
  else o

/-! ## Setpoint (R75, R76) -/

def baseSetpoint (c : Configuration) (age : Nat) : Nat :=
  if age < c.t1 then c.spEarly else if age < c.t2 then c.spMid else c.spLate

/-- The setpoint, lowered while the door condition applies. -/
def setpoint (c : Configuration) (age : Nat) (doorCondition : Bool) : Nat :=
  let base := baseSetpoint c age
  if doorCondition then
    if c.spFloor ≤ base then max c.spFloor (base - c.leakOffset) else base
  else base

/-! ## PI (R77 to R82) -/

/-- The error, clamped (R78, stage 1). -/
def piError (sp : Nat) (pressure : Int) : Int := clampInt (-500) 500 (pressure - (sp : Int))

/-- The proportional part, truncated toward zero (R78, stage 2). -/
def proportional (c : Configuration) (e : Int) : Int := ((c.kp : Int) * e).tdiv 8

def clampAcc (x : Int) : Nat := (clampInt 0 64000 x).toNat

/-- Conditional integration (R79). -/
def integrate (c : Configuration) (e trial : Int) (acc : Nat) : Nat :=
  if ((c.uMax : Int) ≤ trial ∧ 0 < e) ∨ (trial ≤ (c.uMin : Int) ∧ e < 0) then acc
  else clampAcc ((acc : Int) + (c.ki : Int) * e)

/-- Clamp a command into the band u_min to u_max. -/
def clampBand (c : Configuration) (u : Int) : Nat := (clampInt (c.uMin : Int) (c.uMax : Int) u).toNat

/-- The slew limit against the previous command (R80, stage 7). -/
def slewLimit (c : Configuration) (previous target : Nat) : Nat :=
  if c.uMin ≤ previous ∧ previous ≤ c.uMax then max (previous - c.slew) (min (previous + c.slew) target)
  else target

/-- The PI step (R77 to R80). -/
def Offtake.piStep (c : Configuration) (sp : Nat) (pressure : Int) (o : Offtake) : Offtake :=
  let e := piError sp pressure
  let prop := proportional c e
  let acc := integrate c e (prop + ((o.acc / 64 : Nat) : Int)) o.acc
  let raw := prop + ((acc / 64 : Nat) : Int)
  { o with acc := acc, valve := slewLimit c o.valve (clampBand c raw) }

/-- The entry step seeds the accumulator and leaves the command (R82). -/
def Offtake.entryStep (c : Configuration) (sp : Nat) (pressure : Int) (o : Offtake) : Offtake :=
  { o with acc := clampAcc (((o.valve : Int) - proportional c (piError sp pressure)) * 64), entryPending := false }

/-- What a valid sample does in PI: the entry step while it is pending, else the PI step (R72, step 5). -/
def Offtake.control (c : Configuration) (sp : Nat) (pressure : Int) (o : Offtake) : Offtake :=
  if o.entryPending then o.entryStep c sp pressure else o.piStep c sp pressure

/-! ## Mode entries (R81, R92) -/

/-- Enter PI (R81). -/
def Offtake.enterPi (c : Configuration) (o : Offtake) : Offtake :=
  { o with
      mode := .pi, sub := none, next := none, awaits := none
      valve := clampBand c (o.valve : Int), capOpen := false, entryPending := true
      valveTimer := .stopped, capTimer := .stopped }

/-- Enter HOLD (R92). -/
def Offtake.enterHold (c : Configuration) (o : Offtake) : Offtake :=
  { o with
      mode := .hold, sub := none, next := none, awaits := none
      valve := c.uFail, capOpen := false, entryPending := false
      valveTimer := .stopped, capTimer := .stopped, highTimer := .stopped }

/-- PI, or HOLD for a failed sensor (R87, R91). -/
def Offtake.enterControl (c : Configuration) (o : Offtake) : Offtake :=
  if o.sensorFailed then o.enterHold c else o.enterPi c

/-! ## Sequences (R85 to R87) -/

/-- Cap-open confirmed: REACHED (R85, second step). -/
def Offtake.isolateReached (o : Offtake) : Offtake :=
  { o with sub := some .reached, awaits := none, capTimer := .stopped }

/-- Valve-closed confirmed: open the cap (R85, first step). -/
def Offtake.isolateValveClosed (lv : OfftakeLevels) (o : Offtake) : Offtake :=
  let o := { o with
    sub := some .moving, awaits := some .capOpen, capOpen := true
    valveTimer := .stopped, capTimer := .running capMotionMs }
  if lv.capOpen then o.isolateReached else o

/-- Wait for valve-closed: the start of the ISOLATE sequence, and its return to the first step (R85). -/
def Offtake.awaitValveClosed (o : Offtake) : Offtake :=
  { o with
      sub := some .moving, awaits := some .valveClosed
      valveTimer := .running valveMotionMs, capTimer := .stopped }

/-- Start the ISOLATE sequence from whatever mode the record holds (R85, R90). -/
def Offtake.startIsolate (lv : OfftakeLevels) (o : Offtake) : Offtake :=
  let o := { o.awaitValveClosed with
    mode := .isolate, next := none, valve := 0, entryPending := false, highTimer := .stopped }
  if lv.valveClosed then o.isolateValveClosed lv else o

/-- Close the cap with the valve shut, toward a next mode (R86, R87). -/
def Offtake.closeCapToward (next : NextMode) (o : Offtake) : Offtake :=
  { o with
      mode := .isolate, sub := some .moving, next := some next, awaits := some .capClosed
      valve := 0, capOpen := false, entryPending := false
      valveTimer := .stopped, capTimer := .running capMotionMs, highTimer := .stopped }

/-- Cap-closed confirmed toward ASPIRATE (R86). -/
def Offtake.aspirateReached (o : Offtake) : Offtake :=
  { o with
      mode := .aspirate, sub := some .reached, next := none, awaits := none
      valve := 1000, capTimer := .stopped }

/-- Start the ASPIRATE sequence (R86). -/
def Offtake.startAspirate (lv : OfftakeLevels) (o : Offtake) : Offtake :=
  if lv.capClosed then (o.closeCapToward .aspirate).aspirateReached else o.closeCapToward .aspirate

/-- Start the return to PI (R87). -/
def Offtake.startReturn (c : Configuration) (lv : OfftakeLevels) (o : Offtake) : Offtake :=
  if lv.capClosed then (o.closeCapToward .pi).enterControl c else o.closeCapToward .pi

/-! ## What a mode is called for (R84, R90) -/

/-- What a request or a phase calls for. `control` is PI, or HOLD while the sensor has failed. -/
inductive ModeCall where
  | isolate
  | aspirate
  | control
  | hold
  deriving DecidableEq, Repr

/-- The record already holds, or is moving toward, the mode called for (R84). In HOLD the mode PI is entered by a valid
sample and not by the call (R92); a record moving toward PI is moving toward PI or HOLD by its sensor (log 10). -/
def Offtake.towardMode (o : Offtake) : ModeCall → Bool
  | .isolate => o.mode == .isolate && o.next == none
  | .aspirate => o.mode == .aspirate || (o.mode == .isolate && o.next == some .aspirate)
  | .control => o.mode == .pi || o.mode == .hold || (o.mode == .isolate && o.next == some .pi)
  | .hold => o.mode == .hold

/-- Start the sequence of a mode, or enter it. -/
def Offtake.startMode (c : Configuration) (lv : OfftakeLevels) (o : Offtake) : ModeCall → Offtake
  | .isolate => o.startIsolate lv
  | .aspirate => o.startAspirate lv
  | .control => if o.mode = .aspirate then { o.enterControl c with aspirateTimer := .stopped } else o.startReturn c lv
  | .hold => o.enterHold c

/-- A call for a mode: nothing when the record holds it or moves toward it, unless it is FAILED there; else the new
sequence starts at once (R84, R90). -/
def Offtake.callMode (c : Configuration) (lv : OfftakeLevels) (o : Offtake) (call : ModeCall) : Offtake :=
  if o.towardMode call && o.sub != some .failed then o else o.startMode c lv call

/-- The mode a phase calls for (R84). -/
def Phase.modeCall : Phase → ModeCall
  | .unknown => .hold
  | .empty => .isolate
  | .charging => .aspirate
  | .coking => .control
  | .ready => .control
  | .pushing => .isolate
  | .out => .isolate

/-- What the offtake does on a change of phase (R84, R91). The charge end starts the aspirate hold and keeps the mode;
with aspirate_hold 0 its expiry is taken at once. Leaving COKING stops the hold. -/
def Offtake.phaseChange (c : Configuration) (lv : OfftakeLevels) (old new : Phase) (o : Offtake) : Offtake :=
  if old = Phase.charging ∧ new = Phase.coking then
    if c.aspirateHold = 0 then { o.enterControl c with aspirateTimer := .stopped }
    else { o with aspirateTimer := .running (seconds c.aspirateHold) }
  else
    ({ o with aspirateTimer := if new = Phase.coking then o.aspirateTimer else .stopped }).callMode c lv new.modeCall

/-! ## Switch changes (R85 to R89) -/

/-- Every confirmation that REACHED rests on is present (R89). -/
def Offtake.confirmed (lv : OfftakeLevels) (o : Offtake) : Bool :=
  match o.mode with
  | .isolate => lv.valveClosed && lv.capOpen
  | .aspirate => lv.capClosed
  | _ => false

/-- FAILED by a lost confirmation, with no confirmation awaited by a sequence (R89, log 9). -/
def Offtake.lost (o : Offtake) : Bool := o.sub == some .failed && o.awaits == none

/-- REACHED again when every confirmation is present again (R89). -/
def Offtake.regain (lv : OfftakeLevels) (o : Offtake) : Offtake :=
  if o.lost && o.confirmed lv then { o with sub := some .reached } else o

/-- A confirmation that has come: the awaited one takes the sequence's step, in time or late (R85 to R88). -/
def Offtake.confirm (c : Configuration) (lv : OfftakeLevels) (o : Offtake) (which : Confirmation) : Offtake :=
  if o.awaits = some which then
    match which with
    | .valveClosed => o.isolateValveClosed lv
    | .capOpen => o.isolateReached
    | .capClosed =>
        match o.next with
        | some .aspirate => o.aspirateReached
        | _ => o.enterControl c
  else o.regain lv

/-- Whether a lost confirmation takes REACHED to FAILED (R89). -/
def Offtake.losesReached (o : Offtake) (which : Confirmation) : Bool :=
  o.sub == some .reached &&
    match which with
    | .valveClosed => o.mode == .isolate
    | .capOpen => o.mode == .isolate
    | .capClosed => o.mode == .aspirate

/-- A confirmation that is gone: REACHED becomes FAILED (R89); a sequence waiting for cap-open goes back to its first
step when valve-closed is lost (R85). -/
def Offtake.unconfirm (o : Offtake) (which : Confirmation) : Offtake :=
  if o.losesReached which then { o with sub := some .failed }
  else if which = .valveClosed ∧ o.awaits = some .capOpen then o.awaitValveClosed
  else o

/-- The alarm of a lost confirmation (R89). -/
def Confirmation.alarm : Confirmation → OvenAlarm
  | .valveClosed => .valveFault
  | .capOpen => .capFault
  | .capClosed => .capFault

/-! ## Reports (R83, R87) -/

inductive Report where
  | aspirateReached
  | aspirateFailed
  | isolateReached
  | isolateFailed
  | piEntered
  | returnFailed
  deriving DecidableEq, Repr

/-- The report that a change of the record makes (R83, R87), none when mode and sub-state are unchanged. -/
def reportOf (old new : Offtake) : Option Report :=
  if old.mode = new.mode ∧ old.sub = new.sub then none
  else
    match new.mode, new.sub, new.next with
    | .aspirate, some .reached, _ => some .aspirateReached
    | .aspirate, some .failed, _ => some .aspirateFailed
    | .isolate, some .reached, none => some .isolateReached
    | .isolate, some .failed, none => some .isolateFailed
    | .isolate, some .failed, some .aspirate => some .aspirateFailed
    | .isolate, some .failed, some .pi => some .returnFailed
    | .pi, _, _ => if old.mode = .isolate then some .piEntered else none
    | .hold, _, _ => if old.mode = .isolate then some .piEntered else none
    | _, _, _ => none

/-! ## Storing the record -/

/-- Write a valve command to a channel's compare buffer (R80, R124). -/
def Part.writeValve (p : Part) (i : Nat) (u : Nat) : Part :=
  { p with fls := { p.fls with channels := p.fls.channels.modify i fun ch => { ch with buffered := u } } }

/-- Store an offtake record with its valve command in the compare buffer, and make the event offer of a change of mode
or sub-state (R71, R142). -/
def commitOfftake (i : Nat) (o : Offtake) (p : Part) : Part :=
  match p.places[i]? with
  | none => p
  | some pl =>
      let stored := (p.setOfftake i o).writeValve i o.valve
      if pl.offtake.mode = o.mode ∧ pl.offtake.sub = o.sub then stored else stored.offerOvs i

end Sys2Proof.Machine
end

