-- ==== Sys2Proof/Machine/Series.lean ====
section
/-! DEFINITION. Series arithmetic (R20 to R22) and eligibility (R23, R24): what the BSU computes from the configuration,
the records and the views. -/

namespace Sys2Proof.Machine

open Sys2Proof

/-! ## Position and distance -/

/-- The class of oven n. -/
def classOf (c : Configuration) (n : Nat) : Nat := (n - 1) % c.step

/-- The size of class r: the battery ovens in it. -/
def classSize (c : Configuration) (r : Nat) : Nat := (c.batteryOvens + c.step - 1 - r) / c.step

/-- The series position of oven n: the sizes of the classes ranked before its own, plus its index (R20). -/
def seriesPosition (c : Configuration) (n : Nat) : Nat :=
  ((c.classOrder.takeWhile (· != classOf c n)).map (classSize c)).sum + (n - 1) / c.step

/-- The distance of oven n from the anchor (R21). -/
def distance (c : Configuration) (anchor : Option Nat) (n : Nat) : Nat :=
  match anchor with
  | none => seriesPosition c n
  | some a => (seriesPosition c n + c.batteryOvens - (seriesPosition c a + 1)) % c.batteryOvens

/-! ## Bid keys (R22) -/

structure BidKey where
  distance : Nat
  negLateness : Int
  oven : Nat
  deriving DecidableEq, Repr

def bidKey (c : Configuration) (anchor : Option Nat) (oven : Nat) (lateness : Int) : BidKey :=
  { distance := distance c anchor oven, negLateness := -lateness, oven := oven }

/-- The lower key wins, field by field. -/
def BidKey.beats (a b : BidKey) : Bool :=
  if a.distance ≠ b.distance then decide (a.distance < b.distance)
  else if a.negLateness ≠ b.negLateness then decide (a.negLateness < b.negLateness)
  else decide (a.oven < b.oven)

/-! ## Wall support (R24) and eligibility (R23) -/

/-- COKING or READY, with age at or above W_min. -/
def givesSupport (c : Configuration) (phase : Phase) (age : Nat) : Bool :=
  (phase == .coking || phase == .ready) && decide (c.supportAge ≤ age)

/-- The neighbour view gives support: fresh, COKING or READY, old enough. -/
def viewSupports (c : Configuration) : Option NeighbourView → Bool
  | none => false
  | some v => v.fresh.active && givesSupport c v.phase v.age

/-- The local oven at a place gives support. -/
def placeSupports (c : Configuration) (p : Part) (i : Nat) : Bool :=
  match p.places[i]? with
  | none => false
  | some pl => givesSupport c pl.oven.kept.phase pl.oven.kept.age

/-- Support on the lower side of the local oven at place i, oven F + i (R24). -/
def supportBelow (c : Configuration) (p : Part) (i : Nat) : Bool :=
  if i = 0 then (if c.firstOven = 1 then true else viewSupports c p.lvt.lower)
  else placeSupports c p (i - 1)

/-- Support on the upper side (R24). -/
def supportAbove (c : Configuration) (p : Part) (i : Nat) : Bool :=
  if i + 1 = c.ovenCount then
    (if c.firstOven + i = c.batteryOvens then true else viewSupports c p.lvt.upper)
  else placeSupports c p (i + 1)

/-- Wall support on both sides. -/
def wallSupport (c : Configuration) (p : Part) (i : Nat) : Bool := supportBelow c p i && supportAbove c p i

/-- Whether an oven is the oven of the push context. -/
def isContextOven (p : Part) (oven : Nat) : Bool :=
  match p.psq.context with
  | none => false
  | some x => x.oven == oven

/-- Eligibility of the local oven at a place (R23). -/
def eligible (c : Configuration) (p : Part) (i : Nat) : Bool :=
  match p.places[i]? with
  | none => false
  | some pl =>
      pl.oven.kept.phase == .ready && !pl.oven.kept.hold
        && !isContextOven p pl.oven.number
        && pl.bothLatched
        && pl.offtake.sub != some .failed
        && wallSupport c p i

/-- The better of a candidate so far and the local oven at a place, on the anchor held. -/
def betterCandidate (c : Configuration) (p : Part) (best : Option BidKey) (i : Nat) : Option BidKey :=
  match p.places[i]? with
  | none => best
  | some pl =>
      if eligible c p i then
        let key := bidKey c p.lvt.anchor pl.oven.number pl.oven.kept.lateness
        match best with
        | none => some key
        | some b => if key.beats b then some key else some b
      else best

/-- The BSU's candidate: the key of the eligible local oven with the lowest key, if any is eligible (R23). -/
def candidate (c : Configuration) (p : Part) : Option BidKey :=
  (List.range p.places.length).foldl (betterCandidate c p) none

/-! ## Views a round needs (R26, R29) -/

/-- Car view fresh, IDLE, EMPTY and unowned. -/
def carFree (p : Part) : Bool :=
  match p.lvt.car with
  | none => false
  | some v => v.fresh.active && v.activity == .idle && v.load == .empty && v.owner == 0

/-- Pusher view fresh and not FAULT. -/
def pusherReady (p : Part) : Bool :=
  match p.lvt.pusher with
  | none => false
  | some v => v.fresh.active && v.activity != .fault

/-- Entry conditions 1 to 7 of R26; condition 8 is that there is a candidate. -/
def entryConditions (p : Part) : Bool :=
  p.psq.context.isNone && p.qou.orders.isEmpty && p.lvt.settle == .expired && p.bsu.holdOff == .stopped
    && carFree p && pusherReady p && p.lvt.peers.isEmpty

end Sys2Proof.Machine
end

