-- ==== Sys2Proof/Machine/Reactions.lean ====
section
/-! DEFINITION. What one block does about another block's change inside one command: phase changes (R5), mode requests
(R84), the push context and its stages (R38 to R56), the charge start (R13 to R16), and the reports that bind them. The
order of the effects is the numbered order of the rules, else the order of log 3. No function here is recursive: the
chains that the rules make are finite, and each function stands after those it calls. -/

namespace Sys2Proof.Machine

open Sys2Proof

/-! ## OCU: a mode called for -/

/-- Store a record the OCU has changed and let the DMN take its decision again (R64, R83). -/
def settleOfftake (c : Configuration) (i : Nat) (o : Offtake) (p : Part) : Part :=
  permitPass c i (commitOfftake i o p)

/-- A change of phase moves the offtake toward the mode of R84. -/
def ocuPhaseChange (c : Configuration) (i : Nat) (old new : Phase) (p : Part) : Part :=
  match p.places[i]? with
  | none => p
  | some pl => settleOfftake c i (pl.offtake.phaseChange c (p.offtakeLevels i) old new) p

/-! ## OCT: phase, hold and charge refusals -/

/-- Offer a CHR once; a refused offer is dropped (R12). -/
def offerChr (oven : Nat) (r : ChrReason) (p : Part) : Part :=
  p.offer .chr (.oven oven) [byteOf oven, byteOf r.code]

/-- The record fields a change of phase touches: leaving CHARGING stops the charge limit and clears CHP-pending
(R14, R17, R18). -/
def Oven.withPhase (o : Oven) (new : Phase) : Oven :=
  { o with
      kept := { o.kept with phase := new }
      chargeLimit := if o.kept.phase = .charging then .stopped else o.chargeLimit
      chpPending := if o.kept.phase = .charging then false else o.chpPending }

/-- The phase leaves EMPTY with a charge start in flight: cancelled with CHR NOT_EMPTY and no mode request of its own
(R13, R16). R5 and R8 say "as R15 states", which is CHR CAP and a request for ISOLATE: the model follows R16, its choice,
log 25. -/
def cancelOnPhase (i : Nat) (o : Oven) (p : Part) : Part :=
  if o.inFlight = true ∧ o.kept.phase = .empty then
    offerChr o.number .notEmpty (p.modifyOven i fun x => { x with inFlight := false })
  else p

/-- Set an oven's phase (R5, R8 to R11, R17): nothing for the phase it has; else the record, its event offer, OVERDUE
(R4), a charge start in flight (R16) and the offtake (R84). -/
def setPhase (c : Configuration) (i : Nat) (new : Phase) (p : Part) : Part :=
  match p.places[i]? with
  | none => p
  | some pl =>
      if pl.oven.kept.phase = new then p
      else
        let changed := (p.modifyOven i fun o => o.withPhase new).offerOvs i
        ocuPhaseChange c i pl.oven.kept.phase new (cancelOnPhase i pl.oven (evalOverdue c i changed))

/-- Set the phase by the oven's age (R3). -/
def setByAge (c : Configuration) (i : Nat) (p : Part) : Part :=
  match p.places[i]? with
  | none => p
  | some pl => setPhase c i (if pl.oven.kept.atThreshold c then .ready else .coking) p

/-- Set or clear the hold flag, with the event offer of a change (R7, R142). -/
def setHold (i : Nat) (hold : Bool) (p : Part) : Part :=
  match p.places[i]? with
  | none => p
  | some pl =>
      if pl.oven.kept.hold = hold then p
      else (p.modifyOven i fun o => { o with kept := { o.kept with hold := hold } }).offerOvs i

/-- The phases no two adjacent ovens of a station share (R5). -/
def Phase.isOpen : Phase → Bool
  | .empty => true
  | .charging => true
  | .pushing => true
  | _ => false

/-- The neighbour test of R5: no local neighbour in EMPTY, CHARGING or PUSHING. -/
def mayEnterPushing (p : Part) (i : Nat) : Bool :=
  let clear (j : Nat) : Bool := match p.phaseAt j with
    | none => true
    | some ph => !ph.isOpen
  (i = 0 || clear (i - 1)) && clear (i + 1)

/-! ## PSQ: the push context -/

/-- Replace the push context, with the permit decision for its oven (R64). -/
def setContext (c : Configuration) (i : Nat) (x : Option Context) (p : Part) : Part :=
  permitPass c i { p with psq := { p.psq with context := x } }

/-- Change fields of the context that no permit depends on. -/
def modifyContext (f : Context → Context) (p : Part) : Part :=
  { p with psq := { p.psq with context := p.psq.context.map f } }

/-- The three conditions of R40. -/
def readyToArm (pl : Place) (x : Context) : Bool :=
  pl.bothOff && pl.offtake.mode == .isolate && pl.offtake.sub == some .reached && x.spotDone

/-- Enter ARMED (R40). -/
def Context.arm (x : Context) : Context := { x with stage := .armed, armedLimit := .running armedLimitMs }

/-- Test the three conditions in PREPARE, on an event of the oven named (R40). -/
def testArmed (c : Configuration) (oven : Nat) (p : Part) : Part :=
  match p.psq.context with
  | none => p
  | some x =>
      withLocal c x.oven p fun i =>
        match p.places[i]? with
        | none => p
        | some pl =>
            if x.oven = oven ∧ x.stage = .prepare ∧ readyToArm pl x = true then setContext c i (some x.arm) p else p

/-- End of RETURN: hold set, context removed, phase by age (R5, R55). -/
def endReturn (c : Configuration) (i : Nat) (p : Part) : Part :=
  setByAge c i (setContext c i none (setHold i true p))

/-- Ask the OCU for PI in RETURN and take its answer when it comes at once (R55, R87). -/
def askPi (c : Configuration) (i : Nat) (p : Part) : Part :=
  match p.places[i]? with
  | none => p
  | some pl =>
      let new := pl.offtake.callMode c (p.offtakeLevels i) .control
      let settled := settleOfftake c i new (modifyContext (fun x => { x with piRequested := true }) p)
      if reportOf pl.offtake new = some .piEntered then endReturn c i settled else settled

/-- Ask the OCU for ISOLATE (R8, R15, R16, R39, R44, R45, R55). -/
def askIsolate (c : Configuration) (i : Nat) (p : Part) : Part :=
  match p.places[i]? with
  | none => p
  | some pl =>
      let new := pl.offtake.callMode c (p.offtakeLevels i) .isolate
      let settled := settleOfftake c i new p
      if reportOf pl.offtake new = some .isolateReached then testArmed c pl.oven.number settled else settled

/-- In RETURN with the PI request not made, ask for PI once both doors are latched (R52 step 8, R55). -/
def returnDoorsTest (c : Configuration) (i : Nat) (p : Part) : Part :=
  match p.psq.context, p.places[i]? with
  | some x, some pl =>
      if x.stage = .returning ∧ x.piRequested = false ∧ pl.bothLatched = true then askPi c i p else p
  | _, _ => p

/-- The context of an aborted push (R52, steps 1, 3 to 5 and 7). -/
def Context.aborted (x : Context) (r : AbortReason) : Context :=
  { x with
      stage := .returning, reason := some r
      permit := .stopped, prepareLimit := .stopped, armedLimit := .stopped, spotAwaited := false
      doorLimit := .running doorLimitMs }

/-- Abort the push in PREPARE or ARMED (R51, R52). The permit lines drop as the stage changes, so a door still RELEASED
reads SEALED when step 8 looks (R65). -/
def abort (c : Configuration) (r : AbortReason) (p : Part) : Part :=
  match p.psq.context with
  | none => p
  | some x =>
      withLocal c x.oven p fun i =>
        let alarmed := raiseOven c i .pushAborted (modifyContext (·.aborted r) p)
        returnDoorsTest c i (permitPass c i (qouWithdraw alarmed))

/-- Abort for a reason when the stage is PREPARE or ARMED and the context's oven is the one at the place. -/
def abortIfOpen (c : Configuration) (oven : Nat) (r : AbortReason) (p : Part) : Part :=
  match p.psq.context with
  | none => p
  | some x => if x.oven = oven ∧ (x.stage = .prepare ∨ x.stage = .armed) then abort c r p else p

/-- The context on a ram start (R44): the limits of the earlier stages stop, the RMH limit starts. -/
def Context.ramStart (x : Context) (unpermitted : Bool) : Context :=
  { x with
      stage := .pushing, rmhLimit := .running rmhLimitMs
      prepareLimit := .stopped, armedLimit := .stopped, doorLimit := .stopped
      permit := .stopped, unpermitted := x.unpermitted || unpermitted
      piRequested := false, reason := none }

/-- A new context (R39, R45) with every timer stopped and every flag clear. -/
def Context.fresh (oven : Nat) (stage : Stage) : Context :=
  { oven := oven, stage := stage, prepareLimit := .stopped, armedLimit := .stopped, rmhLimit := .stopped
    doorLimit := .stopped, spotDone := false, spotAwaited := false, permit := .stopped, unpermitted := false
    piRequested := false, stroke := none, reason := none }

/-- The context of a won round (R39). -/
def Context.won (oven : Nat) : Context := { Context.fresh oven .prepare with prepareLimit := .running prepareLimitMs }

/-- The context of a ram start outside a context (R45). -/
def Context.unannounced (oven : Nat) : Context :=
  { Context.fresh oven .pushing with rmhLimit := .running rmhLimitMs, unpermitted := true }

/-- End of CLOSING once both doors are latched (R50): EMPTY and the context removed. -/
def closingDoorsTest (c : Configuration) (i : Nat) (p : Part) : Part :=
  match p.psq.context, p.places[i]? with
  | some x, some pl =>
      if x.stage = .closing ∧ pl.bothLatched = true then setContext c i none (setPhase c i .empty p) else p
  | _, _ => p

/-- A door comes back in ARMED: PREPARE again, or an abort when the PREPARE limit has expired (R41, R43). -/
def returnToPrepare (c : Configuration) (i : Nat) (x : Context) (p : Part) : Part :=
  let back := setContext c i (some { x with stage := .prepare, armedLimit := .stopped, permit := .stopped }) p
  if x.prepareLimit = .expired then abort c .prepareTime back else back

/-! ## Reports told -/

/-- ASPIRATE reached for an oven with a charge start in flight (R14). -/
def chargeBegins (c : Configuration) (i : Nat) (p : Part) : Part :=
  match p.places[i]? with
  | none => p
  | some pl =>
      if pl.oven.inFlight then
        let n := pl.oven.number
        let charging := setPhase c i .charging (p.modifyOven i fun o => { o with inFlight := false })
        let timed := charging.modifyOven i fun o => { o with chargeLimit := .running chargeLimitMs }
        if timed.takes .chp (.oven n) [byteOf n] then timed.offer .chp (.oven n) [byteOf n]
        else timed.modifyOven i fun o => { o with chpPending := true }
      else p

/-- ASPIRATE failed for an oven with a charge start in flight (R15). -/
def chargeFails (c : Configuration) (i : Nat) (p : Part) : Part :=
  match p.places[i]? with
  | none => p
  | some pl =>
      if pl.oven.inFlight then
        askIsolate c i (offerChr pl.oven.number .cap (p.modifyOven i fun o => { o with inFlight := false }))
      else p

/-- PI entered, or the return to PI failed, while the PI request stands (R55). -/
def returnAnswered (c : Configuration) (i : Nat) (oven : Nat) (p : Part) : Part :=
  match p.psq.context with
  | none => p
  | some x => if x.oven = oven ∧ x.stage = .returning ∧ x.piRequested = true then endReturn c i p else p

/-- The OCT and the PSQ take the OCU's report, each for its own request (R83). -/
def tellReport (c : Configuration) (i : Nat) (oven : Nat) (r : Report) (p : Part) : Part :=
  match r with
  | .aspirateReached => chargeBegins c i p
  | .aspirateFailed => chargeFails c i p
  | .isolateReached => testArmed c oven p
  | .isolateFailed => abortIfOpen c oven .isolateFail p
  | .piEntered => returnAnswered c i oven p
  | .returnFailed => returnAnswered c i oven p

/-- An OCU change told: the record stored, the alarm raised, then OCT, PSQ and DMN (R83, R88, R89; log 3). -/
def tellOfftake (c : Configuration) (i : Nat) (new : Offtake) (alarm : Option OvenAlarm) (p : Part) : Part :=
  match p.places[i]? with
  | none => p
  | some pl =>
      let stored := commitOfftake i new p
      let alarmed := match alarm with
        | none => stored
        | some a => raiseOven c i a stored
      let told := match reportOf pl.offtake new with
        | none => alarmed
        | some r => tellReport c i pl.oven.number r alarmed
      permitPass c i told

/-! ## Door changes told -/

/-- The OCT cancels a charge start in flight when a door leaves SEALED and LEAKING (R16). -/
def cancelOnDoor (c : Configuration) (i : Nat) (new : DoorState) (p : Part) : Part :=
  match p.places[i]? with
  | none => p
  | some pl =>
      if pl.oven.inFlight = true ∧ new.isLatched = false then
        askIsolate c i (offerChr pl.oven.number .doors (p.modifyOven i fun o => { o with inFlight := false }))
      else p

/-- The PSQ takes a door change of the context oven by its stage (R40, R43, R46, R50, R55). -/
def psqDoorChange (c : Configuration) (i : Nat) (old new : DoorState) (x : Context) (p : Part) : Part :=
  match x.stage with
  | .prepare => if new = .fault then abort c .doorFault p else testArmed c x.oven p
  | .armed =>
      if new = .fault then abort c .doorFault p
      else if old = .off then returnToPrepare c i x p
      else p
  | .pushing => p
  | .closing => closingDoorsTest c i p
  | .returning =>
      if x.piRequested = true ∧ new.isLatched = false then
        askIsolate c i (modifyContext (fun x => { x with piRequested := false }) p)
      else returnDoorsTest c i p

/-- A change of state of a door is told to the OCT, then the PSQ; the OCU reads the door condition when it needs it
(R69). -/
def tellDoor (c : Configuration) (i : Nat) (old new : DoorState) (p : Part) : Part :=
  if old = new then p
  else
    match p.places[i]? with
    | none => p
    | some pl =>
        let cancelled := cancelOnDoor c i new p
        match cancelled.psq.context with
        | none => cancelled
        | some x => if x.oven = pl.oven.number then psqDoorChange c i old new x cancelled else cancelled

/-- Store a door record, raise the alarms of its change and tell the change. -/
def changeDoor (c : Configuration) (i : Nat) (side : Side) (new : Door) (p : Part) : Part :=
  match p.places[i]? with
  | none => p
  | some pl =>
      let old := (pl.door side).state
      let stored := commitDoor c i side new p
      let alarms := doorChangeAlarms (pl.oven.kept.phase == .charging) side old new.state
      let alarmed := alarms.foldl (fun p a => raiseOven c i a p) stored
      tellDoor c i old new.state alarmed

/-! ## Outcomes of the SPOT order (R56, R105) -/

inductive Outcome where
  | done
  | refused
  | timeout
  deriving DecidableEq, Repr

/-- The PSQ takes the outcome of its SPOT order (R56). In CLOSING too it clears SPOT-awaited and a DONE sets spot-done, as
R56's table has it, where R50 says that SPOT outcomes change nothing in the context: the model's choice, log 26. -/
def takeOutcome (c : Configuration) (r : Outcome) (p : Part) : Part :=
  match p.psq.context with
  | none => p
  | some x =>
      if x.spotAwaited then
        let heard := modifyContext (fun x => { x with spotAwaited := false }) p
        match r with
        | .done => testArmed c x.oven (modifyContext (fun x => { x with spotDone := true }) heard)
        | .refused => if x.stage = .prepare then abort c .carRefused heard else heard
        | .timeout => if x.stage = .prepare then abort c .carTimeout heard else heard
      else p

/-! ## Instructions to the OCT -/

/-- Enter UNKNOWN for an oven whose ram start was not followed as a push, with PUSH_UNPERMITTED (R5, R45). -/
def loseOven (c : Configuration) (i : Nat) (p : Part) : Part :=
  raiseOven c i .pushUnpermitted (setPhase c i .unknown p)

/-- The SPOT order of a context just created: awaited when taken, CAR_LIST when the list is full (R39, R53). -/
def orderSpot (c : Configuration) (oven : Nat) (p : Part) : Part :=
  if qouTakes p then modifyContext (fun x => { x with spotAwaited := true }) (qouAppend (.spot oven) p)
  else abort c .carList p

/-- The PSQ takes the oven of a won round (R39). -/
def takeWin (c : Configuration) (oven : Nat) (p : Part) : Part :=
  withLocal c oven p fun i =>
    if mayEnterPushing p i then
      orderSpot c oven (askIsolate c i (setContext c i (some (Context.won oven)) (setPhase c i .pushing p)))
    else p

end Sys2Proof.Machine
end

