-- ==== Sys2Proof/Machine/Bids.lean ====
section
/-! DEFINITION. BSU: the evaluation expiry, rival bids, the window, the hold-off and the deferral (R25 to R36). -/

namespace Sys2Proof.Machine

open Sys2Proof

/-- The bid window in milliseconds (R25). -/
def windowMs (c : Configuration) : Nat := c.bidWindow * 100

/-- The BID payload (R27, R150). -/
def bidPayload (oven : Nat) (lateness : Int) : List Byte := [byteOf oven] ++ bytesOfInt16 lateness

/-- The BSU in BIDDING, its window stopped (R27). -/
def Bsu.bidFor (b : Bsu) (oven : Nat) (lateness : Int) : Bsu :=
  { b with round := .bidding, record := some ⟨oven, lateness, .stopped⟩, rivals := [] }

/-- A lost round: the record and the rivals go, IDLE, and the hold-off starts (R31). -/
def Bsu.lose (b : Bsu) : Bsu :=
  { b with round := .idle, record := none, rivals := [], holdOff := .running holdOffMs }

/-- A won round (R30). -/
def Bsu.win (b : Bsu) : Bsu := { b with round := .idle, record := none, rivals := [], holdOff := .stopped }

/-- Into DEFERRING to a station (R32). -/
def Bsu.deferTo (c : Configuration) (b : Bsu) (station : Nat) : Bsu :=
  { b with round := .deferring, deferral := .running (2 * windowMs c), deferredTo := some station }

/-- Out of DEFERRING (R33). -/
def Bsu.endDeferral (b : Bsu) : Bsu := { b with round := .idle, deferral := .stopped, deferredTo := none }

/-- Start a round for a candidate: offer the BID; a refused offer loses the round at once (R27). -/
def startRound (key : BidKey) (p : Part) : Part :=
  let lateness := -key.negLateness
  let payload := bidPayload key.oven lateness
  if p.takes .bid (.oven key.oven) payload then
    let p := p.offer .bid (.oven key.oven) payload
    { p with bsu := p.bsu.bidFor key.oven lateness }
  else { p with bsu := p.bsu.lose }

/-- The evaluation expiry in IDLE (R26). -/
def evaluateRound (c : Configuration) (p : Part) : Part :=
  if p.bsu.round = .idle ∧ entryConditions p = true then
    match candidate c p with
    | none => p
    | some key => startRound key p
  else p

/-- The evaluation expiry: the bid round (R26) and the backup comparator's report (R146). -/
def execEvaluationExpiry (backupLow : Bool) (s : State) : Host.Outcome State Fault Refusal :=
  s.whenLoaded fun c p => holdStation c .backupLow backupLow ((evaluateRound c p).hearBackup backupLow)

/-! ## Rival bids (R28, R32 to R35) -/

/-- Store a rival BID: in place for its station, else at the end while fewer than eight stand (R28). -/
def storeRival (r : Rival) (rivals : List Rival) : List Rival :=
  if rivals.any (·.station == r.station) then rivals.map fun x => if x.station = r.station then r else x
  else if rivals.length < maxRivals then rivals ++ [r]
  else rivals

/-- A rival BID in IDLE: an own round at once when every entry condition holds and the own key beats it, else
DEFERRING, with a push context too (R32 and its Note). R36 says that the BSU keeps IDLE while the won context exists: the
model follows R32, its choice, log 32. -/
def answerRival (c : Configuration) (r : Rival) (p : Part) : Part :=
  let deferred := { p with bsu := p.bsu.deferTo c r.station }
  if entryConditions p then
    match candidate c p with
    | none => deferred
    | some key => if key.beats (bidKey c p.lvt.anchor r.oven r.lateness) then startRound key p else deferred
  else deferred

/-- A BID from another station (R28, R32 to R35). -/
def takeBid (c : Configuration) (r : Rival) (p : Part) : Part :=
  if r.oven = 0 ∨ c.batteryOvens < r.oven then p
  else if isLocal c r.oven then raiseStation c .sectionOverlap p
  else
    match p.bsu.round with
    | .idle => answerRival c r p
    | .deferring => p
    | .bidding => { p with bsu := { p.bsu with rivals := storeRival r p.bsu.rivals } }

def execBid (h : Header) (oven : Byte) (lateness : Word16) (s : State) : Host.Outcome State Fault Refusal :=
  s.whenLoaded fun c p =>
    if fromOther h c then takeBid c ⟨h.station.toNat, oven.toNat, signed16 lateness⟩ p else p

/-! ## The end of a round (R29 to R31) -/

/-- The own key beats the key of every rival, all on the anchor held (R29). -/
def beatsAll (c : Configuration) (anchor : Option Nat) (record : BidRecord) (rivals : List Rival) : Bool :=
  rivals.all fun r => (bidKey c anchor record.oven record.lateness).beats (bidKey c anchor r.oven r.lateness)

/-- Whether the round is won at this moment (R29). -/
def roundWon (c : Configuration) (record : BidRecord) (p : Part) : Bool :=
  p.psq.context.isNone
    && (match placeOf c record.oven with
        | none => false
        | some i => eligible c p i)
    && carFree p && pusherReady p
    && beatsAll c p.lvt.anchor record p.bsu.rivals

/-- The window expiry decides the round (R29 to R31). -/
def decideRound (c : Configuration) (p : Part) : Part :=
  match p.bsu.round, p.bsu.record with
  | .bidding, some record =>
      if record.window.active then
        if roundWon c record p then takeWin c record.oven { p with bsu := p.bsu.win }
        else { p with bsu := p.bsu.lose }
      else p
  | _, _ => p

def execWindowExpiry (s : State) : Host.Outcome State Fault Refusal := s.whenLoaded decideRound

/-! ## Hold-off and deferral (R31, R33) -/

def execHoldOffExpiry (s : State) : Host.Outcome State Fault Refusal :=
  s.whenLoaded fun _ p => { p with bsu := { p.bsu with holdOff := .stopped } }

def execDeferralExpiry (s : State) : Host.Outcome State Fault Refusal :=
  s.whenLoaded fun _ p =>
    if p.bsu.round = .deferring ∧ p.bsu.deferral.active = true then { p with bsu := p.bsu.endDeferral } else p

/-- A station added to the peer activity list ends a deferral to it (R33, R117). -/
def peerAdded (station : Nat) (p : Part) : Part :=
  if p.bsu.round = .deferring ∧ p.bsu.deferredTo = some station then { p with bsu := p.bsu.endDeferral } else p

/-- The own BID heard back starts the window (R28). -/
def bidHeardBack (c : Configuration) (p : Part) : Part :=
  if p.bsu.round = .bidding then
    { p with bsu := { p.bsu with record := p.bsu.record.map fun r => { r with window := .running (windowMs c) } } }
  else p

end Sys2Proof.Machine
end

