-- ==== Sys2Proof/Machine/CarReplies.lean ====
section
/-! DEFINITION. QOU: the echo of the head's order, the car's replies and the deadlines (R99 to R105). -/

namespace Sys2Proof.Machine

open Sys2Proof

/-- The QCO of an order heard back: the head, still QUEUED, becomes SENT (R99). -/
def orderHeardBack (id : Nat) (p : Part) : Part :=
  match p.qou.orders with
  | [] => p
  | head :: rest =>
      if head.id = id ∧ head.state = .queued then
        { p with qou := { p.qou with
            orders := { head with state := .sent, deadline := .running acceptDeadlineMs } :: rest } }
      else p

/-- ACCEPT taken (R101). -/
def acceptHead (head : Order) (rest : List Order) (p : Part) : Part :=
  { p with qou := { p.qou with
      orders := { head with state := .accepted, deadline := .running head.kind.doneDeadline } :: rest } }

/-- The head leaves the list with an outcome, and the order behind it is offered (R102, R103, R105). -/
def headLeaves (c : Configuration) (head : Order) (left : List Order) (r : Outcome) (p : Part) : Part :=
  let removed := { p with qou := { p.qou with orders := left } }
  qouOfferHead (if head.owed then takeOutcome c r removed else removed)

/-- A reply with the head's id (R100). A head with no QCO on the line ignores it. -/
def headReply (c : Configuration) (v : Verdict) (head : Order) (rest : List Order) (p : Part) : Part :=
  if head.inFlight then
    match v with
    | .accept => if head.state = .accepted then p else acceptHead head rest p
    | .done => headLeaves c head rest .done p
    | .refuse => headLeaves c head (rest.filter fun o => o.kind.isRelease) .refused p
  else p

/-- A car reply: stray for an empty list or another id (R100); an unknown verdict is stray too (R150). -/
def carReply (c : Configuration) (id verdict : Nat) (p : Part) : Part :=
  match p.qou.orders, verdictOfCode verdict with
  | head :: rest, some v => if head.id = id then headReply c v head rest p else p
  | _, _ => p

def execQcr (h : Header) (orderId verdict _reason : Byte) (s : State) : Host.Outcome State Fault Refusal :=
  s.whenLoaded fun c p =>
    if isFrom h c c.carStation then carReply c orderId.toNat verdict.toNat p else p

/-- Whether HOT_CAR is raised at a deadline: a QUENCH, or a load last heard HOT, fresh or stale (R104). -/
def hotCar (p : Part) (head : Order) : Bool :=
  (match head.kind with
    | .quench _ => true
    | _ => false)
    || (match p.lvt.car with
        | none => false
        | some v => v.load == .hot)

/-- The head's deadline expires: the list is emptied, the alarms raised, the outcome given (R104, R105). A SPOT behind the
expired order leaves without an outcome, as R104 gives one for the expired order alone, where R105 gives one for every order
that leaves with its flag set: the model's choice, log 33. -/
def deadlineExpires (c : Configuration) (head : Order) (p : Part) : Part :=
  let emptied := raiseStation c .carTimeout { p with qou := { p.qou with orders := [] } }
  let alarmed := if hotCar p head then raiseStation c .hotCar emptied else emptied
  if head.owed then takeOutcome c .timeout alarmed else alarmed

def deadline (c : Configuration) (p : Part) : Part :=
  match p.qou.orders with
  | [] => p
  | head :: _ => if head.deadline.active then deadlineExpires c head p else p

def execDeadlineExpiry (s : State) : Host.Outcome State Fault Refusal := s.whenLoaded deadline

end Sys2Proof.Machine
end

