-- ==== Sys2Proof/Machine/Push.lean ====
section
/-! DEFINITION. PSQ: push asks, ram start and ram home, the stage limits, panel ABORT, and the push done telegram
(R41 to R50, R54). -/

namespace Sys2Proof.Machine

open Sys2Proof

/-! ## Push ask (R42, R44) -/

/-- Offer a PRF; a refused offer is dropped (R44). -/
def offerPrf (oven : Nat) (r : PrfReason) (p : Part) : Part := p.offer .prf (.oven oven) [byteOf oven, byteOf r.code]

/-- Test 1: the pusher view is fresh and at the oven. -/
def pusherAt (p : Part) (oven : Nat) : Bool :=
  match p.lvt.pusher with
  | none => false
  | some v => v.fresh.active && v.position == oven

/-- Test 2: the guide view is fresh, not FAULT, aligned and at the oven. -/
def guideAt (p : Part) (oven : Nat) : Bool :=
  match p.lvt.guide with
  | none => false
  | some v => v.fresh.active && v.activity != .fault && v.aligned && v.position == oven

/-- Test 3: the car view is fresh, at the oven and EMPTY. -/
def carAt (p : Part) (oven : Nat) : Bool :=
  match p.lvt.car with
  | none => false
  | some v => v.fresh.active && v.position == oven && v.load == .empty

/-- The permit test: the first failing test gives the reason (R42). -/
def permitTest (c : Configuration) (p : Part) (i oven : Nat) : Option PrfReason :=
  if pusherAt p oven = false then some .pusher
  else if guideAt p oven = false then some .guide
  else if carAt p oven = false then some .car
  else if wallSupport c p i = false then some .support
  else none

/-- A PAS in ARMED (R42, R44). -/
def answerArmed (c : Configuration) (i oven : Nat) (p : Part) : Part :=
  match permitTest c p i oven with
  | some r => modifyContext (fun x => { x with permit := .stopped }) (offerPrf oven r p)
  | none =>
      if p.takes .ppm (.oven oven) [byteOf oven] then
        modifyContext (fun x => { x with permit := .running permitMs }) (p.offer .ppm (.oven oven) [byteOf oven])
      else p

/-- A PAS for a local oven (R42). -/
def pushAsk (c : Configuration) (i oven : Nat) (p : Part) : Part :=
  match p.psq.context with
  | none => offerPrf oven .notArmed p
  | some x =>
      if x.oven = oven ∧ x.stage = .armed then answerArmed c i oven p else offerPrf oven .notArmed p

def execPas (h : Header) (oven : Byte) (s : State) : Host.Outcome State Fault Refusal :=
  s.whenLoaded fun c p =>
    if isFrom h c c.pusherStation then withLocal c oven.toNat p fun i => pushAsk c i oven.toNat p else p

/-! ## Ram start (R44, R45) -/

/-- The stage becomes PUSHING on a ram start (R44). -/
def startRam (c : Configuration) (i : Nat) (x : Context) (unpermitted : Bool) (p : Part) : Part :=
  setContext c i (some (x.ramStart unpermitted)) p

/-- A ram start of the context oven, by its stage (R44). -/
def ramInContext (c : Configuration) (i : Nat) (x : Context) (p : Part) : Part :=
  match x.stage with
  | .armed =>
      if x.permit.active then startRam c i x false p
      else raiseOven c i .pushUnpermitted (startRam c i x true p)
  | .prepare => raiseOven c i .pushUnpermitted (startRam c i x true p)
  | .returning => askIsolate c i (raiseOven c i .pushUnpermitted (startRam c i x true p))
  | .pushing => p
  | .closing => raiseOven c i .pushUnpermitted p

/-- A ram start with no context (R45). -/
def ramOutside (c : Configuration) (i oven : Nat) (p : Part) : Part :=
  if mayEnterPushing p i then
    askIsolate c i
      (raiseOven c i .pushUnpermitted
        (setContext c i (some (Context.unannounced oven)) (setPhase c i .pushing p)))
  else loseOven c i p

/-- A ram start of a local oven (R44, R45). -/
def ramStarts (c : Configuration) (i oven : Nat) (p : Part) : Part :=
  match p.psq.context with
  | none => ramOutside c i oven p
  | some x => if x.oven = oven then ramInContext c i x p else loseOven c i p

def execRms (h : Header) (oven : Byte) (s : State) : Host.Outcome State Fault Refusal :=
  s.whenLoaded fun c p =>
    if isFrom h c c.pusherStation then withLocal c oven.toNat p fun i => ramStarts c i oven.toNat p else p

/-! ## Ram home (R47 to R50) -/

/-- The PDN payload (R49, R150). -/
def pdnPayload (e : PendingPdn) : List Byte :=
  [byteOf e.oven, byteOf e.stroke, byteOf (if e.unpermitted then 1 else 0)]

/-- Into the pending PDN list in place of any entry for the oven, kept in rising oven number (R49). -/
def insertPdn (e : PendingPdn) : List PendingPdn → List PendingPdn
  | [] => [e]
  | x :: xs =>
      if e.oven = x.oven then e :: xs
      else if e.oven < x.oven then e :: x :: xs
      else x :: insertPdn e xs

/-- Offer a PDN, or keep it pending when the queue refuses it (R49). -/
def offerPdn (e : PendingPdn) (p : Part) : Part :=
  if p.takes .pdn (.oven e.oven) (pdnPayload e) then p.offer .pdn (.oven e.oven) (pdnPayload e)
  else { p with psq := { p.psq with pendingPdn := insertPdn e p.psq.pendingPdn } }

/-- Offer an order at ram home; a full list raises CAR_TIMEOUT (R48). -/
def orderAtHome (c : Configuration) (kind : OrderKind) (p : Part) : Part :=
  if qouTakes p then qouAppend kind p else raiseStation c .carTimeout p

/-- The context at ram home: stroke recorded, CLOSING, door limit started (R47, steps 1, 2 and 5). -/
def Context.home (x : Context) (stroke : Nat) : Context :=
  { x with stage := .closing, rmhLimit := .stopped, stroke := some stroke, doorLimit := .running doorLimitMs }

/-- Ram home of the context oven in PUSHING (R47 to R50). -/
def ramHome (c : Configuration) (i : Nat) (x : Context) (stroke : Nat) (p : Part) : Part :=
  let done := offerPdn ⟨x.oven, stroke, x.unpermitted⟩ p
  let ordered := orderAtHome c .dump (orderAtHome c (.quench c.quenchTime) done)
  closingDoorsTest c i (setContext c i (some (x.home stroke)) ordered)

def execRmh (h : Header) (oven stroke : Byte) (s : State) : Host.Outcome State Fault Refusal :=
  s.whenLoaded fun c p =>
    if isFrom h c c.pusherStation then
      match p.psq.context with
      | none => p
      | some x =>
          if x.oven = oven.toNat ∧ x.stage = .pushing then
            withLocal c x.oven p fun i => ramHome c i x stroke.toNat p
          else p
    else p

/-! ## Limits (R41, R43, R44, R46, R50, R55) -/

/-- The PREPARE limit: an abort in PREPARE, marked expired in ARMED (R41). -/
def prepareLimit (c : Configuration) (p : Part) : Part :=
  match p.psq.context with
  | none => p
  | some x =>
      if x.prepareLimit.active then
        let marked := modifyContext (fun x => { x with prepareLimit := .expired }) p
        if x.stage = .prepare then abort c .prepareTime marked else marked
      else p

def execPrepareLimitExpiry (s : State) : Host.Outcome State Fault Refusal := s.whenLoaded prepareLimit

/-- The ARMED limit: an abort whether or not a permit is valid (R43). -/
def armedLimit (c : Configuration) (p : Part) : Part :=
  match p.psq.context with
  | none => p
  | some x => if x.armedLimit.active = true ∧ x.stage = .armed then abort c .armedTime p else p

def execArmedLimitExpiry (s : State) : Host.Outcome State Fault Refusal := s.whenLoaded armedLimit

def execPermitTimerExpiry (s : State) : Host.Outcome State Fault Refusal :=
  s.whenLoaded fun _ p => modifyContext (fun x => { x with permit := .stopped }) p

/-- The RMH limit: RAM_LATE, and the stage stays (R46). -/
def rmhLimit (c : Configuration) (p : Part) : Part :=
  match p.psq.context with
  | none => p
  | some x =>
      if x.rmhLimit.active then
        withLocal c x.oven p fun i =>
          raiseOven c i .ramLate (modifyContext (fun x => { x with rmhLimit := .stopped }) p)
      else p

def execRmhLimitExpiry (s : State) : Host.Outcome State Fault Refusal := s.whenLoaded rmhLimit

/-- The door limit in CLOSING or RETURN: DOOR_LATE, and the stage stays (R50, R55). -/
def doorLimit (c : Configuration) (p : Part) : Part :=
  match p.psq.context with
  | none => p
  | some x =>
      if x.doorLimit.active then
        withLocal c x.oven p fun i =>
          raiseOven c i .doorLate (modifyContext (fun x => { x with doorLimit := .stopped }) p)
      else p

def execDoorLimitExpiry (s : State) : Host.Outcome State Fault Refusal := s.whenLoaded doorLimit

/-! ## Panel ABORT (R54) -/

def panelAbort (c : Configuration) (oven : Nat) (p : Part) : Part :=
  match p.psq.context with
  | none => p
  | some x => if oven = 0 ∨ oven = x.oven then abortIfOpen c x.oven .panel p else p

def execPnlAbort (h : Header) (oven : Byte) (s : State) : Host.Outcome State Fault Refusal :=
  s.whenLoaded fun c p => if isFromPanel h c then panelAbort c oven.toNat p else p

/-! ## Pending push done telegrams (R49) -/

/-- Offer one pending PDN again; a taken offer removes the entry. -/
def reofferPdn (p : Part) (e : PendingPdn) : Part :=
  if p.takes .pdn (.oven e.oven) (pdnPayload e) then
    let p := p.offer .pdn (.oven e.oven) (pdnPayload e)
    { p with psq := { p.psq with pendingPdn := p.psq.pendingPdn.filter fun x => x.oven != e.oven } }
  else p

/-- At a removal from the transmit queue, offer each entry again in rising oven number. -/
def reofferPdns (p : Part) : Part := p.psq.pendingPdn.foldl reofferPdn p

end Sys2Proof.Machine
end

