-- ==== Sys2Proof/Machine/Views.lean ====
section
/-! DEFINITION. LVT: machine views, neighbour views, the anchor, the peer activity list and the settle timer (R110 to R119). -/

namespace Sys2Proof.Machine

open Sys2Proof

/-! ## Machine views (R110 to R112) -/

/-- A position within its range: 0, an oven 1 to N, 250 tower, 251 wharf, 252 park (R110). -/
def positionInRange (c : Configuration) (n : Nat) : Bool :=
  decide (n ≤ c.batteryOvens) || n == 250 || n == 251 || n == 252

/-- The pusher view of an MST, if the fields it keeps are in range (R111). -/
def pusherViewOf (c : Configuration) (position activity : Byte) : Option PusherView :=
  match activityOfCode activity.toNat with
  | some a =>
      if positionInRange c position.toNat then some ⟨position.toNat, a, .running machineFreshMs⟩ else none
  | none => none

def guideViewOf (c : Configuration) (position activity aligned : Byte) : Option GuideView :=
  match activityOfCode activity.toNat, flagOfCode aligned.toNat with
  | some a, some g =>
      if positionInRange c position.toNat then some ⟨position.toNat, a, g, .running machineFreshMs⟩ else none
  | _, _ => none

def carViewOf (c : Configuration) (position activity load owner : Byte) : Option CarView :=
  match activityOfCode activity.toNat, loadOfCode load.toNat with
  | some a, some l =>
      if positionInRange c position.toNat = true ∧ owner.toNat ≤ 63 then
        some ⟨position.toNat, a, l, owner.toNat, .running machineFreshMs⟩
      else none
  | _, _ => none

/-- An MST into the view of its station; one with a kept field out of range is dropped whole (R111). The charging car
has no view (R110). -/
def takeMst (c : Configuration) (station : Nat) (position activity load aligned owner : Byte) (p : Part) : Part :=
  if station = c.pusherStation then
    match pusherViewOf c position activity with
    | none => p
    | some v => { p with lvt := { p.lvt with pusher := some v } }
  else if station = c.guideStation then
    match guideViewOf c position activity aligned with
    | none => p
    | some v => { p with lvt := { p.lvt with guide := some v } }
  else if station = c.carStation then
    match carViewOf c position activity load owner with
    | none => p
    | some v => { p with lvt := { p.lvt with car := some v } }
  else p

def execMst (h : Header) (position activity load aligned owner : Byte) (s : State) :
    Host.Outcome State Fault Refusal :=
  s.whenLoaded fun c p =>
    if fromOther h c then takeMst c h.station.toNat position activity load aligned owner p else p

/-- A machine view becomes stale and keeps its fields (R112). -/
def Lvt.machineStale (l : Lvt) : ViewName → Lvt
  | .pusher => { l with pusher := l.pusher.map fun v => { v with fresh := .stopped } }
  | .guide => { l with guide := l.guide.map fun v => { v with fresh := .stopped } }
  | .car => { l with car := l.car.map fun v => { v with fresh := .stopped } }

def execMachineViewFreshnessExpiry (view : ViewName) (s : State) : Host.Outcome State Fault Refusal :=
  s.whenLoaded fun _ p => { p with lvt := p.lvt.machineStale view }

/-! ## Neighbour views (R113, R114) -/

/-- The lower neighbour view exists when F is 2 or more. -/
def hasLower (c : Configuration) : Bool := decide (2 ≤ c.firstOven)

/-- The upper neighbour view exists when F + K - 1 is below N. -/
def hasUpper (c : Configuration) : Bool := decide (c.firstOven + c.ovenCount - 1 < c.batteryOvens)

/-- An OVS of another station with a phase of the seven: a neighbour view, or SECTION_OVERLAP (R35, R114). -/
def takeOvs (c : Configuration) (oven : Nat) (phase : Phase) (age : Nat) (p : Part) : Part :=
  let view : NeighbourView := ⟨phase, age, .running neighbourFreshMs⟩
  if isLocal c oven then raiseStation c .sectionOverlap p
  else if hasLower c = true ∧ oven + 1 = c.firstOven then { p with lvt := { p.lvt with lower := some view } }
  else if hasUpper c = true ∧ oven = c.firstOven + c.ovenCount then { p with lvt := { p.lvt with upper := some view } }
  else p

/-- An OVS: a phase code outside the seven drops it whole (R114). The other fields are for the panels. -/
def execOvs (h : Header) (oven : Byte) (stateWord _lateness : Word16) (_doors : Byte)
    (_offtake _pressure _alarms : Word16) (s : State) : Host.Outcome State Fault Refusal :=
  s.whenLoaded fun c p =>
    if fromOther h c then
      match phaseOfCode (stateWordPhase stateWord) with
      | none => p
      | some phase => takeOvs c oven.toNat phase (stateWordAge stateWord) p
    else p

/-- A neighbour view becomes stale and keeps its phase and age (R114). -/
def Lvt.neighbourStale (l : Lvt) : NeighbourName → Lvt
  | .lower => { l with lower := l.lower.map fun v => { v with fresh := .stopped } }
  | .upper => { l with upper := l.upper.map fun v => { v with fresh := .stopped } }

def execNeighbourViewFreshnessExpiry (view : NeighbourName) (s : State) : Host.Outcome State Fault Refusal :=
  s.whenLoaded fun _ p => { p with lvt := p.lvt.neighbourStale view }

/-! ## The anchor (R115) -/

/-- A PDN naming an oven from 1 to N sets the anchor. -/
def takePdn (c : Configuration) (oven : Nat) (p : Part) : Part :=
  if 1 ≤ oven ∧ oven ≤ c.batteryOvens then { p with lvt := { p.lvt with anchor := some oven } } else p

def execPdn (h : Header) (oven _stroke _unpermitted : Byte) (s : State) : Host.Outcome State Fault Refusal :=
  s.whenLoaded fun c p => if fromOther h c then takePdn c oven.toNat p else p

/-! ## The peer activity list (R116 to R118) -/

/-- The list without a station. -/
def withoutPeer (station : Nat) (peers : List Peer) : List Peer := peers.filter fun x => x.station != station

/-- The list after an SCS showing a push stage: refreshed to the end, appended, or in place of the first (R116, R117). -/
def withPeer (station : Nat) (peers : List Peer) : List Peer :=
  let entry : Peer := ⟨station, .running peerRefreshMs⟩
  if peers.any (·.station == station) then withoutPeer station peers ++ [entry]
  else if peers.length < maxPeers then peers ++ [entry]
  else peers.tail ++ [entry]

/-- An SCS of another station; a stage code above 5 drops it (R116). An addition is told to the BSU (R117). -/
def takeScs (station stage : Nat) (p : Part) : Part :=
  if 5 < stage then p
  else if stage = 0 then { p with lvt := { p.lvt with peers := withoutPeer station p.lvt.peers } }
  else
    let listed := { p with lvt := { p.lvt with peers := withPeer station p.lvt.peers } }
    if p.lvt.peers.any (·.station == station) then listed else peerAdded station listed

def execScs (h : Header) (stage _oven _reason _anchor _count _head _alarms : Byte) (s : State) :
    Host.Outcome State Fault Refusal :=
  s.whenLoaded fun c p => if fromOther h c then takeScs h.station.toNat stage.toNat p else p

/-- An entry's refresh timer expires: the entry goes (R118). -/
def execRefreshTimerExpiry (station : Nat) (s : State) : Host.Outcome State Fault Refusal :=
  s.whenLoaded fun _ p => { p with lvt := { p.lvt with peers := withoutPeer station p.lvt.peers } }

/-! ## The settle timer (R119) -/

def execSettleTimerExpiry (s : State) : Host.Outcome State Fault Refusal :=
  s.whenLoaded fun _ p =>
    if p.lvt.settle.active then { p with lvt := { p.lvt with settle := .expired } } else p

end Sys2Proof.Machine
end

