-- ==== Sys2Proof/Machine/Line.lean ====
section
/-! DEFINITION. BLI: attempts, lost contention, echoes, failed attempts and the silent state (R131 to R135). -/

namespace Sys2Proof.Machine

open Sys2Proof

/-! ## Attempts (R131) -/

/-- At line idle, with a telegram queued, not silent and no attempt on the line, send the head's frame (R131, R150). -/
def beginAttempt (c : Configuration) (p : Part) : Part :=
  match p.bli.queue, p.bli.attempt with
  | head :: _, none =>
      if p.bli.silent.active then p
      else
        { p with bli := { p.bli with
            attempt := some
              { kind := head.kind, subject := head.subject
                frame := telegramFrame c.station head.kind head.payload, replaced := false } } }
  | _, _ => p

def execLineIdleAttempt (s : State) : Host.Outcome State Fault Refusal := s.whenLoaded beginAttempt

/-- The attempt leaves the line. -/
def Bli.endAttempt (b : Bli) : Bli := { b with attempt := none }

/-- Another station's lower arbitration field takes the line: the telegram stays queued and the count stands (R131). A
field that is not lower cannot take it (log 18). -/
def loseContention (c : Configuration) (urgency station : Nat) (p : Part) : Part :=
  match p.bli.attempt with
  | none => p
  | some a =>
      if arbitrationField urgency station < arbitrationField a.kind.urgency c.station then
        { p with bli := p.bli.endAttempt }
      else p

def execLostContention (urgency station : Byte) (s : State) : Host.Outcome State Fault Refusal :=
  s.whenLoaded fun c p => loseContention c urgency.toNat station.toNat p

/-! ## Offers owed to the line (R134, step 4) -/

/-- Offer CHP again for a CHP-pending oven that is still CHARGING; a taken offer clears the flag (R14). -/
def reofferChp (p : Part) (i : Nat) : Part :=
  match p.places[i]? with
  | none => p
  | some pl =>
      let n := pl.oven.number
      if pl.oven.chpPending = true ∧ pl.oven.kept.phase = .charging then
        if p.takes .chp (.oven n) [byteOf n] then
          (p.offer .chp (.oven n) [byteOf n]).modifyOven i fun o => { o with chpPending := false }
        else p
      else p

/-- The CHP-pending ovens, in rising oven number. -/
def reofferChps (p : Part) : Part := (List.range p.places.length).foldl reofferChp p

/-- A removal told: the QOU, the OCT and the PSQ offer again, in that order (R134). -/
def tellRemoval (p : Part) : Part := reofferPdns (reofferChps (qouOfferHead p))

/-! ## Success (R134) -/

/-- The producer learns that its telegram was heard back (R28, R99, R134 step 2). -/
def heardBack (c : Configuration) (k : Kind) (sub : Subject) (p : Part) : Part :=
  match k, sub with
  | .bid, _ => bidHeardBack c p
  | .qco, .order id => orderHeardBack id p
  | _, _ => p

/-- The echo through the receive filter: only a PDN's owner takes it (R115, R134 step 5). -/
def routeEcho (c : Configuration) (k : Kind) (sub : Subject) (p : Part) : Part :=
  match k, sub with
  | .pdn, .oven n => takePdn c n p
  | _, _ => p

/-- Remove an item from the queue. -/
def Bli.remove (b : Bli) (k : Kind) (sub : Subject) : Bli :=
  { b with queue := b.queue.filter fun e => !e.isItem k sub }

/-- A clean echo (R134): the count, LINE_SILENT, the producer, the removal unless the entry was replaced, the offers
owed, the echo. -/
def succeed (c : Configuration) (p : Part) : Part :=
  match p.bli.attempt with
  | none => p
  | some a =>
      let counted := removeStation c .lineSilent { p with bli := { p.bli.endAttempt with failed := 0 } }
      let heard := heardBack c a.kind a.subject counted
      let removed :=
        if a.replaced then heard else tellRemoval { heard with bli := heard.bli.remove a.kind a.subject }
      routeEcho c a.kind a.subject removed

def execAttemptSucceeded (s : State) : Host.Outcome State Fault Refusal := s.whenLoaded succeed

/-! ## Failure and silence (R135) -/

/-- The periodic reports, dropped at the start of a silent spell. -/
def TxEntry.isReport (e : TxEntry) : Bool := e.kind == .ovs || e.kind == .scs

/-- Enter the silent state: LINE_SILENT, every OVS and SCS dropped, each drop told as a removal (R135). -/
def enterSilence (c : Configuration) (p : Part) : Part :=
  let alarmed := raiseStation c .lineSilent { p with bli := { p.bli with silent := .running silentMs } }
  let dropped := { alarmed with bli := { alarmed.bli with queue := alarmed.bli.queue.filter fun e => !e.isReport } }
  (alarmed.bli.queue.filter (·.isReport)).foldl (fun p _ => tellRemoval p) dropped

/-- A bit error or a missing echo: the count rises, and at 32 the BLI falls silent (R135). -/
def fail (c : Configuration) (p : Part) : Part :=
  match p.bli.attempt with
  | none => p
  | some _ =>
      let counted := { p with bli := { p.bli.endAttempt with failed := p.bli.failed + 1 } }
      if maxFailed ≤ p.bli.failed + 1 then enterSilence c counted else counted

def execAttemptFailed (s : State) : Host.Outcome State Fault Refusal := s.whenLoaded fail

/-- The silent spell ends: the count is 0, LINE_SILENT stays (R135). -/
def execSilentExpiry (s : State) : Host.Outcome State Fault Refusal :=
  s.whenLoaded fun _ p =>
    if p.bli.silent.active then { p with bli := { p.bli with silent := .stopped, failed := 0 } } else p

end Sys2Proof.Machine
end

