-- ==== Sys2Proof/Machine/Ovens.lean ====
section
/-! DEFINITION. OCT: the minute expiry, the panel oven commands and the charge protocol (R1 to R18), and the ageing of the
retained copy (R145). -/

namespace Sys2Proof.Machine

open Sys2Proof

/-! ## Counting the age (R2, R145) -/

/-- Whether a phase counts its age. -/
def Phase.ages : Phase → Bool
  | .coking => true
  | .ready => true
  | _ => false

/-- One minute older, saturating at 4095, when the phase counts (R2). -/
def Retained.older (r : Retained) : Retained :=
  if r.phase.ages then { r with age := min maxAge (r.age + 1) } else r

/-- The minute expiry at one oven (R2, R4): the age, a COKING oven at its threshold, OVERDUE. -/
def minuteAt (c : Configuration) (p : Part) (i : Nat) : Part :=
  match p.places[i]? with
  | none => p
  | some pl =>
      let aged := p.modifyOven i fun o => { o with kept := o.kept.older }
      let ready :=
        if pl.oven.kept.phase = .coking ∧ pl.oven.kept.older.atThreshold c = true then setPhase c i .ready aged
        else aged
      evalOverdue c i ready

/-- The minute expiry: the oven records in rising oven number, or the retained copy while there are none (R2, R145). -/
def minute (p : Part) : Part :=
  match p.config with
  | none => { p with retained := { p.retained with records := p.retained.records.map (·.older) } }
  | some c => (List.range p.places.length).foldl (minuteAt c) p

def execMinuteExpiry (s : State) : Host.Outcome State Fault Refusal := s.update minute

/-! ## Panel oven commands (R6 to R11) -/

/-- A panel command for a local oven, from a configured panel station (R6, R136). -/
def panelAt (h : Header) (oven : Byte) (f : Configuration → Nat → Part → Part) (s : State) :
    Host.Outcome State Fault Refusal :=
  s.whenLoaded fun c p => if isFromPanel h c then withLocal c oven.toNat p fun i => f c i p else p

def execPnlHold (h : Header) (oven : Byte) (s : State) : Host.Outcome State Fault Refusal :=
  panelAt h oven (fun _ i p => setHold i true p) s

def execPnlRelease (h : Header) (oven : Byte) (s : State) : Host.Outcome State Fault Refusal :=
  panelAt h oven (fun _ i p => setHold i false p) s

/-- OUT, once its acceptance holds: phase, hold, ISOLATE (R8, R11). -/
def takeOut (c : Configuration) (i : Nat) (p : Part) : Part :=
  askIsolate c i (setHold i false (setPhase c i .out p))

/-- OUT is taken from EMPTY or UNKNOWN (R8). -/
def panelOut (c : Configuration) (i : Nat) (p : Part) : Part :=
  match p.phaseAt i with
  | some .empty => takeOut c i p
  | some .unknown => takeOut c i p
  | _ => p

def execPnlOut (h : Header) (oven : Byte) (s : State) : Host.Outcome State Fault Refusal :=
  panelAt h oven panelOut s

/-- A neighbour view that passes the test of R9: fresh, and not EMPTY, CHARGING or PUSHING. -/
def viewClear : Option NeighbourView → Bool
  | none => false
  | some v => v.fresh.active && !v.phase.isOpen

/-- The lower neighbour of oven F + i passes the test of R9. -/
def clearBelow (c : Configuration) (p : Part) (i : Nat) : Bool :=
  if i = 0 then (if c.firstOven = 1 then true else viewClear p.lvt.lower)
  else match p.phaseAt (i - 1) with
    | none => false
    | some ph => !ph.isOpen

/-- The upper neighbour passes the test of R9. -/
def clearAbove (c : Configuration) (p : Part) (i : Nat) : Bool :=
  if i + 1 = c.ovenCount then
    (if c.firstOven + i = c.batteryOvens then true else viewClear p.lvt.upper)
  else match p.phaseAt (i + 1) with
    | none => false
    | some ph => !ph.isOpen

/-- IN is taken from OUT when both battery neighbours pass (R9). -/
def panelIn (c : Configuration) (i : Nat) (p : Part) : Part :=
  if p.phaseAt i = some .out ∧ clearBelow c p i = true ∧ clearAbove c p i = true then setPhase c i .empty p else p

def execPnlIn (h : Header) (oven : Byte) (s : State) : Host.Outcome State Fault Refusal :=
  panelAt h oven panelIn s

/-- A target clamped to 600 to 2400 minutes (R10). -/
def clampTarget (v : Nat) : Nat := max 600 (min 2400 v)

/-- TARGET is taken in every phase (R10). -/
def panelTarget (value : Word16) (c : Configuration) (i : Nat) (p : Part) : Part :=
  match p.places[i]? with
  | none => p
  | some pl =>
      let set := p.modifyOven i fun o => { o with kept := { o.kept with target := clampTarget value.toNat } }
      evalOverdue c i (if pl.oven.kept.phase.ages then setByAge c i set else set)

def execPnlTarget (h : Header) (oven : Byte) (value : Word16) (s : State) : Host.Outcome State Fault Refusal :=
  panelAt h oven (panelTarget value) s

/-- DECLARE COKING: the clamped age, then the phase by it (R11). -/
def declareCoking (value : Word16) (c : Configuration) (i : Nat) (p : Part) : Part :=
  evalOverdue c i
    (setByAge c i (p.modifyOven i fun o => { o with kept := { o.kept with age := min maxAge value.toNat } }))

/-- DECLARE is taken only from UNKNOWN, with the phase COKING or OUT (R11). -/
def panelDeclare (value : Word16) (phase : Byte) (c : Configuration) (i : Nat) (p : Part) : Part :=
  if p.phaseAt i = some .unknown then
    match phaseOfCode phase.toNat with
    | some .coking => declareCoking value c i p
    | some .out => takeOut c i p
    | _ => p
  else p

def execPnlDeclare (h : Header) (oven : Byte) (value : Word16) (phase : Byte) (s : State) :
    Host.Outcome State Fault Refusal :=
  panelAt h oven (panelDeclare value phase) s

/-! ## The charge protocol (R12 to R18) -/

/-- Ask the OCU for ASPIRATE, which may be reached at once (R13, R86). -/
def askAspirate (c : Configuration) (i : Nat) (p : Part) : Part :=
  match p.places[i]? with
  | none => p
  | some pl => tellOfftake c i (pl.offtake.callMode c (p.offtakeLevels i) .aspirate) none p

/-- A charge ask at a local oven: the tests in order, or a charge start (R12, R13). -/
def chargeAsk (c : Configuration) (i : Nat) (p : Part) : Part :=
  match p.places[i]? with
  | none => p
  | some pl =>
      if pl.oven.inFlight then offerChr pl.oven.number .busy p
      else if pl.oven.kept.phase ≠ .empty then offerChr pl.oven.number .notEmpty p
      else if pl.bothLatched = false then offerChr pl.oven.number .doors p
      else askAspirate c i (p.modifyOven i fun o => { o with inFlight := true })

def execCha (h : Header) (oven : Byte) (s : State) : Host.Outcome State Fault Refusal :=
  s.whenLoaded fun c p =>
    if isFrom h c c.chargerStation then withLocal c oven.toNat p fun i => chargeAsk c i p else p

/-- The charge end of a CHARGING oven (R17). -/
def chargeEnd (c : Configuration) (i : Nat) (p : Part) : Part :=
  if p.phaseAt i = some .charging then
    setPhase c i .coking (p.modifyOven i fun o => { o with kept := { o.kept with age := 0 } })
  else p

def execChe (h : Header) (oven : Byte) (s : State) : Host.Outcome State Fault Refusal :=
  s.whenLoaded fun c p =>
    if isFrom h c c.chargerStation then withLocal c oven.toNat p fun i => chargeEnd c i p else p

/-- The charge limit: CHARGE_LATE, and the timer stops (R18). -/
def chargeLimit (c : Configuration) (i : Nat) (p : Part) : Part :=
  match p.places[i]? with
  | none => p
  | some pl =>
      if pl.oven.chargeLimit.active then
        raiseOven c i .chargeLate (p.modifyOven i fun o => { o with chargeLimit := .stopped })
      else p

def execChargeLimitExpiry (oven : Nat) (s : State) : Host.Outcome State Fault Refusal :=
  s.whenLoaded fun c p => withLocal c oven p fun i => chargeLimit c i p

end Sys2Proof.Machine
end

