-- ==== Sys2Proof/Machine/Reports.lean ====
section
/-! DEFINITION. ASR: the SCS period (R143) and the panel CLEAR (R140). -/

namespace Sys2Proof.Machine

open Sys2Proof

/-- The SCS period: an SCS offered, the timer restarted; a refused offer is skipped (R143). -/
def scsPeriod (_c : Configuration) (p : Part) : Part :=
  if p.asr.scsPeriod.active then
    let offered := p.offer .scs .station (scsPayload p)
    { offered with asr := { offered.asr with scsPeriod := .running scsPeriodMs } }
  else p

def execScsPeriodExpiry (s : State) : Host.Outcome State Fault Refusal := s.whenLoaded scsPeriod

/-- Clear every latched alarm of the oven at a place (R140). -/
def clearOvenAlarms (c : Configuration) (i : Nat) (p : Part) : Part :=
  match p.places[i]? with
  | none => p
  | some pl => setOvenAlarms c i (pl.oven.alarms &&& ovenLevelMask) p

/-- CLEAR for a local oven, for the station, or ignored (R140). -/
def panelClear (c : Configuration) (oven : Nat) (p : Part) : Part :=
  if oven = 0 then setStationAlarms c (p.asr.station &&& stationLevelMask) p
  else withLocal c oven p fun i => clearOvenAlarms c i p

def execPnlClear (h : Header) (oven : Byte) (s : State) : Host.Outcome State Fault Refusal :=
  s.whenLoaded fun c p => if isFromPanel h c then panelClear c oven.toNat p else p

end Sys2Proof.Machine
end

