-- ==== Sys2Proof/Machine/Samples.lean ====
section
/-! DEFINITION. FLS outputs and the sample port: the converter scan (R125 to R128) with what each sample does at the OCU
(R72 to R74, R92), the valve PWM channels (R124) and the output pins (R123, R129); and the round-robin OVS of the same
250 ms expiry (R142). -/

namespace Sys2Proof.Machine

open Sys2Proof

/-! ## One sample (R72 to R74, R77, R82, R92) -/

/-- Steps 1 to 3 of a valid sample: recorded, counted, and with the fourth in a row after a failure the flag cleared and
PRESSURE_SENSOR removed (R72, R73). -/
def countSample (c : Configuration) (i : Nat) (pressure : Int) (p : Part) : Part :=
  match p.places[i]? with
  | none => p
  | some pl =>
      let counted := pl.offtake.countValid pressure
      if counted.recovers then
        removeOven c i .pressureSensor (commitOfftake i { counted with sensorFailed := false } p)
      else commitOfftake i counted p

/-- Step 4: the PRESSURE_HIGH timer, and PRESSURE_HIGH removed at or below p_high (R72, R74). -/
def timeSample (c : Configuration) (i : Nat) (pressure : Int) (p : Part) : Part :=
  match p.places[i]? with
  | none => p
  | some pl =>
      let timed := commitOfftake i (pl.offtake.timeHigh c (hasOven pl.oven.alarms .pressureHigh) pressure) p
      if pressure ≤ (c.pHigh : Int) then removeOven c i .pressureHigh timed else timed

/-- R92 calls for PI: COKING or READY, no push context holds the oven, sensor good. -/
def holdLeavesForPi (p : Part) (pl : Place) : Bool :=
  pl.offtake.mode == .hold && (pl.oven.kept.phase == .coking || pl.oven.kept.phase == .ready)
    && !isContextOven p pl.oven.number && !pl.offtake.sensorFailed

/-- Step 5: the entry step or the PI step in PI, and the entry into PI from HOLD (R72, R77, R82, R92). -/
def controlSample (c : Configuration) (i : Nat) (pressure : Int) (p : Part) : Part :=
  match p.places[i]? with
  | none => p
  | some pl =>
      let sp := setpoint c pl.oven.kept.age pl.doorCondition
      if pl.offtake.mode = .pi then commitOfftake i (pl.offtake.control c sp pressure) p
      else if holdLeavesForPi p pl then commitOfftake i ((pl.offtake.enterPi c).control c sp pressure) p
      else p

/-- A valid sample, in the numbered order of R72: an OVS that steps 3 and 4 offer carries the valve command from before
step 5. The DMN comes last. -/
def validSample (c : Configuration) (i : Nat) (code : Nat) (p : Part) : Part :=
  let pressure := convert c i code
  permitPass c i (controlSample c i pressure (timeSample c i pressure (countSample c i pressure p)))

/-- Steps 1 to 3 of an invalid sample: removed, counted, and with the third in a row the flag set, PRESSURE_SENSOR raised
and PI left for HOLD (R72, R73). -/
def countInvalidSample (c : Configuration) (i : Nat) (p : Part) : Part :=
  match p.places[i]? with
  | none => p
  | some pl =>
      let counted := pl.offtake.countInvalid
      if counted.fails then
        let failed := { counted with sensorFailed := true }
        let alarmed := raiseOven c i .pressureSensor (commitOfftake i failed p)
        if failed.mode = .pi then commitOfftake i (failed.enterHold c) alarmed else alarmed
      else commitOfftake i counted p

/-- An invalid sample, the DMN last (R72). -/
def invalidSample (c : Configuration) (i : Nat) (p : Part) : Part := permitPass c i (countInvalidSample c i p)

/-! ## The scan (R125 to R128) -/

/-- The bus steps of the transaction for a place counted from 1 (R126). -/
def transactionSteps (c : Configuration) (place : Nat) : List PortStep :=
  [.start, .write c.converterAddress, .byte (place - 1), .repeatedStart, .read c.converterAddress, .readAck, .readNack,
    .stop]

/-- Start the transaction for a place (R126). -/
def startTransaction (c : Configuration) (place : Nat) (p : Part) : Part :=
  { p with fls := { p.fls with
      scan := { p.fls.scan with place := place }, port := transactionSteps c place } }

/-- The 250 ms expiry starts a scan unless one runs (R125). -/
def startScan (c : Configuration) (p : Part) : Part :=
  if p.fls.scan.running then p
  else
    startTransaction c 1
      { p with fls := { p.fls with scan := { p.fls.scan with running := true, addressNack := false } } }

/-- The count and SAMPLE_PORT at the end of a scan: `early` for one that a failed transaction has ended, at whatever place
(R128; for a clock held at place K itself see log 28). -/
def endScan (c : Configuration) (early : Bool) (p : Part) : Part :=
  let scan := p.fls.scan
  let count :=
    if scan.addressNack then min 3 (scan.nackCount + 1) else if early then scan.nackCount else 0
  let ended := { p with fls := { p.fls with
      scan := { scan with running := false, nackCount := count }, port := [] } }
  if scan.addressNack then (if count = 3 then raiseStation c .samplePort ended else ended)
  else if early then ended
  else removeStation c .samplePort ended

/-- The next place, or the end of the scan after place K (R126). -/
def nextPlace (c : Configuration) (p : Part) : Part :=
  if p.fls.scan.place < c.ovenCount then startTransaction c (p.fls.scan.place + 1) p else endScan c false p

/-- The code of the two bytes read: the word shifted right by four (R126). -/
def codeOf (first second : Byte) : Nat := (first.toNat * 256 + second.toNat) / 16

/-- A transaction completes: the sample of its place, valid for a code 1 to 4094, and the next place (R126). -/
def transactionDone (c : Configuration) (code : Nat) (p : Part) : Part :=
  if p.fls.scan.running then
    let i := p.fls.scan.place - 1
    nextPlace c (if 1 ≤ code ∧ code ≤ 4094 then validSample c i code p else invalidSample c i p)
  else p

def execTransactionComplete (first second : Byte) (s : State) : Host.Outcome State Fault Refusal :=
  s.whenLoaded fun c p => transactionDone c (codeOf first second) p

/-- The stop that ends a failed transaction, before what the port sends next (R127). -/
def Part.sendStop (p : Part) : Part := { p with fls := { p.fls with port := .stop :: p.fls.port } }

/-- The channel byte is not acknowledged: a stop, an invalid sample, and the scan goes on (R127). -/
def channelNack (c : Configuration) (p : Part) : Part :=
  if p.fls.scan.running then (nextPlace c (invalidSample c (p.fls.scan.place - 1) p)).sendStop else p

def execChannelByteNack (s : State) : Host.Outcome State Fault Refusal := s.whenLoaded channelNack

/-- Invalid samples for the current place and every later place up to K, in rising place (R127). -/
def failRest (c : Configuration) (p : Part) : Part :=
  ((List.range c.ovenCount).drop (p.fls.scan.place - 1)).foldl (fun p i => invalidSample c i p) p

/-- The converter address is not acknowledged: a stop, the rest of the scan is invalid, and the scan ends (R127). -/
def addressFails (c : Configuration) (p : Part) : Part :=
  if p.fls.scan.running then
    (endScan c true
      (failRest c { p with fls := { p.fls with scan := { p.fls.scan with addressNack := true } } })).sendStop
  else p

def execAddressNack (s : State) : Host.Outcome State Fault Refusal := s.whenLoaded addressFails

/-- The clock is held low for more than 5 ms: a stop, the rest of the scan is invalid, and the scan ends (R127). A clock held
at place K itself counts as a scan ended early on a held clock: the model's choice between two rows of R128, log 28. -/
def clockFails (c : Configuration) (p : Part) : Part :=
  if p.fls.scan.running then (endScan c true (failRest c p)).sendStop else p

def execClockHoldTimeout (s : State) : Host.Outcome State Fault Refusal := s.whenLoaded clockFails

/-! ## The 250 ms expiry (R125, R142) -/

/-- The round-robin OVS offer: the oven at the place, then the next place (R142). -/
def roundRobinOvs (c : Configuration) (p : Part) : Part :=
  let offered := p.offerOvs p.asr.roundRobin
  { offered with asr := { offered.asr with
      roundRobin := if p.asr.roundRobin + 1 < c.ovenCount then p.asr.roundRobin + 1 else 0 } }

def execQuarterSecondExpiry (s : State) : Host.Outcome State Fault Refusal :=
  s.whenLoaded fun c p => roundRobinOvs c (startScan c p)

/-! ## The valve outputs (R124) -/

/-- The count wraps from 999 to 0: every buffered compare is taken. -/
def periodEnd (p : Part) : Part :=
  { p with fls := { p.fls with
      pwmCount := 0, channels := p.fls.channels.map fun ch => { ch with applied := ch.buffered } } }

def execPwmPeriodEnd (s : State) : Host.Outcome State Fault Refusal := s.update periodEnd

/-- The count reaches the applied compare of a channel, counted from 0: its output is inactive from here on. A compare
of 1000 is never reached, and the count does not go back (log 16). -/
def compareMatch (i : Nat) (p : Part) : Part :=
  match p.fls.channels[i]? with
  | none => p
  | some ch =>
      if ch.applied < 1000 ∧ p.fls.pwmCount ≤ ch.applied then { p with fls := { p.fls with pwmCount := ch.applied } }
      else p

def execPwmCompareMatch (place : Nat) (s : State) : Host.Outcome State Fault Refusal :=
  s.update fun p => if place = 0 then p else compareMatch (place - 1) p

/-! ## Output pins (R123, R124, R129), places counted from 0 -/

/-- The door permit line at a pin: inactive for a place without records. -/
def Part.permitPin (p : Part) (i : Nat) (side : Side) : Bool :=
  match p.places[i]? with
  | none => false
  | some pl => (pl.door side).permit

/-- The cap command line at a pin: active commands the cap open. -/
def Part.capPin (p : Part) (i : Nat) : Bool :=
  match p.places[i]? with
  | none => false
  | some pl => pl.offtake.capOpen

/-- The valve output: active while the count is below the applied compare. -/
def Part.valvePin (p : Part) (i : Nat) : Bool :=
  match p.fls.channels[i]? with
  | none => false
  | some ch => decide (p.fls.pwmCount < ch.applied)

end Sys2Proof.Machine
end

