-- ==== Sys2Proof/Machine/ConfigBlock.lean ====
section
/-! DEFINITION. The configuration block: its layout (R151), and the tests and clamps of the load (R147). -/

namespace Sys2Proof.Machine

open Sys2Proof

/-! ## The layout (R151) -/

/-- The byte at an offset. -/
def byteAt (block : List Byte) (offset : Nat) : Nat := (block.getD offset 0).toNat

/-- The two-byte field at an offset, most significant byte first. -/
def wordAt (block : List Byte) (offset : Nat) : Nat := byteAt block offset * 256 + byteAt block (offset + 1)

/-- The 16-bit sum of bytes 0 to 83. -/
def blockSum (block : List Byte) : Nat := ((block.take 84).map (·.toNat)).sum % 65536

/-- A value into its range (R147). -/
def clampNat (lo hi v : Nat) : Nat := max lo (min hi v)

/-- The fields of a block under their names, with every clamp of R147. The fields of the structure test are taken as
they stand. -/
def parseBlock (b : List Byte) : Configuration :=
  { station := byteAt b 1
    firstOven := byteAt b 2
    ovenCount := byteAt b 3
    batteryOvens := byteAt b 4
    step := byteAt b 5
    classOrder := (List.range (min 10 (byteAt b 5))).map fun r => byteAt b (6 + r)
    targetDefault := clampNat 600 2400 (wordAt b 16)
    earlyMargin := clampNat 0 120 (byteAt b 18)
    supportAge := clampNat 0 2400 (wordAt b 19)
    overdueAfter := clampNat 0 255 (byteAt b 21)
    bidWindow := clampNat 5 50 (byteAt b 22)
    spEarly := clampNat 0 300 (wordAt b 23)
    spMid := clampNat 0 300 (wordAt b 25)
    spLate := clampNat 0 300 (wordAt b 27)
    t1 := clampNat 0 2400 (wordAt b 29)
    t2 := clampNat 0 2400 (wordAt b 31)
    leakOffset := clampNat 0 255 (byteAt b 33)
    spFloor := clampNat 0 255 (byteAt b 34)
    pHigh := clampNat 0 1000 (wordAt b 35)
    permitMax := clampNat 0 255 (byteAt b 37)
    kp := clampNat 0 255 (byteAt b 38)
    ki := clampNat 0 255 (byteAt b 39)
    uMin := clampNat 0 1000 (wordAt b 40)
    uMax := clampNat 0 1000 (wordAt b 42)
    slew := clampNat 1 1000 (wordAt b 44)
    uFail := clampNat 0 1000 (wordAt b 46)
    aspirateHold := clampNat 0 1800 (wordAt b 48)
    span := clampNat 1 65535 (wordAt b 50)
    zeroCodes := (List.range 8).map fun k => clampNat 0 4095 (wordAt b (52 + 2 * k))
    pusherStation := byteAt b 68
    guideStation := byteAt b 69
    carStation := byteAt b 70
    chargerStation := byteAt b 71
    panelStations := (List.range 4).map fun k => byteAt b (72 + k)
    converterAddress := byteAt b 76 % 128
    quenchTime := clampNat 30 180 (byteAt b 77)
    leakOn := clampNat 1 255 (byteAt b 78)
    leakOff := clampNat 1 255 (byteAt b 79)
    resealAfter := clampNat 1 255 (byteAt b 80)
    ovenMask := BitVec.ofNat 16 (wordAt b 81)
    stationMask := BitVec.ofNat 8 (byteAt b 83) }

/-! ## The tests (R147) -/

/-- The check test. -/
def checkPasses (block : List Byte) : Bool := blockSum block == wordAt block 84

/-- The version test. -/
def versionPasses (block : List Byte) : Bool := byteAt block 0 == 1

/-- A station number in 1 to 63. -/
def isStationNumber (n : Nat) : Bool := decide (1 ≤ n ∧ n ≤ 63)

/-- The four machine stations. -/
def machineStations (c : Configuration) : List Nat :=
  [c.pusherStation, c.guideStation, c.carStation, c.chargerStation]

/-- The machine stations are in range, none the station's own, and no two are equal. -/
def machinesPass (c : Configuration) : Bool :=
  (machineStations c).all (fun m => isStationNumber m && m != c.station) && decide (machineStations c).Nodup

/-- A panel entry is 0, or a station that is neither the own station nor a machine. -/
def panelPasses (c : Configuration) (n : Nat) : Bool :=
  n == 0 || (isStationNumber n && n != c.station && !(machineStations c).contains n)

/-- The class order is a permutation of 0 to S - 1. -/
def classOrderPasses (c : Configuration) : Bool :=
  c.classOrder.length == c.step && (List.range c.step).all fun r => c.classOrder.contains r

/-- The structure test, on the clamped values where R147 says so. -/
def structurePasses (c : Configuration) : Bool :=
  isStationNumber c.station
    && decide (8 ≤ c.batteryOvens ∧ c.batteryOvens ≤ 120)
    && decide (1 ≤ c.firstOven ∧ c.firstOven ≤ c.batteryOvens)
    && decide (1 ≤ c.ovenCount ∧ c.ovenCount ≤ 8 ∧ c.firstOven + c.ovenCount - 1 ≤ c.batteryOvens)
    && decide (1 ≤ c.step ∧ c.step ≤ 10)
    && classOrderPasses c
    && machinesPass c
    && c.panelStations.all (panelPasses c)
    && decide (c.t1 < c.t2)
    && decide (c.uMin < c.uMax)

/-- The four tests in their order, and the configuration they leave (R147). A transfer that has not brought 86 bytes is
a failed transfer (log 8). -/
def loadBlock (acked : Bool) (block : List Byte) : Option Configuration :=
  if acked = true ∧ block.length = 86 ∧ checkPasses block = true ∧ versionPasses block = true
      ∧ structurePasses (parseBlock block) = true then
    some (parseBlock block)
  else none

end Sys2Proof.Machine
end

