-- ==== Sys2Proof/Machine/StartUp.lean ====
section
/-! DEFINITION. The configuration load (R147, R148), the two kinds of start with every block's start values (R19, R37,
R57, R70, R93, R109, R120, R122, R138), and the supplies and the reset line (R129, R144, R145, R149). -/

namespace Sys2Proof.Machine

open Sys2Proof

/-! ## The switch inputs at a load (R122) -/

/-- An input without a first level is taken to hold inactive; a spell of an active pin runs on (log 13). -/
def Input.atLoad (x : Input) : Input :=
  match x.level with
  | some _ => x
  | none => { x with level := some false, stability := if x.pin = some true then x.stability else .stopped }

def PlaceInputs.atLoad (x : PlaceInputs) : PlaceInputs :=
  { valveClosed := x.valveClosed.atLoad, capOpen := x.capOpen.atLoad, capClosed := x.capClosed.atLoad
    presentP := x.presentP.atLoad, latchedP := x.latchedP.atLoad, leakP := x.leakP.atLoad
    presentC := x.presentC.atLoad, latchedC := x.latchedC.atLoad, leakC := x.leakC.atLoad }

/-- The inputs of the places 1 to K; those beyond K are neither debounced nor read (R122). -/
def inputsAtLoad (c : Configuration) (inputs : List PlaceInputs) : List PlaceInputs :=
  inputs.mapIdx fun i x => if i < c.ovenCount then x.atLoad else .fresh

/-! ## Records at a start -/

/-- A retained record after the cold-start initialisation (R148, step 2). -/
def Retained.cold (c : Configuration) : Retained := { phase := .unknown, age := 0, target := c.targetDefault, hold := false }

/-- Charging or in a push when the records were lost: the age is not trusted (R19). -/
def Retained.losesAge (r : Retained) : Bool := r.phase == .charging || r.phase == .pushing

/-- A record restored by a warm start (R19, R3). -/
def Retained.restored (c : Configuration) (r : Retained) : Retained :=
  match r.phase with
  | .charging => { r with phase := .unknown }
  | .pushing => { r with phase := .unknown }
  | .coking => { r with phase := if r.atThreshold c then .ready else .coking }
  | .ready => { r with phase := if r.atThreshold c then .ready else .coking }
  | .unknown => r
  | .empty => r
  | .out => r

/-- The alarm set of an oven at its start: AGE_LOST, DOOR_SWITCH and OVERDUE, each by its rule (R4, R19, R70, R139). -/
def startAlarms (ageLost doorFault overdue : Bool) : Word16 :=
  (if ageLost then ovenBit .ageLost else 0) ||| (if doorFault then ovenBit .doorSwitch else 0)
    ||| (if overdue then ovenBit .overdue else 0)

/-- A door record from its levels (R70). -/
def Door.start (c : Configuration) (present latched leak : Bool) : Door :=
  let state : DoorState := match present, latched with
    | true, true => .sealed
    | true, false => .unlatched
    | false, false => .off
    | false, true => .fault
  { state := state, permit := false
    leakTimer := if state = .sealed ∧ leak = true then .running (seconds c.leakOn) else .stopped
    clearTimer := .stopped, leakingSpell := .stopped, sealedSpell := .stopped, resealWanted := false }

/-- An offtake record in HOLD (R93). -/
def Offtake.held (c : Configuration) : Offtake :=
  { mode := .hold, sub := none, next := none, awaits := none, entryPending := false, valve := c.uFail, capOpen := false
    pressure := none, invalidCount := 0, validCount := 0, sensorFailed := false, acc := 0
    highTimer := .stopped, aspirateTimer := .stopped, valveTimer := .stopped, capTimer := .stopped }

/-- An offtake record by the phase: EMPTY and OUT by the ISOLATE sequence, with its motion timer (R93, R85; log 5). -/
def Offtake.start (c : Configuration) (phase : Phase) (lv : OfftakeLevels) : Offtake :=
  if phase = .empty ∨ phase = .out then (Offtake.held c).startIsolate lv else Offtake.held c

/-- The records of one local oven at a start, from its retained record, already initialised or restored. -/
def Place.start (c : Configuration) (number : Nat) (kept : Retained) (ageLost : Bool) (x : PlaceInputs) : Place :=
  let lv (input : SwitchInput) : Bool := (x.get input).level.getD false
  let doorP := Door.start c (lv (.present .p)) (lv (.latched .p)) (lv (.leak .p))
  let doorC := Door.start c (lv (.present .c)) (lv (.latched .c)) (lv (.leak .c))
  { oven :=
      { number := number, kept := kept
        alarms := startAlarms ageLost (doorP.state == .fault || doorC.state == .fault) (kept.isOverdue c)
        inFlight := false, chpPending := false, chargeLimit := .stopped }
    doorP := doorP, doorC := doorC
    offtake := Offtake.start c kept.phase ⟨lv .valveClosed, lv .capOpen, lv .capClosed⟩ }

/-- A warm start: retained-valid is set for just these ovens (R148, step 1). -/
def isWarm (c : Configuration) (r : RetainedDomain) : Bool :=
  r.valid && r.firstOven == c.firstOven && r.ovenCount == c.ovenCount

/-- The place of the i-th local oven at a start, cold or warm (R19). -/
def startPlace (c : Configuration) (r : RetainedDomain) (inputs : List PlaceInputs) (i : Nat) : Place :=
  let x := inputs.getD i .fresh
  if isWarm c r then
    let kept := r.records.getD i (Retained.cold c)
    Place.start c (c.firstOven + i) (kept.restored c) kept.losesAge x
  else Place.start c (c.firstOven + i) (Retained.cold c) true x

/-! ## The start (R148) -/

/-- The channels as the OCU's first writes leave them: buffered, not yet applied; beyond K both compares 0 (R124). -/
def startChannels (places : List Place) : List Channel :=
  (List.range 8).map fun i =>
    match places[i]? with
    | none => ⟨0, 0⟩
    | some pl => ⟨0, pl.offtake.valve⟩

/-- The station alarms of a start: RETAINED_LOST on a cold one, BACKUP_LOW by the comparator (R19, R139, R146). -/
def startStation (warm backupLow : Bool) : Byte :=
  (if warm then 0 else stationBit .retainedLost) ||| (if backupLow then stationBit .backupLow else 0)

/-- A load that has succeeded: the start (R148). No offer is made: the BLI takes its place after the start values have
been set (log 6). -/
def startPart (c : Configuration) (backupLow : Bool) (p : Part) : Part :=
  let inputs := inputsAtLoad c p.fls.inputs
  let places := (List.range c.ovenCount).map (startPlace c p.retained inputs)
  let station := startStation (isWarm c p.retained) backupLow
  { p with
      load := .loaded c
      retry := .stopped
      retained := { valid := true, firstOven := c.firstOven, ovenCount := c.ovenCount, records := [] }
      places := places
      bsu := .start, psq := .start, qou := .start
      lvt := { Lvt.start with settle := .running settleMs }
      bli := .start
      fls := { p.fls with inputs := inputs, channels := startChannels places, scan := .start, port := [] }
      asr :=
        { station := station, configFault := false, relay := relayDecision c places station false
          roundRobin := 0, scsPeriod := .running scsPeriodMs } }

/-! ## The load (R147, R148) -/

/-- A load that has failed: CONFIG_FAULT, the relay active, the retry timer started (R148). The rules name no
stop for a failed transfer: that the port shows nothing after it is the model's choice (log 30). -/
def failLoad (p : Part) : Part :=
  { p with
      load := .failed, retry := .running retryMs
      fls := { p.fls with port := [] }
      asr := { p.asr with configFault := true, relay := true } }

/-- The read of the configuration memory begins on the port (R147). -/
def beginLoad (p : Part) : Part :=
  { p with load := .reading, retry := .stopped, fls := { p.fls with port := configReadSteps } }

/-- The read is complete: it is tested, and either fails or makes the start (R147, R148). -/
def loadDone (acked : Bool) (block : List Byte) (backupLow : Bool) (p : Part) : Part :=
  if p.load = .reading then
    match loadBlock acked block with
    | none => failLoad p
    | some c => startPart c backupLow (p.hearBackup backupLow)
  else p

def execConfigLoadComplete (acked : Bool) (block : List Byte) (backupLow : Bool) (s : State) :
    Host.Outcome State Fault Refusal :=
  s.update (loadDone acked block backupLow)

/-- The clock is held low for more than 5 ms during the load: a failed transfer (R147). -/
def execConfigLoadClockTimeout (s : State) : Host.Outcome State Fault Refusal :=
  s.update fun p => if p.load = .reading then failLoad p else p

/-- The retry timer: a fresh load (R148). CONFIG_FAULT holds until a load succeeds. -/
def execConfigRetryExpiry (s : State) : Host.Outcome State Fault Refusal :=
  s.update fun p => if p.load = .failed ∧ p.retry.active = true then beginLoad p else p

/-! ## Supplies and the reset line (R129, R144, R145, R149) -/

/-- The retained domain when the oven records are lost: the copy is what the records held (R145). -/
def Part.retainedCopy (p : Part) : RetainedDomain :=
  match p.config with
  | none => p.retained
  | some _ => { p.retained with records := p.places.map fun pl => pl.oven.kept }

/-- Everything but the retained domain stops: records and timers lost, off the line, outputs as R129 states (R149): the
blocks hold their start values until the load (log 31). The relay's level is the caller's: a part without supply cannot drive
it (R123, log 17). -/
def Part.stopped (p : Part) (relay : Bool) : Part :=
  { p with
      load := .absent, retry := .stopped, dividers := none, retained := p.retainedCopy
      places := [], bsu := .start, psq := .start, qou := .start, lvt := .start, bli := .start
      fls := .start, asr := { Asr.start with relay := relay } }

/-- The part begins, with nothing but the retained domain kept: dividers from zero, inputs afresh, a fresh load; the relay is
active until it succeeds (R122, R123, R144, R149). -/
def Part.begin (p : Part) : Part := beginLoad { p.stopped true with dividers := some 0 }

/-- The reset line is driven low (R129, R149). Without supply nothing is running. -/
def assertReset (p : Part) : Part :=
  if p.resetHeld then p
  else if p.mainOn then { p.stopped true with resetHeld := true }
  else { p with resetHeld := true }

def execResetAsserted (s : State) : Host.Outcome State Fault Refusal := s.update assertReset

/-- The reset line is released: the part begins as at the application of the main supply (R149). -/
def releaseReset (p : Part) : Part :=
  if p.resetHeld then
    if p.mainOn then { p with resetHeld := false }.begin else { p with resetHeld := false }
  else p

def execResetReleased (s : State) : Host.Outcome State Fault Refusal := s.update releaseReset

/-- The main supply comes on: the part begins, unless the reset line is held (R144, R149). -/
def applyMain (p : Part) : Part :=
  if p.mainOn then p
  else if p.resetHeld then { p.stopped true with mainOn := true }
  else { p with mainOn := true }.begin

def execMainSupplyApplied (s : State) : Host.Outcome State Fault Refusal := s.update applyMain

/-- The retained domain has lost its supply: retained-valid is cleared and the copy is not used again (R145).
That the copy is emptied and F and K stand as they were is the model's choice (log 4): no start uses any of them while the flag
is clear. -/
def Part.forget (p : Part) : Part := { p with retained := { p.retained with valid := false, records := [] } }

/-- The main supply fails: all but the retained domain is lost, and the domain too when the backup supply is gone (R145). -/
def loseMain (p : Part) : Part :=
  if p.mainOn then
    let off := { p.stopped false with mainOn := false }
    if p.backupOn then off else off.forget
  else p

def execMainSupplyLost (s : State) : Host.Outcome State Fault Refusal := s.update loseMain

/-- The backup supply falls below what the retained domain needs: with the main supply off the domain loses its supply, while
it is on the domain runs on it (R144, R145; log 23). -/
def loseBackup (p : Part) : Part :=
  let lost := { p with backupOn := false }
  if p.mainOn then lost else lost.forget

def execBackupSupplyLost (s : State) : Host.Outcome State Fault Refusal := s.update loseBackup

end Sys2Proof.Machine
end

