-- ==== Sys2Proof/Machine/Switches.lean ====
section
/-! DEFINITION. FLS inputs and the timers they start: debouncing (R121, R122), the door spells (R66 to R68) and the
offtake's motion, PRESSURE_HIGH and aspirate hold timers (R74, R85 to R91). -/

namespace Sys2Proof.Machine

open Sys2Proof

/-! ## Sampling the pins (R121, R122) -/

/-- A timer that runs on, or starts when it was stopped. -/
def Timer.runOn (t : Timer) (toward : Nat) : Timer := if t.active then t else .running toward

/-- One 1 ms sample of an input. With a debounced level, the table of R121. Without one, the spell is of the level
sampled: it runs on while the pin holds and begins afresh when the pin changes (R122). -/
def Input.sample (v : Bool) (x : Input) : Input :=
  match x.level with
  | some l =>
      if v = l then { x with pin := some v, stability := .stopped }
      else { x with pin := some v, stability := x.stability.runOn debounceMs }
  | none =>
      if x.pin = some v then { x with stability := x.stability.runOn debounceMs }
      else { x with pin := some v, stability := .running debounceMs }

/-- The nine inputs of a place sampled. -/
def PlaceInputs.sample (pins : Pins) (i : Nat) (x : PlaceInputs) : PlaceInputs :=
  { valveClosed := x.valveClosed.sample (pinLevel pins i .valveClosed)
    capOpen := x.capOpen.sample (pinLevel pins i .capOpen)
    capClosed := x.capClosed.sample (pinLevel pins i .capClosed)
    presentP := x.presentP.sample (pinLevel pins i (.present .p))
    latchedP := x.latchedP.sample (pinLevel pins i (.latched .p))
    leakP := x.leakP.sample (pinLevel pins i (.leak .p))
    presentC := x.presentC.sample (pinLevel pins i (.present .c))
    latchedC := x.latchedC.sample (pinLevel pins i (.latched .c))
    leakC := x.leakC.sample (pinLevel pins i (.leak .c)) }

/-- The places whose inputs are debounced: every place until the configuration is loaded, then 1 to K (R122). -/
def sampledPlaces (p : Part) : Nat :=
  match p.config with
  | none => 8
  | some c => c.ovenCount

/-- The 1 ms expiry: nothing while the dividers are stopped (R129, R144). -/
def millisecond (pins : Pins) (p : Part) : Part :=
  match p.dividers with
  | none => p
  | some n =>
      { p with
          dividers := some ((n + 1) % 1000)
          fls := { p.fls with
            inputs := p.fls.inputs.mapIdx fun i x => if i < sampledPlaces p then x.sample pins i else x } }

def execMillisecondExpiry (pins : Pins) (s : State) : Host.Outcome State Fault Refusal := s.update (millisecond pins)

/-! ## A level delivered to its owner (R122) -/

def confirmationOf : SwitchInput → Option Confirmation
  | .valveClosed => some .valveClosed
  | .capOpen => some .capOpen
  | .capClosed => some .capClosed
  | _ => none

/-- An offtake switch changes (R85 to R89). The levels are those after the change. -/
def offtakeSwitch (c : Configuration) (i : Nat) (which : Confirmation) (level : Bool) (p : Part) : Part :=
  match p.places[i]? with
  | none => p
  | some pl =>
      let lv := p.offtakeLevels i
      if level then tellOfftake c i (pl.offtake.confirm c lv which) none p
      else
        tellOfftake c i (pl.offtake.unconfirm which)
          (if pl.offtake.losesReached which then some which.alarm else none) p

/-- A door switch changes (R60, R66, R67). -/
def doorSwitch (c : Configuration) (i : Nat) (input : SwitchInput) (level : Bool) (p : Part) : Part :=
  match p.places[i]? with
  | none => p
  | some pl =>
      let ready := permitReady c p i
      match input with
      | .present side =>
          changeDoor c i side ((pl.door side).presentChange c ready (p.level i (.leak side)) level) p
      | .latched side =>
          changeDoor c i side ((pl.door side).latchedChange c ready (p.level i (.leak side)) level) p
      | .leak side => changeDoor c i side ((pl.door side).leakChange c level) p
      | _ => p

/-- Deliver a level change to the owner of the input (R122). -/
def deliver (c : Configuration) (i : Nat) (input : SwitchInput) (level : Bool) (p : Part) : Part :=
  match confirmationOf input with
  | some which => offtakeSwitch c i which level p
  | none => doorSwitch c i input level p

/-- The stability timer has expired: the debounced level is the pin's level, and the timer stops (R121, R122). -/
def Input.settle (x : Input) : Input := { x with level := x.pin, stability := .stopped }

/-- The stability timer of an input at a place counted from 0. A first level, and any level before the load, is not
delivered (R122). -/
def debounce (i : Nat) (input : SwitchInput) (p : Part) : Part :=
  match p.fls.inputs[i]? with
  | none => p
  | some x =>
      if (x.get input).stability.active then
        let settled := (x.get input).settle
        let stored := { p with fls := { p.fls with inputs := p.fls.inputs.modify i fun y => y.set input settled } }
        match p.config, (x.get input).level, settled.level with
        | some c, some _, some level => deliver c i input level stored
        | _, _, _ => stored
      else p

def execDebounceExpiry (place : Nat) (input : SwitchInput) (s : State) : Host.Outcome State Fault Refusal :=
  s.update fun p => if place = 0 then p else debounce (place - 1) input p

/-! ## Door spells (R66 to R68) -/

/-- A confirmed leak: SEALED becomes LEAKING (R66). -/
def leakExpires (c : Configuration) (side : Side) (i : Nat) (p : Part) : Part :=
  match p.places[i]? with
  | none => p
  | some pl =>
      let d := pl.door side
      if d.leakTimer.active = true ∧ d.state = .sealed then
        changeDoor c i side (d.enterLeaking c (p.level i (.leak side))) p
      else p

/-- A confirmed clear spell: LEAKING becomes SEALED (R67). -/
def clearExpires (c : Configuration) (side : Side) (i : Nat) (p : Part) : Part :=
  match p.places[i]? with
  | none => p
  | some pl =>
      let d := pl.door side
      if d.clearTimer.active = true ∧ d.state = .leaking then
        changeDoor c i side (d.enterSealed c (p.level i (.leak side))) p
      else p

/-- The leaking spell: reseal-wanted is set, the door stays LEAKING (R68). -/
def leakingSpellExpires (c : Configuration) (side : Side) (i : Nat) (p : Part) : Part :=
  match p.places[i]? with
  | none => p
  | some pl =>
      let d := pl.door side
      if d.leakingSpell.active then commitDoor c i side { d with leakingSpell := .stopped, resealWanted := true } p
      else p

/-- The sealed spell: reseal-wanted is cleared (R68). -/
def sealedSpellExpires (c : Configuration) (side : Side) (i : Nat) (p : Part) : Part :=
  match p.places[i]? with
  | none => p
  | some pl =>
      let d := pl.door side
      if d.sealedSpell.active then commitDoor c i side { d with sealedSpell := .stopped, resealWanted := false } p
      else p

def execLeakTimerExpiry (oven : Nat) (side : Side) (s : State) : Host.Outcome State Fault Refusal :=
  s.whenLoaded fun c p => withLocal c oven p fun i => leakExpires c side i p

def execClearTimerExpiry (oven : Nat) (side : Side) (s : State) : Host.Outcome State Fault Refusal :=
  s.whenLoaded fun c p => withLocal c oven p fun i => clearExpires c side i p

def execLeakingSpellExpiry (oven : Nat) (side : Side) (s : State) : Host.Outcome State Fault Refusal :=
  s.whenLoaded fun c p => withLocal c oven p fun i => leakingSpellExpires c side i p

def execSealedSpellExpiry (oven : Nat) (side : Side) (s : State) : Host.Outcome State Fault Refusal :=
  s.whenLoaded fun c p => withLocal c oven p fun i => sealedSpellExpires c side i p

/-! ## Offtake timers (R74, R88, R91) -/

/-- The valve motion timer: FAILED and VALVE_FAULT (R88). -/
def valveTimerExpires (c : Configuration) (i : Nat) (p : Part) : Part :=
  match p.places[i]? with
  | none => p
  | some pl =>
      if pl.offtake.valveTimer.active then
        tellOfftake c i { pl.offtake with valveTimer := .stopped, sub := some .failed } (some .valveFault) p
      else p

/-- The cap motion timer: FAILED and CAP_FAULT, with the report of the sequence (R87, R88). -/
def capTimerExpires (c : Configuration) (i : Nat) (p : Part) : Part :=
  match p.places[i]? with
  | none => p
  | some pl =>
      if pl.offtake.capTimer.active then
        tellOfftake c i { pl.offtake with capTimer := .stopped, sub := some .failed } (some .capFault) p
      else p

/-- The PRESSURE_HIGH timer (R74). -/
def highTimerExpires (c : Configuration) (i : Nat) (p : Part) : Part :=
  match p.places[i]? with
  | none => p
  | some pl =>
      if pl.offtake.highTimer.active then
        raiseOven c i .pressureHigh (commitOfftake i { pl.offtake with highTimer := .stopped } p)
      else p

/-- The aspirate hold ends: PI, or HOLD for a failed sensor (R91). -/
def aspirateHoldExpires (c : Configuration) (i : Nat) (p : Part) : Part :=
  match p.places[i]? with
  | none => p
  | some pl =>
      if pl.offtake.aspirateTimer.active then
        settleOfftake c i { pl.offtake.enterControl c with aspirateTimer := .stopped } p
      else p

def execValveMotionTimerExpiry (oven : Nat) (s : State) : Host.Outcome State Fault Refusal :=
  s.whenLoaded fun c p => withLocal c oven p fun i => valveTimerExpires c i p

def execCapMotionTimerExpiry (oven : Nat) (s : State) : Host.Outcome State Fault Refusal :=
  s.whenLoaded fun c p => withLocal c oven p fun i => capTimerExpires c i p

def execPressureHighTimerExpiry (oven : Nat) (s : State) : Host.Outcome State Fault Refusal :=
  s.whenLoaded fun c p => withLocal c oven p fun i => highTimerExpires c i p

def execAspirateHoldExpiry (oven : Nat) (s : State) : Host.Outcome State Fault Refusal :=
  s.whenLoaded fun c p => withLocal c oven p fun i => aspirateHoldExpires c i p

end Sys2Proof.Machine
end

