-- ==== Sys2Proof/Machine/Dispatch.lean ====
section
/-! DEFINITION. One arm per command, each a direct call of its meaning. -/

namespace Sys2Proof.Machine

open Sys2Proof

/-- The effect of a command on everything but the queue of commands. -/
def exec (i : Instr) (s : State) : Host.Outcome State Fault Refusal :=
  match i with
  | .minuteExpiry => Sys2Proof.Machine.execMinuteExpiry s
  | .pnlHold h oven => Sys2Proof.Machine.execPnlHold h oven s
  | .pnlRelease h oven => Sys2Proof.Machine.execPnlRelease h oven s
  | .pnlOut h oven => Sys2Proof.Machine.execPnlOut h oven s
  | .pnlIn h oven => Sys2Proof.Machine.execPnlIn h oven s
  | .pnlTarget h oven value => Sys2Proof.Machine.execPnlTarget h oven value s
  | .pnlDeclare h oven value phase => Sys2Proof.Machine.execPnlDeclare h oven value phase s
  | .pnlAbort h oven => Sys2Proof.Machine.execPnlAbort h oven s
  | .pnlClear h oven => Sys2Proof.Machine.execPnlClear h oven s
  | .cha h oven => Sys2Proof.Machine.execCha h oven s
  | .che h oven => Sys2Proof.Machine.execChe h oven s
  | .chargeLimitExpiry oven => Sys2Proof.Machine.execChargeLimitExpiry oven s
  | .evaluationExpiry backupLow => Sys2Proof.Machine.execEvaluationExpiry backupLow s
  | .bid h oven lateness => Sys2Proof.Machine.execBid h oven lateness s
  | .windowExpiry => Sys2Proof.Machine.execWindowExpiry s
  | .holdOffExpiry => Sys2Proof.Machine.execHoldOffExpiry s
  | .deferralExpiry => Sys2Proof.Machine.execDeferralExpiry s
  | .pas h oven => Sys2Proof.Machine.execPas h oven s
  | .rms h oven => Sys2Proof.Machine.execRms h oven s
  | .rmh h oven stroke => Sys2Proof.Machine.execRmh h oven stroke s
  | .prepareLimitExpiry => Sys2Proof.Machine.execPrepareLimitExpiry s
  | .armedLimitExpiry => Sys2Proof.Machine.execArmedLimitExpiry s
  | .permitTimerExpiry => Sys2Proof.Machine.execPermitTimerExpiry s
  | .rmhLimitExpiry => Sys2Proof.Machine.execRmhLimitExpiry s
  | .doorLimitExpiry => Sys2Proof.Machine.execDoorLimitExpiry s
  | .debounceExpiry place input => Sys2Proof.Machine.execDebounceExpiry place input s
  | .leakTimerExpiry oven side => Sys2Proof.Machine.execLeakTimerExpiry oven side s
  | .clearTimerExpiry oven side => Sys2Proof.Machine.execClearTimerExpiry oven side s
  | .leakingSpellExpiry oven side => Sys2Proof.Machine.execLeakingSpellExpiry oven side s
  | .sealedSpellExpiry oven side => Sys2Proof.Machine.execSealedSpellExpiry oven side s
  | .valveMotionTimerExpiry oven => Sys2Proof.Machine.execValveMotionTimerExpiry oven s
  | .capMotionTimerExpiry oven => Sys2Proof.Machine.execCapMotionTimerExpiry oven s
  | .pressureHighTimerExpiry oven => Sys2Proof.Machine.execPressureHighTimerExpiry oven s
  | .aspirateHoldExpiry oven => Sys2Proof.Machine.execAspirateHoldExpiry oven s
  | .quarterSecondExpiry => Sys2Proof.Machine.execQuarterSecondExpiry s
  | .transactionComplete first second => Sys2Proof.Machine.execTransactionComplete first second s
  | .channelByteNack => Sys2Proof.Machine.execChannelByteNack s
  | .addressNack => Sys2Proof.Machine.execAddressNack s
  | .clockHoldTimeout => Sys2Proof.Machine.execClockHoldTimeout s
  | .pwmPeriodEnd => Sys2Proof.Machine.execPwmPeriodEnd s
  | .qcr h orderId verdict reason => Sys2Proof.Machine.execQcr h orderId verdict reason s
  | .deadlineExpiry => Sys2Proof.Machine.execDeadlineExpiry s
  | .mst h position activity load aligned owner => Sys2Proof.Machine.execMst h position activity load aligned owner s
  | .machineViewFreshnessExpiry view => Sys2Proof.Machine.execMachineViewFreshnessExpiry view s
  | .ovs h oven stateWord lateness doors offtake pressure alarms => Sys2Proof.Machine.execOvs h oven stateWord lateness doors offtake pressure alarms s
  | .neighbourViewFreshnessExpiry view => Sys2Proof.Machine.execNeighbourViewFreshnessExpiry view s
  | .pdn h oven stroke unpermitted => Sys2Proof.Machine.execPdn h oven stroke unpermitted s
  | .scs h stage oven reason anchor count head alarms => Sys2Proof.Machine.execScs h stage oven reason anchor count head alarms s
  | .refreshTimerExpiry station => Sys2Proof.Machine.execRefreshTimerExpiry station s
  | .settleTimerExpiry => Sys2Proof.Machine.execSettleTimerExpiry s
  | .lineIdleAttempt => Sys2Proof.Machine.execLineIdleAttempt s
  | .lostContention urgency station => Sys2Proof.Machine.execLostContention urgency station s
  | .attemptSucceeded => Sys2Proof.Machine.execAttemptSucceeded s
  | .attemptFailed => Sys2Proof.Machine.execAttemptFailed s
  | .silentExpiry => Sys2Proof.Machine.execSilentExpiry s
  | .scsPeriodExpiry => Sys2Proof.Machine.execScsPeriodExpiry s
  | .configLoadComplete acked block backupLow => Sys2Proof.Machine.execConfigLoadComplete acked block backupLow s
  | .configLoadClockTimeout => Sys2Proof.Machine.execConfigLoadClockTimeout s
  | .configRetryExpiry => Sys2Proof.Machine.execConfigRetryExpiry s
  | .resetAsserted => Sys2Proof.Machine.execResetAsserted s
  | .resetReleased => Sys2Proof.Machine.execResetReleased s
  | .mainSupplyApplied => Sys2Proof.Machine.execMainSupplyApplied s
  | .mainSupplyLost => Sys2Proof.Machine.execMainSupplyLost s
  | .backupSupplyLost => Sys2Proof.Machine.execBackupSupplyLost s
  | .millisecondExpiry pins => Sys2Proof.Machine.execMillisecondExpiry pins s
  | .pwmCompareMatch place => Sys2Proof.Machine.execPwmCompareMatch place s

end Sys2Proof.Machine
end

