-- ==== Sys2Proof/Safety.lean ====
section
/-! DEFINITION. What counts as a sound part: the promises that rules make about the state as a whole, each kept by every
command. `Part.Sound` gathers them. -/

namespace Sys2Proof.Machine

open Sys2Proof

/-! ## The configuration (R147) -/

/-- The ranges and order tests that a loaded configuration has passed, as far as the promises below rest on them. -/
abbrev configInRange (c : Configuration) : Prop :=
  1 ≤ c.station ∧ c.station ≤ 63 ∧ 8 ≤ c.batteryOvens ∧ c.batteryOvens ≤ 120
    ∧ 1 ≤ c.firstOven ∧ 1 ≤ c.ovenCount ∧ c.ovenCount ≤ 8 ∧ c.firstOven + c.ovenCount - 1 ≤ c.batteryOvens
    ∧ 600 ≤ c.targetDefault ∧ c.targetDefault ≤ 2400
    ∧ c.uMin < c.uMax ∧ c.uMax ≤ 1000 ∧ c.uFail ≤ 1000 ∧ 30 ≤ c.quenchTime ∧ c.quenchTime ≤ 180

/-- One place per local oven in rising oven number while a configuration is loaded, none otherwise (R1, R148). -/
abbrev Part.PlacesSound (p : Part) : Prop :=
  (p.config = none → p.places = [])
    ∧ ∀ c ∈ p.config.toList, configInRange c ∧ p.places.length = c.ovenCount
        ∧ ∀ i < p.places.length, (p.places[i]?.map fun pl => pl.oven.number) = some (c.firstOven + i)

/-! ## Ages and targets (R1) -/

abbrev Retained.InRange (r : Retained) : Prop := r.age ≤ 4095 ∧ 600 ≤ r.target ∧ r.target ≤ 2400

/-- Every age lies in 0 to 4095 and every target in 600 to 2400, in the records and in the retained copy. -/
abbrev Part.AgesSound (p : Part) : Prop :=
  (∀ pl ∈ p.places, pl.oven.kept.InRange) ∧ (∀ r ∈ p.retained.records, r.InRange)

/-! ## Phases, charges and the push (R5, R13, R14, R38) -/

/-- The phases of the records, and of the retained copy. -/
def Part.phases (p : Part) : List Phase := p.places.map fun pl => pl.oven.kept.phase

def RetainedDomain.phases (r : RetainedDomain) : List Phase := r.records.map (·.phase)

/-- No two neighbours in a list of phases are both EMPTY, CHARGING or PUSHING (R5). -/
def noOpenNeighbours : List Phase → Bool
  | a :: b :: rest => !(a.isOpen && b.isOpen) && noOpenNeighbours (b :: rest)
  | _ => true

/-- An oven is in PUSHING exactly while it is the oven of the push context (R38), neighbours are not open together (R5),
a charge start in flight is of an EMPTY oven (R13), and CHP-pending and the charge limit are of a CHARGING one (R14,
R18). -/
abbrev Part.PhasesSound (p : Part) : Prop :=
  noOpenNeighbours p.phases = true ∧ noOpenNeighbours p.retained.phases = true
    ∧ (∀ pl ∈ p.places, (pl.oven.kept.phase = .pushing ↔ isContextOven p pl.oven.number = true))
    ∧ (∀ x ∈ p.psq.context.toList, ∃ pl ∈ p.places, pl.oven.number = x.oven)
    ∧ (∀ pl ∈ p.places, pl.oven.inFlight = true → pl.oven.kept.phase = .empty)
    ∧ (∀ pl ∈ p.places, pl.oven.chpPending = true → pl.oven.kept.phase = .charging)
    ∧ (∀ pl ∈ p.places, pl.oven.chargeLimit.active = true → pl.oven.kept.phase = .charging)

/-! ## The push context (R38) -/

/-- Which fields a stage allows: the ARMED limit runs just in ARMED, the permit only in ARMED, the RMH limit only in
PUSHING, the door limit only in CLOSING and RETURN, the abort reason just in RETURN, the PI request only in RETURN. -/
abbrev Context.Sound (x : Context) : Prop :=
  (x.armedLimit.active = true ↔ x.stage = .armed)
    ∧ (x.permit.active = true → x.stage = .armed)
    ∧ (x.rmhLimit.active = true → x.stage = .pushing)
    ∧ (x.doorLimit.active = true → x.stage = .closing ∨ x.stage = .returning)
    ∧ (x.prepareLimit ≠ .stopped → x.stage = .prepare ∨ x.stage = .armed)
    ∧ (x.reason.isSome = true ↔ x.stage = .returning)
    ∧ (x.piRequested = true → x.stage = .returning)
    ∧ (x.spotAwaited = true → x.spotDone = false)
    ∧ (x.stage = .armed → x.spotDone = true)

/-- The push context is sound, and the pending PDN list stands in rising oven number (R49). -/
abbrev Part.ContextSound (p : Part) : Prop :=
  (∀ x ∈ p.psq.context.toList, x.Sound) ∧ p.psq.pendingPdn.Pairwise fun a b => a.oven < b.oven

/-! ## Doors and permits (R59, R63) -/

/-- The present level a state stands for (R59). -/
def DoorState.presentLevel : DoorState → Bool
  | .sealed => true
  | .leaking => true
  | .released => true
  | .unlatched => true
  | .off => false
  | .fault => false

/-- The latched level a state stands for (R59). -/
def DoorState.latchedLevel : DoorState → Bool
  | .sealed => true
  | .leaking => true
  | .released => true
  | .unlatched => false
  | .off => false
  | .fault => true

/-- The state a door's record shows agrees with its levels, and the permit line is active just in RELEASED (R59). -/
abbrev Door.Agrees (d : Door) (present latched : Bool) : Prop :=
  (d.permit = true ↔ d.state = .released)
    ∧ present = d.state.presentLevel ∧ latched = d.state.latchedLevel
    ∧ (d.leakTimer.active = true → d.state = .sealed)
    ∧ (d.clearTimer.active = true → d.state = .leaking)
    ∧ (d.leakingSpell.active = true → d.state = .leaking)
    ∧ (d.sealedSpell.active = true → d.state = .sealed ∧ d.resealWanted = true)

/-- The nine inputs of a place. -/
def PlaceInputs.all (x : PlaceInputs) : List Input :=
  [x.valveClosed, x.capOpen, x.capClosed, x.presentP, x.latchedP, x.leakP, x.presentC, x.latchedC, x.leakC]

/-- A running stability timer times a level that has been sampled, and every input of a local oven has a debounced level
once the configuration is loaded (R121, R122). -/
abbrev Part.InputsSound (p : Part) : Prop :=
  p.fls.inputs.length = 8
    ∧ (∀ x ∈ p.fls.inputs, ∀ y ∈ x.all, y.stability.active = true → y.pin.isSome = true)
    ∧ ∀ c ∈ p.config.toList, c.ovenCount ≤ 8 ∧ p.places.length = c.ovenCount
        ∧ ∀ x ∈ p.fls.inputs.take c.ovenCount, ∀ y ∈ x.all, y.level.isSome = true

/-- Every door agrees with its switches, and an active permit line has every condition of R63. -/
abbrev Part.DoorsSound (p : Part) : Prop :=
  (p.config = none → p.places = [])
    ∧ ∀ c ∈ p.config.toList, ∀ i < p.places.length, ∀ pl ∈ p.places[i]?.toList,
        pl.doorP.Agrees (p.level i (.present .p)) (p.level i (.latched .p))
          ∧ pl.doorC.Agrees (p.level i (.present .c)) (p.level i (.latched .c))
          ∧ (pl.doorP.permit = true ∨ pl.doorC.permit = true → permitReady c p i = true)

/-! ## Offtakes (R71, R79, R83, R124) -/

/-- The mode fixes the valve and the cap (R83), the fields hold their ranges and stand only in the modes that have them
(R71), and a running sequence waits for one confirmation (R85 to R88). -/
abbrev Offtake.Sound (c : Configuration) (o : Offtake) : Prop :=
  (o.mode = .pi → c.uMin ≤ o.valve ∧ o.valve ≤ c.uMax)
    ∧ (o.mode = .aspirate → o.valve = 1000)
    ∧ (o.mode = .isolate → o.valve = 0)
    ∧ (o.mode = .hold → o.valve = c.uFail)
    ∧ (o.capOpen = true → o.mode = .isolate)
    ∧ (o.sub.isSome = true ↔ o.mode = .isolate ∨ o.mode = .aspirate)
    ∧ (o.next.isSome = true → o.mode = .isolate)
    ∧ (o.awaits.isSome = true → o.mode = .isolate)
    ∧ (o.awaits = some .capClosed → o.capOpen = false)
    ∧ (o.entryPending = true → o.mode = .pi)
    ∧ (o.highTimer.active = true → o.mode = .pi)
    ∧ (o.valveTimer.active = true → o.awaits = some .valveClosed ∧ o.sub = some .moving)
    ∧ (o.capTimer.active = true → (o.awaits = some .capOpen ∨ o.awaits = some .capClosed) ∧ o.sub = some .moving)
    ∧ o.acc ≤ 64000 ∧ o.invalidCount ≤ 3 ∧ o.validCount ≤ 4
    ∧ (∀ v ∈ o.pressure.toList, -1000 ≤ v ∧ v ≤ 1000)

/-- Every offtake is sound, and its valve command stands in its channel's compare buffer (R71, R80). -/
abbrev Part.OfftakesSound (p : Part) : Prop :=
  (p.config = none → p.places = [])
    ∧ ∀ c ∈ p.config.toList, c.uMin < c.uMax ∧ c.uMax ≤ 1000 ∧ c.ovenCount ≤ 8
        ∧ ∀ i < p.places.length, ∀ pl ∈ p.places[i]?.toList,
            pl.offtake.Sound c ∧ (p.fls.channels[i]?.map fun ch => ch.buffered) = some pl.offtake.valve

/-! ## Bids (R25) -/

abbrev Bsu.Sound (b : Bsu) : Prop :=
  (b.round = .bidding ↔ b.record.isSome = true)
    ∧ (b.round ≠ .bidding → b.rivals = [])
    ∧ b.rivals.length ≤ 8 ∧ (b.rivals.map (·.station)).Nodup
    ∧ (b.round = .deferring ↔ b.deferral.active = true)
    ∧ (b.round = .deferring ↔ b.deferredTo.isSome = true)

/-! ## Car orders (R94, R95, R97) -/

/-- At most four orders; behind the head every order is QUEUED, not offered and untimed; a deadline runs just in SENT and
ACCEPTED; ids lie in 1 to 255; only a SPOT owes an outcome. -/
abbrev Qou.Sound (q : Qou) : Prop :=
  q.orders.length ≤ 4
    ∧ (∀ o ∈ q.orders.tail, o.state = .queued ∧ o.offered = false)
    ∧ (∀ o ∈ q.orders, o.deadline.active = true ↔ o.state ≠ .queued)
    ∧ (∀ o ∈ q.orders, 1 ≤ o.id ∧ o.id ≤ 255)
    ∧ (∀ o ∈ q.orders, o.owed = true → o.kind.owesOutcome = true)
    ∧ 1 ≤ q.nextId ∧ q.nextId ≤ 255

/-! ## The peer activity list (R116) -/

/-- At most eight entries, no station twice, never the own station, every timer running. -/
abbrev Part.PeersSound (p : Part) : Prop :=
  p.lvt.peers.length ≤ 8 ∧ (p.lvt.peers.map (·.station)).Nodup
    ∧ (∀ e ∈ p.lvt.peers, e.refresh.active = true)
    ∧ (∀ c ∈ p.config.toList, ∀ e ∈ p.lvt.peers, e.station ≠ c.station)

/-! ## The transmit queue (R132, R135) -/

/-- x stands before y: more urgent, or equally urgent and offered before. -/
abbrev TxEntry.before (x y : TxEntry) : Prop :=
  x.kind.urgency < y.kind.urgency ∨ (x.kind.urgency = y.kind.urgency ∧ x.offerTime < y.offerTime)

/-- At most eight telegrams in order, never two of one kind and subject; the failed attempt count is 0 to 32, and 32 just
while silent, when no attempt is on the line. -/
abbrev Bli.Sound (b : Bli) : Prop :=
  b.queue.length ≤ 8
    ∧ b.queue.Pairwise TxEntry.before
    ∧ b.queue.Pairwise (fun x y => ¬(x.kind = y.kind ∧ x.subject = y.subject))
    ∧ (∀ e ∈ b.queue, e.offerTime < b.offerClock)
    ∧ b.failed ≤ 32
    ∧ (b.silent.active = false → b.failed < 32)
    ∧ (b.attempt.isSome = true → b.silent.active = false)

/-! ## The relay (R123, R141) -/

/-- The relay follows the decision once a configuration is loaded, and is active before that while the part has its
supply. -/
abbrev Part.RelaySound (p : Part) : Prop :=
  (p.config = none → p.mainOn = true → p.asr.relay = true)
    ∧ ∀ c ∈ p.config.toList,
        p.asr.relay = relayDecision c p.places p.asr.station p.asr.configFault ∧ p.asr.configFault = false

/-! ## The scan and the channels (R122, R124, R125) -/

abbrev Part.FieldLinesSound (p : Part) : Prop :=
  p.fls.inputs.length = 8 ∧ p.fls.channels.length = 8 ∧ p.fls.pwmCount < 1000
    ∧ (∀ ch ∈ p.fls.channels, ch.applied ≤ 1000 ∧ ch.buffered ≤ 1000)
    ∧ p.fls.scan.nackCount ≤ 3
    ∧ (p.fls.scan.running = true → ∃ c ∈ p.config.toList, 1 ≤ p.fls.scan.place ∧ p.fls.scan.place ≤ c.ovenCount)

/-! ## What a command about one oven leaves alone -/

/-- The number of the oven at a place. -/
def Part.numberAt (p : Part) (i : Nat) : Option Nat := p.places[i]?.map fun pl => pl.oven.number

/-- The queue entries that are not about the oven at a place. -/
def Part.otherEntries (p : Part) (i : Nat) (queue : List TxEntry) : List TxEntry :=
  queue.filter fun e => decide (∀ n ∈ (p.numberAt i).toList, e.subject ≠ .oven n)

/-- Only the records of the oven at place `i`, its valve's compare buffer, queue entries about that oven and the relay
may differ between two parts. -/
structure OvenOnly (i : Nat) (p q : Part) : Prop where
  number : q.numberAt i = p.numberAt i
  places : ∀ j, j ≠ i → q.places[j]? = p.places[j]?
  channels : ∀ j, j ≠ i → q.fls.channels[j]? = p.fls.channels[j]?
  entries : p.otherEntries i q.bli.queue = p.otherEntries i p.bli.queue
  rest : q = { p with
    places := q.places
    bli := { p.bli with queue := q.bli.queue, attempt := q.bli.attempt, offerClock := q.bli.offerClock }
    fls := { p.fls with channels := q.fls.channels }
    asr := { p.asr with relay := q.asr.relay } }

/-- As `OvenOnly`, but the push context, the car orders and the queue entries of any subject may differ too. -/
structure PushOnly (i : Nat) (p q : Part) : Prop where
  number : q.numberAt i = p.numberAt i
  places : ∀ j, j ≠ i → q.places[j]? = p.places[j]?
  channels : ∀ j, j ≠ i → q.fls.channels[j]? = p.fls.channels[j]?
  rest : q = { p with
    places := q.places
    psq := q.psq
    qou := q.qou
    bli := { p.bli with queue := q.bli.queue, attempt := q.bli.attempt, offerClock := q.bli.offerClock }
    fls := { p.fls with channels := q.fls.channels }
    asr := { p.asr with relay := q.asr.relay } }

/-! ## The words of the claims -/

/-- The command answers the next state that has the part `q` and the queue of commands as it was. -/
abbrev State.Runs (s : State) (i : Instr) (q : Part) : Prop := exec i s = .next { s with part := q }

/-- The command is taken without any effect. -/
abbrev State.Ignores (s : State) (i : Instr) : Prop := exec i s = .next s

/-- `pl` is the place of the local oven `n` of a part loaded with `c`. -/
abbrev State.HasOven (s : State) (c : Configuration) (n i : Nat) (pl : Place) : Prop :=
  s.part.config = some c ∧ placeOf c n = some i ∧ s.part.places[i]? = some pl ∧ pl.oven.number = n

/-- The push context is not of the oven `n`. -/
abbrev State.NoPushOf (s : State) (n : Nat) : Prop := isContextOven s.part n = false

/-- The doors of a place, none of them RELEASED, are as they were. -/
abbrev Place.KeepsDoors (pl pl' : Place) : Prop :=
  pl.doorP.state ≠ .released → pl.doorC.state ≠ .released → pl'.doorP = pl.doorP ∧ pl'.doorC = pl.doorC

/-- The input's 50 ms spell is over: its pin holds `v`, its debounced level does not yet. -/
abbrev State.Spell (s : State) (i : Nat) (input : SwitchInput) (v : Bool) : Prop :=
  ∃ x, s.part.fls.inputs[i]? = some x ∧ (x.get input).stability.active = true ∧ (x.get input).pin = some v
    ∧ (x.get input).level = some (!v)

/-- The part with the debounced level of an input set and its stability timer stopped (R121). -/
def Part.withLevel (p : Part) (i : Nat) (input : SwitchInput) (v : Bool) : Part :=
  { p with fls := { p.fls with
      inputs := p.fls.inputs.modify i fun y => y.set input { pin := some v, level := some v, stability := .stopped } } }

/-- The part with the scan at another place (R126). -/
def Part.scanAt (p : Part) (c : Configuration) (place : Nat) : Part :=
  { p with fls := { p.fls with scan := { p.fls.scan with place := place }, port := transactionSteps c place } }

/-! ## All of them -/

abbrev Part.Sound (p : Part) : Prop :=
  p.PlacesSound ∧ p.AgesSound ∧ p.PhasesSound ∧ p.ContextSound ∧ p.DoorsSound ∧ p.OfftakesSound ∧ p.bsu.Sound
    ∧ p.qou.Sound ∧ p.InputsSound ∧ p.PeersSound ∧ p.bli.Sound ∧ p.RelaySound ∧ p.FieldLinesSound

end Sys2Proof.Machine
end

