-- ==== Sys2Proof/WellFormed.lean ====
section
/-! DEFINITION. What the outside can put into a command: ranges that R121, R130 and R147 give the operands.
An ill-formed command is no fault: its meaning is total (log 8). -/

namespace Sys2Proof

/-- The sender's arbitration field: urgency 0 to 15, station 1 to 63 (R130, R150). -/
abbrev Header.WellFormed (h : Header) : Prop :=
  h.urgency.toNat ≤ 15 ∧ 1 ≤ h.station.toNat ∧ h.station.toNat ≤ 63

/-- A battery oven number, 1 to 120 (file 00, Numbering). -/
abbrev wellFormedOven (oven : Nat) : Prop := 1 ≤ oven ∧ oven ≤ 120

/-- A place of the package, 1 to 8 (R122, R124). -/
abbrev wellFormedPlace (place : Nat) : Prop := 1 ≤ place ∧ place ≤ 8

/-- The check of each command's operands. -/
abbrev Instr.WellFormed : Instr → Prop
  | .minuteExpiry => True
  | .pnlHold h _ => h.WellFormed
  | .pnlRelease h _ => h.WellFormed
  | .pnlOut h _ => h.WellFormed
  | .pnlIn h _ => h.WellFormed
  | .pnlTarget h _ _ => h.WellFormed
  | .pnlDeclare h _ _ _ => h.WellFormed
  | .pnlAbort h _ => h.WellFormed
  | .pnlClear h _ => h.WellFormed
  | .cha h _ => h.WellFormed
  | .che h _ => h.WellFormed
  | .chargeLimitExpiry oven => wellFormedOven oven
  | .evaluationExpiry _ => True
  | .bid h _ _ => h.WellFormed
  | .windowExpiry => True
  | .holdOffExpiry => True
  | .deferralExpiry => True
  | .pas h _ => h.WellFormed
  | .rms h _ => h.WellFormed
  | .rmh h _ _ => h.WellFormed
  | .prepareLimitExpiry => True
  | .armedLimitExpiry => True
  | .permitTimerExpiry => True
  | .rmhLimitExpiry => True
  | .doorLimitExpiry => True
  | .debounceExpiry place _ => wellFormedPlace place
  | .leakTimerExpiry oven _ => wellFormedOven oven
  | .clearTimerExpiry oven _ => wellFormedOven oven
  | .leakingSpellExpiry oven _ => wellFormedOven oven
  | .sealedSpellExpiry oven _ => wellFormedOven oven
  | .valveMotionTimerExpiry oven => wellFormedOven oven
  | .capMotionTimerExpiry oven => wellFormedOven oven
  | .pressureHighTimerExpiry oven => wellFormedOven oven
  | .aspirateHoldExpiry oven => wellFormedOven oven
  | .quarterSecondExpiry => True
  | .transactionComplete _ _ => True
  | .channelByteNack => True
  | .addressNack => True
  | .clockHoldTimeout => True
  | .pwmPeriodEnd => True
  | .qcr h _ _ _ => h.WellFormed
  | .deadlineExpiry => True
  | .mst h _ _ _ _ _ => h.WellFormed
  | .machineViewFreshnessExpiry _ => True
  | .ovs h _ _ _ _ _ _ _ => h.WellFormed
  | .neighbourViewFreshnessExpiry _ => True
  | .pdn h _ _ _ => h.WellFormed
  | .scs h _ _ _ _ _ _ _ => h.WellFormed
  | .refreshTimerExpiry station => 1 ≤ station ∧ station ≤ 63
  | .settleTimerExpiry => True
  | .lineIdleAttempt => True
  | .lostContention urgency station =>
      urgency.toNat ≤ 15 ∧ 1 ≤ station.toNat ∧ station.toNat ≤ 63
  | .attemptSucceeded => True
  | .attemptFailed => True
  | .silentExpiry => True
  | .scsPeriodExpiry => True
  | .configLoadComplete _ block _ => block.length = 86
  | .configLoadClockTimeout => True
  | .configRetryExpiry => True
  | .resetAsserted => True
  | .resetReleased => True
  | .mainSupplyApplied => True
  | .mainSupplyLost => True
  | .backupSupplyLost => True
  | .millisecondExpiry _ => True
  | .pwmCompareMatch place => wellFormedPlace place

end Sys2Proof
end

