-- ==== Sys2Proof/Certificates/Slice0/Obligations.lean ====
section
/-! DEFINITION. The statements for the provers. -/

open Sys2Proof Sys2Proof.Machine

/-! ## The machine as a whole -/

/-- A step takes the command at the front of the queue and runs it with the queue's rest; with no command waiting the part
idles, which is the model's choice (log 19). -/
def Obligations.StepRunsTheFrontCommand : Prop :=
  (∀ (i : Instr) (rest : List Instr) (s : State),
      s.pending = i :: rest → step s = exec i { s with pending := rest })
    ∧ ∀ s : State, s.pending = [] → step s = .next s

/-- The commands that reach a part without a configuration: time, pins, the load, the supplies and the reset line. -/
def Claims.reachesUnloaded : Instr → Bool
  | .minuteExpiry => true
  | .debounceExpiry _ _ => true
  | .millisecondExpiry _ => true
  | .pwmPeriodEnd => true
  | .pwmCompareMatch _ => true
  | .configLoadComplete _ _ _ => true
  | .configLoadClockTimeout => true
  | .configRetryExpiry => true
  | .resetAsserted => true
  | .resetReleased => true
  | .mainSupplyApplied => true
  | .mainSupplyLost => true
  | .backupSupplyLost => true
  | _ => false

/-- The stations a kind is taken from (R136, step 4); the receivers of the other kinds look at the station themselves. -/
def Claims.senderOf (c : Configuration) : Kind → Nat → Prop
  | .cha, n => n = c.chargerStation
  | .che, n => n = c.chargerStation
  | .pas, n => n = c.pusherStation
  | .rms, n => n = c.pusherStation
  | .rmh, n => n = c.pusherStation
  | .qcr, n => n = c.carStation
  | .pnl, n => n ≠ 0 ∧ n ∈ c.panelStations
  | _, _ => True

/-- Every command, in every state, answers a next state and leaves the queue of commands (log 1). Without a configuration all
but time, pins, the load, the supplies and the reset line do nothing (R138, R148); with one, a telegram with a bad check, from
the own station or from a station its kind is not taken from does nothing (R136). -/
def Obligations.CommandsAnswerOrAreIgnored : Prop :=
  (∀ (i : Instr) (s : State), ∃ q, s.Runs i q)
    ∧ (∀ (i : Instr) (s : State), s.part.config = none → Claims.reachesUnloaded i = false → s.Ignores i)
    ∧ ∀ (i : Instr) (s : State) (c : Configuration) (h : Header) (k : Kind) (payload : List Byte),
        payloadOfCommand i = some (h, k, payload) → s.part.config = some c →
        h.checkGood = false ∨ h.station.toNat = c.station ∨ ¬Claims.senderOf c k h.station.toNat → s.Ignores i

/-- A telegram's frame, read back, gives the telegram. -/
def Obligations.FramesReadBack : Prop :=
  ∀ (i : Instr) (frame : List Byte), i.WellFormed → encodeFrame i = some frame → decodeFrame frame = some i

/-! ## Invariants -/

/-- Every step keeps the transmit queue in order, at most eight telegrams of distinct items, and the failed attempt count
in 0 to 32 (R132, R135). -/
def Obligations.QueueStaysOrdered : Prop :=
  ∀ s t : State, s.part.bli.Sound → step s = .next t → t.part.bli.Sound

/-- Every step keeps the car order list: at most four orders, only the head offered, SENT or ACCEPTED (R94). -/
def Obligations.CarOrdersStayInLine : Prop :=
  ∀ s t : State, s.part.qou.Sound → step s = .next t → t.part.qou.Sound

/-- Every step keeps each valve command at what its mode fixes, the accumulator in 0 to 64000, and the command in the
channel's compare buffer (R71, R79, R83). -/
def Obligations.OfftakesFollowTheirMode : Prop :=
  ∀ s t : State, s.part.PlacesSound → s.part.OfftakesSound → step s = .next t → t.part.OfftakesSound

/-- Every step keeps neighbours from being open together (R5), PUSHING to the oven of the push context (R38), and the
charge fields to the phases that have them (R13, R14, R18). -/
def Obligations.PushingIsTheContextOven : Prop :=
  ∀ s t : State, s.part.PlacesSound → s.part.PhasesSound → step s = .next t → t.part.PhasesSound

/-- Every step keeps the fields of the push context to the stages that allow them (R38), and the pending PDN list in rising oven
number (R49). -/
def Obligations.StagesKeepTheirFields : Prop :=
  ∀ s t : State, s.part.ContextSound → step s = .next t → t.part.ContextSound

/-- Every step keeps each door's state in agreement with its switches (R59), and a permit line active only while the push
context is in PREPARE or ARMED for its oven, the offtake is ISOLATE REACHED and the latest sample is valid and at or below
permit_max (R63). -/
def Obligations.PermitNeedsEveryCondition : Prop :=
  ∀ s t : State, s.part.PlacesSound → s.part.InputsSound → s.part.DoorsSound → step s = .next t →
    t.part.DoorsSound

/-- Every step keeps the inputs: a running stability timer times a sampled pin, and local inputs have levels (R121, R122);
and it keeps eight input places and eight channels, the count below 1000, every compare at most 1000, the address-NACK count
at most 3 and a running scan at a place of 1 to K (R124 to R127). -/
def Obligations.FieldLinesStayInRange : Prop :=
  ∀ s t : State, s.part.PlacesSound → s.part.InputsSound → step s = .next t →
    t.part.InputsSound ∧ (s.part.OfftakesSound → s.part.FieldLinesSound → t.part.FieldLinesSound)

/-- Every step keeps one place per local oven, numbered F to F + K - 1, while a configuration is loaded (R1, R148), every age
in 0 to 4095 and every target in 600 to 2400, in the records and in the retained copy (R1, R145). -/
def Obligations.PlacesAndAgesStayInRange : Prop :=
  ∀ s t : State, s.part.PlacesSound → step s = .next t →
    t.part.PlacesSound ∧ (s.part.AgesSound → t.part.AgesSound)

/-- Every step keeps the round state with its record, rivals and deferral (R25), and the peer activity list at eight
stations or fewer, none twice, never the own one (R116). -/
def Obligations.RoundsAndPeersStayInOrder : Prop :=
  ∀ s t : State, step s = .next t →
    (s.part.bsu.Sound → t.part.bsu.Sound) ∧ (s.part.PeersSound → t.part.PeersSound)

/-- Every step keeps the relay at the decision of R141 while a configuration is loaded, and active before that (R123). -/
def Obligations.RelayFollowsTheDecision : Prop :=
  ∀ s t : State, s.part.RelaySound → step s = .next t → t.part.RelaySound

/-- The part right after reset keeps every invariant; it has no records, the port reads the configuration memory, the
dividers run from zero, no telegram is queued, every output is inactive and the relay active (R122, R124, R129, R138,
R144, R147). The supplies and the retained domain (log 4) and what the blocks hold before the load (log 31) are the model's choice. -/
def Obligations.ResetIsSound : Prop :=
  State.reset.part.Sound
    ∧ State.reset.pending = [] ∧ State.reset.part.load = .reading ∧ State.reset.part.dividers = some 0
    ∧ State.reset.part.places = [] ∧ State.reset.part.bli.queue = [] ∧ State.reset.part.psq.context = none
    ∧ State.reset.part.qou.orders = [] ∧ State.reset.part.asr.relay = true
    ∧ State.reset.part.fls.port = [.start, .write 0x56, .byte 0, .repeatedStart, .read 0x56]
        ++ List.replicate 85 .readAck ++ [.readNack, .stop]
    ∧ ∀ i side, State.reset.part.permitPin i side = false ∧ State.reset.part.capPin i = false
        ∧ State.reset.part.valvePin i = false

/-- The commands that stop or start the part. -/
def Claims.startsOrStops : Instr → Bool
  | .configLoadComplete _ _ _ => true
  | .resetAsserted => true
  | .resetReleased => true
  | .mainSupplyApplied => true
  | .mainSupplyLost => true
  | _ => false

/-- An offer to the transmit queue replaces the same item in place, marking an attempt of that item on the line as replaced,
joins a queue with room, or is refused by eight entries (R133). -/
def Obligations.OffersAreTakenByTheQueue : Prop :=
  ∀ (b : Bli) (k : Kind) (sub : Subject) (payload : List Byte), b.Sound →
    ((∃ e ∈ b.queue, e.kind = k ∧ e.subject = sub) →
      (b.offer k sub payload).2 = true
        ∧ (b.offer k sub payload).1.queue.map (fun e => (e.kind, e.subject, e.offerTime))
            = b.queue.map (fun e => (e.kind, e.subject, e.offerTime))
        ∧ (∀ e ∈ (b.offer k sub payload).1.queue, e.kind = k → e.subject = sub → e.payload = payload)
        ∧ (∀ e ∈ (b.offer k sub payload).1.queue, ¬(e.kind = k ∧ e.subject = sub) → e ∈ b.queue)
        ∧ (b.offer k sub payload).1.attempt
            = b.attempt.map fun a => if a.kind = k ∧ a.subject = sub then { a with replaced := true } else a)
    ∧ ((∀ e ∈ b.queue, ¬(e.kind = k ∧ e.subject = sub)) → b.queue.length < 8 →
      (b.offer k sub payload).2 = true ∧ (b.offer k sub payload).1.attempt = b.attempt
        ∧ ∃ before after, b.queue = before ++ after
            ∧ (b.offer k sub payload).1.queue = before ++ ⟨k, sub, payload, b.offerClock⟩ :: after
            ∧ (∀ e ∈ before, e.kind.urgency ≤ k.urgency) ∧ (∀ e ∈ after, k.urgency < e.kind.urgency))
    ∧ ((∀ e ∈ b.queue, ¬(e.kind = k ∧ e.subject = sub)) → b.queue.length = 8 →
      b.offer k sub payload = (b, false))

/-! ## The oven cycle -/

/-- A retained record one minute on, without and with the threshold test (R2, R145). -/
def Claims.older (r : Retained) : Retained :=
  if r.phase = .coking ∨ r.phase = .ready then { r with age := min 4095 (r.age + 1) } else r

def Claims.minuteOlder (c : Configuration) (r : Retained) : Retained :=
  if r.phase = .coking ∧ (r.target : Int) - (c.earlyMargin : Int) ≤ ((Claims.older r).age : Int) then
    { Claims.older r with phase := .ready }
  else Claims.older r

/-- OVERDUE stands in a place's alarm set just when it is READY and late enough (R4). -/
def Claims.overdueIsRight (c : Configuration) (pl : Place) : Prop :=
  hasOven pl.oven.alarms .overdue = true ↔
    pl.oven.kept.phase = .ready ∧ (c.overdueAfter : Int) ≤ (pl.oven.kept.age : Int) - (pl.oven.kept.target : Int)

/-- The minute expiry ages COKING and READY ovens by one, makes a COKING oven at its threshold READY, evaluates OVERDUE,
and without records ages the retained copy and nothing else (R2, R4, R145). -/
def Obligations.MinuteAgesTheOvens : Prop :=
  ∀ s : State,
    (∀ c, s.part.config = some c →
      ∃ q, s.Runs .minuteExpiry q
        ∧ q.places.map (fun pl => pl.oven.kept) = s.part.places.map (fun pl => Claims.minuteOlder c pl.oven.kept)
        ∧ (∀ pl ∈ q.places, Claims.overdueIsRight c pl)
        ∧ q.psq = s.part.psq ∧ q.qou = s.part.qou ∧ q.bsu = s.part.bsu ∧ q.lvt = s.part.lvt
        ∧ q.retained = s.part.retained ∧ q.fls.inputs = s.part.fls.inputs ∧ q.fls.scan = s.part.fls.scan
        ∧ q.asr.station = s.part.asr.station)
    ∧ (s.part.config = none →
      s.Runs .minuteExpiry
        { s.part with retained := { s.part.retained with records := s.part.retained.records.map Claims.older } })

/-- HOLD sets the hold flag and RELEASE clears it, in every phase, and neither touches anything else but the OVS offer
(R7). -/
def Obligations.HoldAndReleaseSetTheFlag : Prop :=
  ∀ (s : State) (c : Configuration) (h : Header) (oven : Byte) (i : Nat) (pl : Place) (b : Bool),
    isFromPanel h c = true → s.HasOven c oven.toNat i pl →
    ∃ q, s.Runs (if b then .pnlHold h oven else .pnlRelease h oven) q
      ∧ q.places[i]? = some { pl with oven := { pl.oven with kept := { pl.oven.kept with hold := b } } }
      ∧ OvenOnly i s.part q ∧ q.fls = s.part.fls ∧ q.asr = s.part.asr

/-- Panel OUT takes an EMPTY or UNKNOWN oven out of the series, with its hold flag cleared and its offtake toward ISOLATE,
cancels a charge start in flight, and is ignored in every other phase (R8, R16). -/
def Obligations.PanelOutTakesTheOvenOut : Prop :=
  ∀ (s : State) (c : Configuration) (h : Header) (oven : Byte) (i : Nat) (pl : Place),
    isFromPanel h c = true → s.HasOven c oven.toNat i pl →
    ((pl.oven.kept.phase = .empty ∨ pl.oven.kept.phase = .unknown) → s.NoPushOf oven.toNat →
      ∃ q pl', s.Runs (.pnlOut h oven) q ∧ q.places[i]? = some pl'
        ∧ pl'.oven.kept = { pl.oven.kept with phase := .out, hold := false }
        ∧ pl'.offtake.mode = .isolate ∧ pl'.offtake.next = none
        ∧ (pl.oven.kept.phase = .empty → pl'.oven.inFlight = false)
        ∧ pl.KeepsDoors pl' ∧ OvenOnly i s.part q)
    ∧ (pl.oven.kept.phase ≠ .empty → pl.oven.kept.phase ≠ .unknown → s.Ignores (.pnlOut h oven))

/-- Panel IN makes an OUT oven EMPTY when no battery neighbour is EMPTY, CHARGING or PUSHING, judged by the record of a local
neighbour and by a fresh view of one outside, and is ignored otherwise (R9). -/
def Obligations.PanelInTestsTheNeighbours : Prop :=
  ∀ (s : State) (c : Configuration) (h : Header) (oven : Byte) (i : Nat) (pl : Place),
    isFromPanel h c = true → s.HasOven c oven.toNat i pl → s.part.PlacesSound →
    let closed (ph : Phase) : Prop := ph ≠ .empty ∧ ph ≠ .charging ∧ ph ≠ .pushing
    let localPasses (n : Nat) : Prop := ∃ x ∈ s.part.places, x.oven.number = n ∧ closed x.oven.kept.phase
    let viewPasses (v : Option NeighbourView) : Prop := ∃ x, v = some x ∧ x.fresh.active = true ∧ closed x.phase
    let below : Prop := oven.toNat = 1
      ∨ (oven.toNat ≠ c.firstOven ∧ localPasses (oven.toNat - 1))
      ∨ (oven.toNat = c.firstOven ∧ viewPasses s.part.lvt.lower)
    let above : Prop := oven.toNat = c.batteryOvens
      ∨ (oven.toNat + 1 ≠ c.firstOven + c.ovenCount ∧ localPasses (oven.toNat + 1))
      ∨ (oven.toNat + 1 = c.firstOven + c.ovenCount ∧ viewPasses s.part.lvt.upper)
    (pl.oven.kept.phase = .out → below → above → s.NoPushOf oven.toNat →
      ∃ q pl', s.Runs (.pnlIn h oven) q ∧ q.places[i]? = some pl'
        ∧ pl'.oven.kept = { pl.oven.kept with phase := .empty } ∧ pl.KeepsDoors pl' ∧ OvenOnly i s.part q)
    ∧ (¬(pl.oven.kept.phase = .out ∧ below ∧ above) → s.Ignores (.pnlIn h oven))

/-- The phase by age of a record (R3). -/
def Claims.byAge (c : Configuration) (r : Retained) : Phase :=
  if (r.target : Int) - (c.earlyMargin : Int) ≤ (r.age : Int) then .ready else .coking

/-- TARGET sets the target, clamped to 600 to 2400, sets a COKING or READY oven by its age, and evaluates OVERDUE (R3, R4,
R10). -/
def Obligations.PanelTargetSetsByAge : Prop :=
  ∀ (s : State) (c : Configuration) (h : Header) (oven : Byte) (value : Word16) (i : Nat) (pl : Place),
    isFromPanel h c = true → s.HasOven c oven.toNat i pl →
    ∃ q pl', s.Runs (.pnlTarget h oven value) q ∧ q.places[i]? = some pl'
      ∧ (let r := { pl.oven.kept with target := max 600 (min 2400 value.toNat) }
         pl'.oven.kept =
          if pl.oven.kept.phase = .coking ∨ pl.oven.kept.phase = .ready then { r with phase := Claims.byAge c r } else r)
      ∧ Claims.overdueIsRight c pl' ∧ (s.NoPushOf oven.toNat → pl.KeepsDoors pl') ∧ OvenOnly i s.part q

/-- DECLARE is taken from UNKNOWN alone: COKING sets the clamped age and the phase by it, OUT takes the oven out, and any
other phase value is ignored (R11). -/
def Obligations.PanelDeclareFromUnknown : Prop :=
  ∀ (s : State) (c : Configuration) (h : Header) (oven : Byte) (value : Word16) (phase : Byte) (i : Nat) (pl : Place),
    isFromPanel h c = true → s.HasOven c oven.toNat i pl →
    (pl.oven.kept.phase = .unknown → phase = 3 → s.NoPushOf oven.toNat →
      ∃ q pl', s.Runs (.pnlDeclare h oven value phase) q ∧ q.places[i]? = some pl'
        ∧ (let r := { pl.oven.kept with age := min 4095 value.toNat }
           pl'.oven.kept = { r with phase := Claims.byAge c r })
        ∧ Claims.overdueIsRight c pl' ∧ pl.KeepsDoors pl' ∧ OvenOnly i s.part q)
    ∧ (pl.oven.kept.phase = .unknown → phase = 6 → s.NoPushOf oven.toNat →
      ∃ q pl', s.Runs (.pnlDeclare h oven value phase) q ∧ q.places[i]? = some pl'
        ∧ pl'.oven.kept = { pl.oven.kept with phase := .out, hold := false }
        ∧ pl'.offtake.mode = .isolate ∧ pl'.offtake.next = none ∧ pl.KeepsDoors pl' ∧ OvenOnly i s.part q)
    ∧ (¬(pl.oven.kept.phase = .unknown ∧ (phase = 3 ∨ phase = 6)) → s.Ignores (.pnlDeclare h oven value phase))

/-- CLEAR for a local oven clears its latched alarms, for oven 0 those of the station, and leaves every level alarm; for any
other oven it is ignored (R139, R140). -/
def Obligations.PanelClearLeavesLevelAlarms : Prop :=
  ∀ (s : State) (c : Configuration) (h : Header) (oven : Byte),
    isFromPanel h c = true → s.part.config = some c →
    (∀ i pl, s.HasOven c oven.toNat i pl → oven ≠ 0 →
      ∃ q, s.Runs (.pnlClear h oven) q
        ∧ q.places[i]? = some { pl with oven := { pl.oven with alarms := pl.oven.alarms &&& 0x10C3 } }
        ∧ OvenOnly i s.part q ∧ q.fls = s.part.fls)
    ∧ (oven = 0 →
      s.Runs (.pnlClear h oven) { s.part with asr := { s.part.asr with
        station := s.part.asr.station &&& 0x2C
        relay := relayDecision c s.part.places (s.part.asr.station &&& 0x2C) s.part.asr.configFault } })
    ∧ (oven ≠ 0 → placeOf c oven.toNat = none → s.Ignores (.pnlClear h oven))

/-- A charge ask is answered by the first test that fails, BUSY, NOT_EMPTY or DOORS, and otherwise begins a charge start:
the flag set, the cap commanded closed with its motion timer, the record ISOLATE MOVING toward ASPIRATE (R12, R13, R86). -/
def Obligations.ChargeAskIsTested : Prop :=
  ∀ (s : State) (c : Configuration) (h : Header) (oven : Byte),
    isFrom h c c.chargerStation = true → s.part.config = some c →
    (placeOf c oven.toNat = none → s.Ignores (.cha h oven))
    ∧ ∀ i pl, s.HasOven c oven.toNat i pl →
      let refuse (reason : Byte) : Prop := s.Runs (.cha h oven) (s.part.offer .chr (.oven oven.toNat) [oven, reason])
      let latched (d : Door) : Prop := d.state = .sealed ∨ d.state = .leaking
      (pl.oven.inFlight = true → refuse 3)
      ∧ (pl.oven.inFlight = false → pl.oven.kept.phase ≠ .empty → refuse 1)
      ∧ (pl.oven.inFlight = false → pl.oven.kept.phase = .empty → ¬(latched pl.doorP ∧ latched pl.doorC) → refuse 2)
      ∧ (pl.oven.inFlight = false → pl.oven.kept.phase = .empty → latched pl.doorP → latched pl.doorC →
          s.NoPushOf oven.toNat → pl.offtake.mode = .isolate → pl.offtake.next = none →
          s.part.level i .capClosed = false →
          ∃ q, s.Runs (.cha h oven) q ∧ OvenOnly i s.part q
            ∧ q.places[i]? = some { pl with
                oven := { pl.oven with inFlight := true }
                offtake := { pl.offtake with
                  sub := some .moving, next := some .aspirate, awaits := some .capClosed, valve := 0, capOpen := false
                  entryPending := false, valveTimer := .stopped, capTimer := .running 15000, highTimer := .stopped } })

/-- Cap-closed confirmed for a charge start in flight: ASPIRATE REACHED, the oven CHARGING with its limit running, and CHP
offered, or owed when the queue refuses it (R14, R86). -/
def Obligations.CapClosedBeginsTheCharge : Prop :=
  ∀ (s : State) (c : Configuration) (n i : Nat) (pl : Place),
    s.HasOven c n i pl → s.NoPushOf n → s.Spell i .capClosed true →
    pl.oven.inFlight = true → pl.oven.kept.phase = .empty → pl.oven.chpPending = false →
    pl.offtake.mode = .isolate → pl.offtake.next = some .aspirate → pl.offtake.awaits = some .capClosed →
    ∃ q pl', s.Runs (.debounceExpiry (i + 1) .capClosed) q ∧ q.places[i]? = some pl'
      ∧ pl'.oven.kept = { pl.oven.kept with phase := .charging } ∧ pl'.oven.inFlight = false
      ∧ pl'.oven.chargeLimit = .running 1800000
      ∧ pl'.offtake.mode = .aspirate ∧ pl'.offtake.sub = some .reached ∧ pl'.offtake.valve = 1000
      ∧ pl'.offtake.capTimer = .stopped ∧ pl'.offtake.next = none
      ∧ (s.part.bli.queue.length < 7 →
          pl'.oven.chpPending = false
            ∧ ∃ e ∈ q.bli.queue, e.kind = .chp ∧ e.subject = .oven n ∧ e.payload = [BitVec.ofNat 8 n])
      ∧ (s.part.bli.queue.length = 8 → (∀ e ∈ s.part.bli.queue, e.subject ≠ .oven n) →
          pl'.oven.chpPending = true ∧ q.bli.queue = s.part.bli.queue)
      ∧ pl.KeepsDoors pl' ∧ OvenOnly i (s.part.withLevel i .capClosed true) q

/-- A charge end of a CHARGING oven: age 0, COKING, the charge limit stopped, CHP-pending cleared and the aspirate hold
started, or with aspirate_hold 0 control entered at once; in any other phase it is ignored. The charge limit raises
CHARGE_LATE and stops its timer, and the oven stays CHARGING (R17, R18, R91). That the expiry of a charge limit not running
does nothing is the model's choice (log 2). -/
def Obligations.ChargeEndStartsCoking : Prop :=
  ∀ (s : State) (c : Configuration) (h : Header) (oven : Byte) (i : Nat) (pl : Place),
    isFrom h c c.chargerStation = true → s.HasOven c oven.toNat i pl →
    (pl.oven.kept.phase = .charging → s.NoPushOf oven.toNat →
      ∃ q pl', s.Runs (.che h oven) q ∧ q.places[i]? = some pl'
        ∧ pl'.oven.kept = { pl.oven.kept with phase := .coking, age := 0 }
        ∧ pl'.oven.chargeLimit = .stopped ∧ pl'.oven.chpPending = false ∧ Claims.overdueIsRight c pl'
        ∧ (c.aspirateHold ≠ 0 →
            pl'.offtake = { pl.offtake with aspirateTimer := .running (c.aspirateHold * 1000) })
        ∧ (c.aspirateHold = 0 → pl'.offtake.mode = (if pl.offtake.sensorFailed then .hold else .pi)
            ∧ pl'.offtake.aspirateTimer = .stopped)
        ∧ pl.KeepsDoors pl' ∧ OvenOnly i s.part q)
    ∧ (pl.oven.kept.phase ≠ .charging → s.Ignores (.che h oven))
    ∧ (pl.oven.chargeLimit.active = true →
      ∃ q, s.Runs (.chargeLimitExpiry oven.toNat) q
        ∧ q.places[i]? = some { pl with oven := { pl.oven with
            chargeLimit := .stopped, alarms := pl.oven.alarms ||| 0x2000 } }
        ∧ OvenOnly i s.part q ∧ q.fls = s.part.fls)
    ∧ (pl.oven.chargeLimit.active = false → s.Ignores (.chargeLimitExpiry oven.toNat))

/-! ## Series arithmetic and the bid round -/

/-- A class order that passed the load's test. -/
def Claims.seriesConfig (c : Configuration) : Prop := 1 ≤ c.step ∧ c.classOrder.Perm (List.range c.step)

/-- Every battery oven takes a series position of its own in 0 to N - 1: the sizes of the classes ranked before its class,
plus its index (R20). -/
def Obligations.PositionsFillTheSeries : Prop :=
  ∀ c : Configuration, Claims.seriesConfig c →
    (∀ n, 1 ≤ n → n ≤ c.batteryOvens → seriesPosition c n < c.batteryOvens)
    ∧ (∀ n m, 1 ≤ n → n ≤ c.batteryOvens → 1 ≤ m → m ≤ c.batteryOvens →
        seriesPosition c n = seriesPosition c m → n = m)
    ∧ (∀ n, 1 ≤ n → n ≤ c.batteryOvens → ∃ before after, c.classOrder = before ++ (n - 1) % c.step :: after
        ∧ seriesPosition c n
          = (before.map fun r => (c.batteryOvens - r + c.step - 1) / c.step).sum + (n - 1) / c.step)

/-- The distance is (pos(n) - pos(anchor) - 1 + N) mod N, pos(n) with no anchor; it lies in 0 to N - 1, the anchor itself
is last, and no two ovens share one (R21). -/
def Obligations.DistanceFromTheAnchor : Prop :=
  ∀ (c : Configuration) (n : Nat), Claims.seriesConfig c → 1 ≤ n → n ≤ c.batteryOvens →
    distance c none n = seriesPosition c n
    ∧ ∀ a, 1 ≤ a → a ≤ c.batteryOvens →
      (distance c (some a) n : Int)
        = ((seriesPosition c n : Int) - (seriesPosition c a : Int) - 1 + (c.batteryOvens : Int)) % (c.batteryOvens : Int)
      ∧ distance c (some a) n < c.batteryOvens
      ∧ distance c (some n) n = c.batteryOvens - 1
      ∧ ∀ m, 1 ≤ m → m ≤ c.batteryOvens → distance c (some a) n = distance c (some a) m → n = m

/-- Wall support on each side of a local oven, by the first of the three cases that applies (R24). -/
def Obligations.WallSupportBySide : Prop :=
  ∀ (s : State) (c : Configuration) (n i : Nat) (pl : Place), s.HasOven c n i pl → s.part.PlacesSound →
    let old (ph : Phase) (age : Nat) : Prop := (ph = .coking ∨ ph = .ready) ∧ c.supportAge ≤ age
    let byRecord (m : Nat) : Prop := ∃ x ∈ s.part.places, x.oven.number = m ∧ old x.oven.kept.phase x.oven.kept.age
    let byView (v : Option NeighbourView) : Prop := ∃ x, v = some x ∧ x.fresh.active = true ∧ old x.phase x.age
    (supportBelow c s.part i = true ↔
      n = 1 ∨ (n ≠ c.firstOven ∧ byRecord (n - 1)) ∨ (n ≠ 1 ∧ n = c.firstOven ∧ byView s.part.lvt.lower))
    ∧ (supportAbove c s.part i = true ↔
      n = c.batteryOvens ∨ (n + 1 ≠ c.firstOven + c.ovenCount ∧ byRecord (n + 1))
        ∨ (n ≠ c.batteryOvens ∧ n + 1 = c.firstOven + c.ovenCount ∧ byView s.part.lvt.upper))

/-- A local oven is eligible by the five conditions of R23; the candidate is the eligible one with the lowest key on the anchor
held, and there is none just when no local oven is eligible (R22, R23). -/
def Obligations.CandidateHasTheLowestKey : Prop :=
  ∀ (c : Configuration) (p : Part),
    let keyOf (pl : Place) : BidKey := bidKey c p.lvt.anchor pl.oven.number pl.oven.kept.lateness
    let latched (d : Door) : Prop := d.state = .sealed ∨ d.state = .leaking
    (∀ i, eligible c p i = true ↔
      ∃ pl, p.places[i]? = some pl
        ∧ (pl.oven.kept.phase = .ready ∧ pl.oven.kept.hold = false)
        ∧ (∀ x, p.psq.context = some x → x.oven ≠ pl.oven.number)
        ∧ (latched pl.doorP ∧ latched pl.doorC)
        ∧ pl.offtake.sub ≠ some .failed
        ∧ supportBelow c p i = true ∧ supportAbove c p i = true)
    ∧ (candidate c p = none ↔ ∀ i < p.places.length, eligible c p i = false)
    ∧ ∀ key, candidate c p = some key →
      (∃ i pl, p.places[i]? = some pl ∧ eligible c p i = true ∧ key = keyOf pl)
      ∧ ∀ i pl, p.places[i]? = some pl → eligible c p i = true →
          ¬(((keyOf pl).distance < key.distance)
            ∨ ((keyOf pl).distance = key.distance ∧ (keyOf pl).negLateness < key.negLateness)
            ∨ ((keyOf pl).distance = key.distance ∧ (keyOf pl).negLateness = key.negLateness
                ∧ (keyOf pl).oven < key.oven))

/-- Entry conditions 1 to 7 (R26). -/
def Claims.roundMayStart (p : Part) : Prop :=
  p.psq.context = none ∧ p.qou.orders = [] ∧ p.lvt.settle = .expired ∧ p.bsu.holdOff = .stopped
    ∧ (∃ v, p.lvt.car = some v ∧ v.fresh.active = true ∧ v.activity = .idle ∧ v.load = .empty ∧ v.owner = 0)
    ∧ (∃ v, p.lvt.pusher = some v ∧ v.fresh.active = true ∧ v.activity ≠ .fault)
    ∧ p.lvt.peers = []

/-- The part with BACKUP_LOW held by the comparator's report, and the relay decision taken (R141, R146); a report that is not
low says that the backup supply holds again (log 23). -/
def Claims.withBackup (c : Configuration) (low : Bool) (p : Part) : Part :=
  let set := if low then p.asr.station ||| 0x20 else p.asr.station &&& 0xDF
  { p with
      backupOn := p.backupOn || !low
      asr := { p.asr with station := set, relay := relayDecision c p.places set p.asr.configFault } }

/-- The part with a round begun for a candidate, or lost at once when the queue refuses the BID (R27, R31). -/
def Claims.roundBegun (key : BidKey) (p : Part) : Part :=
  let payload := BitVec.ofNat 8 key.oven :: bytesOfInt16 (-key.negLateness)
  if (p.bli.offer .bid (.oven key.oven) payload).2 then
    { p with
      bli := (p.bli.offer .bid (.oven key.oven) payload).1
      bsu := { p.bsu with
        round := .bidding, record := some ⟨key.oven, -key.negLateness, .stopped⟩, rivals := [] } }
  else { p with bsu := { p.bsu with round := .idle, record := none, rivals := [], holdOff := .running 5000 } }

/-- The evaluation expiry starts a round in IDLE when every entry condition holds and there is a candidate, does nothing to
the round otherwise, and holds BACKUP_LOW by the comparator's report either way (R26, R27, R146). What a report that is not low
says of the backup supply is the model's choice (log 23). -/
def Obligations.EvaluationStartsARound : Prop :=
  ∀ (s : State) (c : Configuration) (low : Bool), s.part.config = some c →
    (∀ key, s.part.bsu.round = .idle → Claims.roundMayStart s.part → candidate c s.part = some key →
      s.Runs (.evaluationExpiry low) (Claims.withBackup c low (Claims.roundBegun key s.part)))
    ∧ (¬(s.part.bsu.round = .idle ∧ Claims.roundMayStart s.part ∧ (candidate c s.part).isSome = true) →
      s.Runs (.evaluationExpiry low) (Claims.withBackup c low s.part))

/-- A BID of another station: ignored for an oven outside 1 to N, SECTION_OVERLAP for a local one; in IDLE answered by an own
round or by DEFERRING, in DEFERRING ignored, in BIDDING stored (R28, R32 to R35). That DEFERRING is entered during a won push
too, where R36 keeps IDLE, is the model's choice (log 32). -/
def Obligations.RivalBidsAreTakenByState : Prop :=
  ∀ (s : State) (c : Configuration) (h : Header) (oven : Byte) (lateness : Word16),
    s.part.config = some c → fromOther h c = true →
    let n := oven.toNat
    let rival : Rival := ⟨h.station.toNat, n, lateness.toInt⟩
    let set := s.part.asr.station ||| 0x40
    let rivalRuns (p : Part) : Prop := s.Runs (.bid h oven lateness) p
    ((n = 0 ∨ c.batteryOvens < n) → s.Ignores (.bid h oven lateness))
    ∧ (1 ≤ n → n ≤ c.batteryOvens → (placeOf c n).isSome = true →
        rivalRuns { s.part with asr := { s.part.asr with
          station := set, relay := relayDecision c s.part.places set s.part.asr.configFault } })
    ∧ (1 ≤ n → n ≤ c.batteryOvens → placeOf c n = none →
      (s.part.bsu.round = .deferring → s.Ignores (.bid h oven lateness))
      ∧ (s.part.bsu.round = .bidding →
          ∃ l, rivalRuns { s.part with bsu := { s.part.bsu with rivals := l } }
            ∧ ((∃ r ∈ s.part.bsu.rivals, r.station = rival.station) →
                l = s.part.bsu.rivals.map fun r => if r.station = rival.station then rival else r)
            ∧ ((∀ r ∈ s.part.bsu.rivals, r.station ≠ rival.station) →
                l = if s.part.bsu.rivals.length < 8 then s.part.bsu.rivals ++ [rival] else s.part.bsu.rivals))
      ∧ (∀ key, s.part.bsu.round = .idle → Claims.roundMayStart s.part → candidate c s.part = some key →
          key.beats (bidKey c s.part.lvt.anchor n lateness.toInt) = true →
          rivalRuns (Claims.roundBegun key s.part))
      ∧ (s.part.bsu.round = .idle →
          ¬(Claims.roundMayStart s.part ∧ ∃ key, candidate c s.part = some key
              ∧ key.beats (bidKey c s.part.lvt.anchor n lateness.toInt) = true) →
          rivalRuns { s.part with bsu := { s.part.bsu with
            round := .deferring, deferral := .running (2 * (c.bidWindow * 100)), deferredTo := some rival.station } }))

/-- The win conditions of a window expiry (R29). -/
def Claims.roundIsWon (c : Configuration) (s : State) (record : BidRecord) : Prop :=
  s.part.psq.context = none
    ∧ (∃ i, placeOf c record.oven = some i ∧ eligible c s.part i = true)
    ∧ (∃ v, s.part.lvt.car = some v ∧ v.fresh.active = true ∧ v.activity = .idle ∧ v.load = .empty ∧ v.owner = 0)
    ∧ (∃ v, s.part.lvt.pusher = some v ∧ v.fresh.active = true ∧ v.activity ≠ .fault)
    ∧ ∀ r ∈ s.part.bsu.rivals, (bidKey c s.part.lvt.anchor record.oven record.lateness).beats
        (bidKey c s.part.lvt.anchor r.oven r.lateness) = true

/-- The window expiry loses a round, with its record and rivals gone and the hold-off started, whenever a win condition
fails. The hold-off and the deferral end at their expiry, and nothing else changes (R29, R31, R33). That a deferral expiry outside
DEFERRING does nothing is the model's choice (log 2). -/
def Obligations.RoundsAreLostAndWaitsEnd : Prop :=
  ∀ (s : State) (c : Configuration), s.part.config = some c →
    (∀ record, s.part.bsu.round = .bidding → s.part.bsu.record = some record →
      record.window.active = true → ¬Claims.roundIsWon c s record →
      s.Runs .windowExpiry { s.part with bsu := { s.part.bsu with
        round := .idle, record := none, rivals := [], holdOff := .running 5000 } })
    ∧ s.Runs .holdOffExpiry { s.part with bsu := { s.part.bsu with holdOff := .stopped } }
    ∧ (s.part.bsu.round = .deferring → s.part.bsu.deferral.active = true →
        s.Runs .deferralExpiry { s.part with bsu := { s.part.bsu with
          round := .idle, deferral := .stopped, deferredTo := none } })
    ∧ (s.part.bsu.round ≠ .deferring → s.Ignores .deferralExpiry)

/-- A door away from SEALED, LEAKING and RELEASED. -/
def Claims.away (d : Door) : Prop := d.state = .unlatched ∨ d.state = .off ∨ d.state = .fault

/-- No permit line is active after, for doors whose line is active just in RELEASED. -/
def Claims.permitsDrop (pl pl' : Place) : Prop :=
  ∀ side, ((pl.door side).permit = true → (pl.door side).state = .released) → (pl'.door side).permit = false

/-- What an abort leaves of the car orders: the head when it is in flight, owing no outcome, and a RELEASE (R106). -/
def Claims.withdrawn (before : Qou) (after : Qou) : Prop :=
  ∃ r, after.orders = (match before.orders with
      | [] => []
      | head :: _ => if head.state ≠ .queued ∨ head.offered = true then [{ head with owed := false }] else []) ++ [r]
    ∧ r.id = before.nextId ∧ r.kind = .release ∧ r.state = .queued ∧ r.owed = false ∧ r.deadline = .stopped
    ∧ after.nextId = if before.nextId < 255 then before.nextId + 1 else 1

/-- PI asked for at a place `pl` whose offtake is in ISOLATE with no next mode, the context being `x` with its PI request made:
the cap is commanded closed toward PI; with cap-closed confirmed already the return is over at once, the oven held and set by
its age, in PI or, for a failed sensor, in HOLD (R5, R55, R81, R87, R92). -/
def Claims.piAsked (c : Configuration) (i : Nat) (pl pl' : Place) (x : Context) (p q : Part) : Prop :=
  (p.level i .capClosed = false →
    q.psq.context = some x ∧ pl'.oven.kept = pl.oven.kept
      ∧ pl'.offtake = { pl.offtake with
          sub := some .moving, next := some .pi, awaits := some .capClosed, valve := 0, capOpen := false
          entryPending := false, valveTimer := .stopped, capTimer := .running 15000, highTimer := .stopped })
  ∧ (p.level i .capClosed = true → pl.oven.kept.phase = .pushing →
    q.psq.context = none
      ∧ (let r := { pl.oven.kept with hold := true }; pl'.oven.kept = { r with phase := Claims.byAge c r })
      ∧ pl'.offtake.mode = (if pl.offtake.sensorFailed then .hold else .pi)
      ∧ pl'.offtake.sub = none ∧ pl'.offtake.next = none
      ∧ pl'.offtake.valve = (if pl.offtake.sensorFailed then c.uFail else max c.uMin (min c.uMax 0))
      ∧ pl'.offtake.capOpen = false ∧ pl'.offtake.entryPending = !pl.offtake.sensorFailed)

/-- An abort of the push of `x` for a reason, from the part `p` with the context oven's place `pl` as the event has left it, to
`q`: RETURN with the reason, PUSH_ABORTED, the permits dropped, the door limit started and the orders withdrawn; with both doors
on, PI is asked for as well (R51, R52, R55, R65, R106). -/
def Claims.aborts (c : Configuration) (i : Nat) (pl : Place) (x : Context) (r : AbortReason) (p q : Part) : Prop :=
  let aborted (asked : Bool) : Context :=
    { x with
      stage := .returning, reason := some r, permit := .stopped, prepareLimit := .stopped, armedLimit := .stopped
      spotAwaited := false, doorLimit := .running 900000, piRequested := asked }
  ∃ pl', q.places[i]? = some pl' ∧ hasOven pl'.oven.alarms .pushAborted = true ∧ Claims.permitsDrop pl pl'
    ∧ Claims.withdrawn p.qou q.qou ∧ q.psq.pendingPdn = p.psq.pendingPdn ∧ PushOnly i p q
    ∧ (Claims.away pl.doorP ∨ Claims.away pl.doorC →
        q.psq.context = some (aborted false) ∧ pl'.offtake = pl.offtake ∧ pl'.oven.kept = pl.oven.kept)
    ∧ (¬Claims.away pl.doorP → ¬Claims.away pl.doorC → pl.offtake.mode = .isolate → pl.offtake.next = none →
        Claims.piAsked c i pl pl' (aborted true) p q)

/-- The window expiry wins a round: IDLE with the hold-off stopped, the oven PUSHING with its offtake toward ISOLATE, the
context in PREPARE with its limit running, and a SPOT order awaited; a car order list with no room aborts the push with
CAR_LIST (R29, R30, R39, R53, R96). -/
def Obligations.WindowExpiryWinsTheRound : Prop :=
  ∀ (s : State) (c : Configuration) (record : BidRecord) (i : Nat) (pl : Place),
    s.HasOven c record.oven i pl → s.part.PlacesSound → s.part.bsu.round = .bidding →
    s.part.bsu.record = some record → record.window.active = true → Claims.roundIsWon c s record →
    let won : Bsu := { s.part.bsu with round := .idle, record := none, rivals := [], holdOff := .stopped }
    let x : Context :=
      { oven := record.oven, stage := .prepare, prepareLimit := .running 900000, armedLimit := .stopped
        rmhLimit := .stopped, doorLimit := .stopped, spotDone := false, spotAwaited := true, permit := .stopped
        unpermitted := false, piRequested := false, stroke := none, reason := none }
    let begun : Place :=
      { pl with
        oven := { pl.oven with kept := { pl.oven.kept with phase := .pushing } }
        offtake := { pl.offtake with mode := .isolate, next := none, aspirateTimer := .stopped } }
    (s.part.qou.orders = [] →
      ∃ q pl' o, s.Runs .windowExpiry q ∧ q.places[i]? = some pl' ∧ q.bsu = won
        ∧ pl'.oven.kept = begun.oven.kept ∧ pl'.offtake.mode = .isolate ∧ pl'.offtake.next = none
        ∧ q.psq.context = some x
        ∧ q.qou.orders = [o] ∧ o.id = s.part.qou.nextId ∧ o.kind = .spot record.oven ∧ o.state = .queued
        ∧ o.owed = true ∧ o.deadline = .stopped
        ∧ PushOnly i { s.part with bsu := won } q)
    ∧ (4 ≤ s.part.qou.orders.length →
      ∃ q, s.Runs .windowExpiry q ∧ Claims.aborts c i begun x .carList { s.part with bsu := won } q)

/-! ## The push sequence -/

/-- The four tests of a push ask (R42). -/
def Claims.pusherThere (p : Part) (n : Nat) : Prop :=
  ∃ v, p.lvt.pusher = some v ∧ v.fresh.active = true ∧ v.position = n

def Claims.guideThere (p : Part) (n : Nat) : Prop :=
  ∃ v, p.lvt.guide = some v ∧ v.fresh.active = true ∧ v.activity ≠ .fault ∧ v.aligned = true ∧ v.position = n

def Claims.carThere (p : Part) (n : Nat) : Prop :=
  ∃ v, p.lvt.car = some v ∧ v.fresh.active = true ∧ v.position = n ∧ v.load = .empty

/-- A push ask: NOT_ARMED unless the context is ARMED for the oven; then the first failing test refuses and withdraws the
permit, and a PPM that the queue takes makes the permit valid for 60 s (R42, R44). -/
def Obligations.PushAskIsAnswered : Prop :=
  ∀ (s : State) (c : Configuration) (h : Header) (oven : Byte),
    isFrom h c c.pusherStation = true → s.part.config = some c →
    (placeOf c oven.toNat = none → s.Ignores (.pas h oven))
    ∧ ∀ i, placeOf c oven.toNat = some i →
      let n := oven.toNat
      let refused (reason : Byte) : Part := s.part.offer .prf (.oven n) [oven, reason]
      let support : Prop := supportBelow c s.part i = true ∧ supportAbove c s.part i = true
      ((∀ x, s.part.psq.context = some x → ¬(x.oven = n ∧ x.stage = .armed)) → s.Runs (.pas h oven) (refused 1))
      ∧ ∀ x, s.part.psq.context = some x → x.oven = n → x.stage = .armed →
        let withPermit (t : Timer) (p : Part) : Part :=
          { p with psq := { p.psq with context := some { x with permit := t } } }
        let permitted : Part := s.part.offer .ppm (.oven n) [oven]
        (¬Claims.pusherThere s.part n → s.Runs (.pas h oven) (withPermit .stopped (refused 5)))
        ∧ (Claims.pusherThere s.part n → ¬Claims.guideThere s.part n →
            s.Runs (.pas h oven) (withPermit .stopped (refused 3)))
        ∧ (Claims.pusherThere s.part n → Claims.guideThere s.part n → ¬Claims.carThere s.part n →
            s.Runs (.pas h oven) (withPermit .stopped (refused 4)))
        ∧ (Claims.pusherThere s.part n → Claims.guideThere s.part n → Claims.carThere s.part n → ¬support →
            s.Runs (.pas h oven) (withPermit .stopped (refused 2)))
        ∧ (Claims.pusherThere s.part n → Claims.guideThere s.part n → Claims.carThere s.part n → support →
            ((s.part.bli.offer .ppm (.oven n) [oven]).2 = true →
              s.Runs (.pas h oven) (withPermit (.running 60000) permitted))
            ∧ ((s.part.bli.offer .ppm (.oven n) [oven]).2 = false → s.Ignores (.pas h oven)))

/-- A ram start of the context oven: PUSHING from ARMED, PREPARE and RETURN, unpermitted and PUSH_UNPERMITTED without a valid
permit in ARMED; ignored in PUSHING; the alarm alone in CLOSING (R44). -/
def Obligations.RamStartOfTheContextOven : Prop :=
  ∀ (s : State) (c : Configuration) (h : Header) (oven : Byte) (i : Nat) (pl : Place) (x : Context),
    isFrom h c c.pusherStation = true → s.HasOven c oven.toNat i pl → s.part.psq.context = some x →
    x.oven = oven.toNat →
    let pushing (u : Bool) : Context :=
      { x with
          stage := .pushing, rmhLimit := .running 240000, prepareLimit := .stopped, armedLimit := .stopped
          doorLimit := .stopped, permit := .stopped, unpermitted := u, piRequested := false, reason := none }
    (x.stage = .armed → x.permit.active = true →
      ∃ q pl', s.Runs (.rms h oven) q ∧ q.places[i]? = some pl'
        ∧ q.psq = { s.part.psq with context := some (pushing x.unpermitted) }
        ∧ pl'.oven.kept = pl.oven.kept
        ∧ hasOven pl'.oven.alarms .pushUnpermitted = hasOven pl.oven.alarms .pushUnpermitted
        ∧ OvenOnly i { s.part with psq := q.psq } q)
    ∧ ((x.stage = .armed ∧ x.permit.active = false) ∨ x.stage = .prepare ∨ x.stage = .returning →
      ∃ q pl', s.Runs (.rms h oven) q ∧ q.places[i]? = some pl'
        ∧ q.psq = { s.part.psq with context := some (pushing true) }
        ∧ pl'.oven.kept = pl.oven.kept ∧ hasOven pl'.oven.alarms .pushUnpermitted = true
        ∧ (x.stage = .returning → pl'.offtake.mode = .isolate ∧ pl'.offtake.next = none)
        ∧ OvenOnly i { s.part with psq := q.psq } q)
    ∧ (x.stage = .pushing → s.Ignores (.rms h oven))
    ∧ (x.stage = .closing →
      ∃ q, s.Runs (.rms h oven) q ∧ OvenOnly i s.part q ∧ q.places[i]? = some { pl with oven := { pl.oven with alarms := pl.oven.alarms ||| 0x0800 } })

/-- A ram start outside the context: a new context in PUSHING, unpermitted, when no local neighbour is open; else, and
during another oven's push, the oven UNKNOWN in HOLD. PUSH_UNPERMITTED is raised either way (R5, R45). -/
def Obligations.RamStartOutsideTheContext : Prop :=
  ∀ (s : State) (c : Configuration) (h : Header) (oven : Byte) (i : Nat) (pl : Place),
    isFrom h c c.pusherStation = true → s.HasOven c oven.toNat i pl → s.part.PlacesSound →
    pl.oven.kept.phase ≠ .pushing →
    let clear : Prop := ∀ x ∈ s.part.places,
      x.oven.number + 1 = oven.toNat ∨ x.oven.number = oven.toNat + 1 →
      x.oven.kept.phase ≠ .empty ∧ x.oven.kept.phase ≠ .charging ∧ x.oven.kept.phase ≠ .pushing
    (s.part.psq.context = none → clear →
      ∃ q pl', s.Runs (.rms h oven) q ∧ q.places[i]? = some pl'
        ∧ q.psq.pendingPdn = s.part.psq.pendingPdn
        ∧ q.psq.context = some
            { oven := oven.toNat, stage := .pushing, prepareLimit := .stopped, armedLimit := .stopped
              rmhLimit := .running 240000, doorLimit := .stopped, spotDone := false, spotAwaited := false
              permit := .stopped, unpermitted := true, piRequested := false, stroke := none, reason := none }
        ∧ pl'.oven.kept = { pl.oven.kept with phase := .pushing }
        ∧ hasOven pl'.oven.alarms .pushUnpermitted = true
        ∧ pl'.offtake.mode = .isolate ∧ pl'.offtake.next = none
        ∧ OvenOnly i { s.part with psq := q.psq } q)
    ∧ ((s.part.psq.context = none ∧ ¬clear) ∨ (∃ x, s.part.psq.context = some x ∧ x.oven ≠ oven.toNat) →
      ∃ q pl', s.Runs (.rms h oven) q ∧ q.places[i]? = some pl'
        ∧ pl'.oven.kept = { pl.oven.kept with phase := .unknown }
        ∧ hasOven pl'.oven.alarms .pushUnpermitted = true
        ∧ (pl.oven.kept.phase ≠ .unknown → pl'.offtake.mode = .hold)
        ∧ OvenOnly i s.part q)

/-- Ram home in PUSHING: the PDN offered or kept pending, QUENCH and DUMP ordered or CAR_TIMEOUT raised, CLOSING with its
door limit, or the push ended at once with the oven EMPTY when both doors are already on (R47 to R50). -/
def Obligations.RamHomeClosesThePush : Prop :=
  ∀ (s : State) (c : Configuration) (h : Header) (oven stroke : Byte),
    isFrom h c c.pusherStation = true → s.part.config = some c →
    ((∀ x, s.part.psq.context = some x → ¬(x.oven = oven.toNat ∧ x.stage = .pushing)) →
      s.Ignores (.rmh h oven stroke))
    ∧ ∀ i pl x, s.HasOven c oven.toNat i pl → s.part.psq.context = some x → x.oven = oven.toNat →
      x.stage = .pushing →
      let pdn : List Byte := [oven, stroke, if x.unpermitted then 1 else 0]
      let latched (d : Door) : Prop := d.state = .sealed ∨ d.state = .leaking
      ∃ q pl', s.Runs (.rmh h oven stroke) q ∧ q.places[i]? = some pl'
        ∧ (¬(latched pl.doorP ∧ latched pl.doorC) → pl.doorP.state ≠ .released → pl.doorC.state ≠ .released →
            pl' = pl ∧ q.psq.context = some { x with
              stage := .closing, rmhLimit := .stopped, stroke := some stroke.toNat, doorLimit := .running 900000 })
        ∧ (latched pl.doorP → latched pl.doorC →
            q.psq.context = none ∧ pl'.oven.kept = { pl.oven.kept with phase := .empty })
        ∧ ((s.part.bli.offer .pdn (.oven x.oven) pdn).2 = true →
            q.psq.pendingPdn = s.part.psq.pendingPdn
              ∧ ∃ e ∈ q.bli.queue, e.kind = .pdn ∧ e.subject = .oven x.oven ∧ e.payload = pdn)
        ∧ ((s.part.bli.offer .pdn (.oven x.oven) pdn).2 = false →
            ⟨x.oven, stroke.toNat, x.unpermitted⟩ ∈ q.psq.pendingPdn)
        ∧ q.qou.orders.map (fun (o : Order) => o.kind)
            = (s.part.qou.orders.map (fun (o : Order) => o.kind)
                ++ [OrderKind.quench c.quenchTime, OrderKind.dump]).take (max 4 s.part.qou.orders.length)
        ∧ q.asr.station = (if s.part.qou.orders.length ≤ 2 then s.part.asr.station else s.part.asr.station ||| 0x01)
        ∧ PushOnly i { s.part with asr := { s.part.asr with station := q.asr.station } } q

/-- The limits and the permit timer that do not end a stage: the PREPARE limit is marked expired in ARMED, the permit is
cleared, RAM_LATE and DOOR_LATE are raised, and the stage stays (R41, R44, R46, R50, R55). -/
def Obligations.LimitsThatKeepTheStage : Prop :=
  ∀ (s : State) (c : Configuration) (i : Nat) (pl : Place) (x : Context),
    s.HasOven c x.oven i pl → s.part.psq.context = some x →
    let withContext (y : Context) : Part := { s.part with psq := { s.part.psq with context := some y } }
    (x.stage = .armed → x.prepareLimit.active = true →
      s.Runs .prepareLimitExpiry (withContext { x with prepareLimit := .expired }))
    ∧ s.Runs .permitTimerExpiry (withContext { x with permit := .stopped })
    ∧ (x.rmhLimit.active = true →
      ∃ q, s.Runs .rmhLimitExpiry q ∧ OvenOnly i (withContext { x with rmhLimit := .stopped }) q
        ∧ q.places[i]? = some { pl with oven := { pl.oven with alarms := pl.oven.alarms ||| 0x8000 } })
    ∧ (x.doorLimit.active = true →
      ∃ q, s.Runs .doorLimitExpiry q ∧ OvenOnly i (withContext { x with doorLimit := .stopped }) q
        ∧ q.places[i]? = some { pl with oven := { pl.oven with alarms := pl.oven.alarms ||| 0x0200 } })

/-- An abort by the panel, the PREPARE limit or the ARMED limit, with a door away, or with both doors on and the cap open, moving
or closed already (R41, R43, R51, R52, R54, R55, R87, R106). A panel ABORT is ignored with no context, for another oven, and in
PUSHING, CLOSING and RETURN (R54). -/
def Obligations.AbortsGoToReturn : Prop :=
  (∀ (s : State) (c : Configuration) (h : Header) (oven : Byte), s.part.config = some c → isFromPanel h c = true →
    (s.part.psq.context = none → s.Ignores (.pnlAbort h oven))
    ∧ ∀ x, s.part.psq.context = some x →
        (oven ≠ 0 ∧ oven.toNat ≠ x.oven) ∨ x.stage = .pushing ∨ x.stage = .closing ∨ x.stage = .returning →
        s.Ignores (.pnlAbort h oven))
  ∧ ∀ (s : State) (c : Configuration) (h : Header) (oven : Byte) (i : Nat) (pl : Place) (x : Context) (e : Instr)
    (r : AbortReason),
    s.HasOven c x.oven i pl → s.part.psq.context = some x → isFromPanel h c = true → x.piRequested = false →
    ((e = .pnlAbort h oven ∧ r = .panel ∧ (oven = 0 ∨ oven.toNat = x.oven) ∧ (x.stage = .prepare ∨ x.stage = .armed))
      ∨ (e = .prepareLimitExpiry ∧ r = .prepareTime ∧ x.prepareLimit.active = true ∧ x.stage = .prepare)
      ∨ (e = .armedLimitExpiry ∧ r = .armedTime ∧ x.armedLimit.active = true ∧ x.stage = .armed)) →
    ∃ q, s.Runs e q ∧ Claims.aborts c i pl x r s.part q

/-- The end of RETURN while PI is asked for: cap-closed confirmed takes the offtake into PI, or HOLD for a failed sensor; the cap
motion timer's expiry raises CAP_FAULT and starts the sequence toward PI afresh. Either way the oven is COKING or READY by its age
and held, and the context is gone (R5, R55, R81, R84, R87, R88). That after that expiry the sequence begins again for a failed sensor
too, and HOLD is not entered before the cap has closed, is the model's reading (log 10). -/
def Obligations.ReturnEndsInPi : Prop :=
  ∀ (s : State) (c : Configuration) (i : Nat) (pl : Place) (x : Context),
    s.HasOven c x.oven i pl → s.part.psq.context = some x → x.stage = .returning → x.piRequested = true →
    pl.oven.kept.phase = .pushing →
    pl.offtake.mode = .isolate → pl.offtake.next = some .pi → pl.offtake.awaits = some .capClosed →
    let ended (pl' : Place) (q : Part) : Prop :=
      q.places[i]? = some pl' ∧ q.psq = { s.part.psq with context := none }
        ∧ let r := { pl.oven.kept with hold := true }; pl'.oven.kept = { r with phase := Claims.byAge c r }
    (s.Spell i .capClosed true →
      ∃ q pl', s.Runs (.debounceExpiry (i + 1) .capClosed) q ∧ ended pl' q
        ∧ pl'.offtake.mode = (if pl.offtake.sensorFailed then .hold else .pi)
        ∧ pl'.offtake.valve = (if pl.offtake.sensorFailed then c.uFail else max c.uMin (min c.uMax pl.offtake.valve))
        ∧ pl'.offtake.entryPending = !pl.offtake.sensorFailed ∧ pl'.offtake.capOpen = false
        ∧ PushOnly i (s.part.withLevel i .capClosed true) q)
    ∧ (pl.offtake.capTimer.active = true → pl.offtake.sub ≠ some .failed → s.part.level i .capClosed = false →
      ∃ q pl', s.Runs (.capMotionTimerExpiry x.oven) q ∧ ended pl' q
        ∧ hasOven pl'.oven.alarms .capFault = true
        ∧ pl'.offtake.mode = .isolate ∧ pl'.offtake.sub = some .moving ∧ pl'.offtake.next = some .pi
        ∧ pl'.offtake.awaits = some .capClosed ∧ pl'.offtake.valve = 0 ∧ pl'.offtake.capOpen = false
        ∧ pl'.offtake.capTimer = .running 15000
        ∧ PushOnly i s.part q)

/-! ## Doors -/

/-- The bits of DOOR_FORCED and RESEAL of a side (R150). -/
def Claims.forcedBit : Side → Word16
  | .p => 0x0010
  | .c => 0x0020

def Claims.resealBit : Side → Word16
  | .p => 0x0040
  | .c => 0x0080

/-- An alarm set with a bit held by a condition. -/
def Claims.held (set bit : Word16) (on : Bool) : Word16 := if on then set ||| bit else set &&& ~~~bit

/-- The state of a door whose permit line is inactive and whose leak is not confirmed, from its two levels (R59). -/
def Claims.doorOf (present latched : Bool) : DoorState :=
  if present then (if latched then .sealed else .unlatched) else (if latched then .fault else .off)

/-- DOOR_FORCED of a change of a door's state: SEALED or LEAKING becomes UNLATCHED (R62), and at a CHARGING oven a door that
is none of RELEASED and FAULT becomes UNLATCHED, OFF or FAULT (R18, log 24). -/
abbrev Claims.forces (ph : Phase) (old new : DoorState) : Prop :=
  ((old = .sealed ∨ old = .leaking) ∧ new = .unlatched)
    ∨ (ph = .charging ∧ old ≠ .released ∧ old ≠ .fault ∧ (new = .unlatched ∨ new = .off ∨ new = .fault))

/-- The conditions that release a latched door of the oven at a place (R63). -/
abbrev Claims.releases (c : Configuration) (p : Part) (pl : Place) : Prop :=
  (∃ x ∈ p.psq.context.toList, x.oven = pl.oven.number ∧ (x.stage = .prepare ∨ x.stage = .armed))
    ∧ pl.offtake.mode = .isolate ∧ pl.offtake.sub = some .reached
    ∧ ∃ v ∈ pl.offtake.pressure.toList, v ≤ (c.permitMax : Int)

/-- The record of a door that a change of its switches has brought to a state (R59, R66, R68). -/
def Claims.doorEntered (c : Configuration) (leak : Bool) (wanted : Bool) (state : DoorState) : Door :=
  { state := state, permit := decide (state = .released), resealWanted := wanted
    leakTimer := if state = .sealed ∧ leak = true then .running (c.leakOn * 1000) else .stopped
    clearTimer := .stopped, leakingSpell := .stopped
    sealedSpell := if state = .sealed ∧ wanted = true then .running (c.resealAfter * 60000) else .stopped }

/-- What a push makes of a change of one of its oven's doors from one state to another, the place being `pl` after the change and
`p` the part with the level taken (R40, R41, R43, R50, R51, R55). -/
def Claims.pushTakesDoor (c : Configuration) (i : Nat) (side : Side) (old : DoorState) (pl : Place) (x : Context)
    (p q : Part) : Prop :=
  let new := (pl.door side).state
  let latched (d : Door) : Prop := d.state = .sealed ∨ d.state = .leaking
  let on : Prop := latched pl.doorP ∧ latched pl.doorC
  let same : Prop := OvenOnly i p q ∧ q.places[i]? = some pl
  let goesOn (y : Option Context) (kept : Retained) : Prop :=
    OvenOnly i { p with psq := { p.psq with context := y } } q
      ∧ ∃ pl', q.places[i]? = some pl' ∧ pl'.door side = pl.door side ∧ pl'.oven.kept = kept
  let arms : Prop := pl.doorP.state = .off ∧ pl.doorC.state = .off ∧ pl.offtake.mode = .isolate
    ∧ pl.offtake.sub = some .reached ∧ x.spotDone = true
  (x.stage = .prepare ∨ x.stage = .armed → new = .fault → x.piRequested = false →
    Claims.aborts c i pl x .doorFault p q)
  ∧ (x.stage = .prepare → new ≠ .fault → arms →
    OvenOnly i { p with psq := { p.psq with
        context := some { x with stage := .armed, armedLimit := .running 600000 } } } q
      ∧ q.places[i]? = some pl)
  ∧ (x.stage = .prepare → new ≠ .fault → ¬arms → same)
  ∧ (x.stage = .armed → new ≠ .fault → old = .off → x.prepareLimit ≠ .expired →
    goesOn (some { x with stage := .prepare, armedLimit := .stopped, permit := .stopped }) pl.oven.kept)
  ∧ (x.stage = .armed → new ≠ .fault → old = .off → x.prepareLimit = .expired → x.piRequested = false →
    Claims.aborts c i pl x .prepareTime p q)
  ∧ (x.stage = .armed → new ≠ .fault → old ≠ .off → same)
  ∧ (x.stage = .pushing → same)
  ∧ (x.stage = .closing → on → goesOn none { pl.oven.kept with phase := .empty })
  ∧ (x.stage = .closing → ¬on → same)
  ∧ (x.stage = .returning → x.piRequested = true → ¬latched (pl.door side) →
    goesOn (some { x with piRequested := false }) pl.oven.kept
      ∧ ∀ pl', q.places[i]? = some pl' → pl'.offtake.mode = .isolate ∧ pl'.offtake.next = none)
  ∧ (x.stage = .returning → x.piRequested = false → on → pl.offtake.mode = .isolate → pl.offtake.next = none →
    PushOnly i p q ∧ q.qou = p.qou ∧ q.psq.pendingPdn = p.psq.pendingPdn
      ∧ ∃ pl', q.places[i]? = some pl' ∧ Claims.piAsked c i pl pl' { x with piRequested := true } p q)
  ∧ (x.stage = .returning → x.piRequested = true → latched (pl.door side) → same)
  ∧ (x.stage = .returning → x.piRequested = false → ¬on → same)

/-- A debounced change of a door's present or latched level: the state of the two levels, RELEASED for SEALED where the permit
stands, DOOR_SWITCH and DOOR_FORCED by it, the timers of the entry, reseal-wanted cleared in OFF. A charge start in flight is
cancelled with CHR DOORS; the push of the oven takes the change by its stage (R16, R18, R40, R41, R43, R50, R51, R55, R59 to R63,
R66, R68). That R18 and R62 both raise DOOR_FORCED is the model's choice (log 24). -/
def Obligations.DoorsFollowTheirSwitches : Prop :=
  ∀ (s : State) (c : Configuration) (n i : Nat) (pl : Place) (side : Side) (input : SwitchInput) (v : Bool),
    s.HasOven c n i pl → s.Spell i input v → input = .present side ∨ input = .latched side →
    let d := pl.door side
    let present := if input = .present side then v else s.part.level i (.present side)
    let latched := if input = .latched side then v else s.part.level i (.latched side)
    let state :=
      if Claims.doorOf present latched = .sealed ∧ Claims.releases c s.part pl then .released
      else Claims.doorOf present latched
    let wanted := d.resealWanted && decide (state ≠ .off)
    let changed : Place :=
      { pl.withDoor side (Claims.doorEntered c (s.part.level i (.leak side)) wanted state) with
        oven := { pl.oven with
          alarms := Claims.held pl.oven.alarms (Claims.resealBit side) wanted
            ||| (if state = .fault then 0x0100 else 0)
            ||| (if Claims.forces pl.oven.kept.phase d.state state then Claims.forcedBit side else 0) } }
    let e : Instr := .debounceExpiry (i + 1) input
    let p := s.part.withLevel i input v
    d.Agrees (s.part.level i (.present side)) (s.part.level i (.latched side)) →
    (s.NoPushOf n → pl.oven.inFlight = false ∨ state = .sealed →
      ∃ q, s.Runs e q ∧ OvenOnly i p q ∧ q.places[i]? = some changed)
    ∧ (s.NoPushOf n → pl.oven.inFlight = true → state ≠ .sealed → pl.doorP.state ≠ .released →
        pl.doorC.state ≠ .released →
      ∃ q pl', s.Runs e q ∧ OvenOnly i p q ∧ q.places[i]? = some pl'
        ∧ pl'.oven = { changed.oven with inFlight := false } ∧ pl'.door side = changed.door side
        ∧ pl'.offtake.mode = .isolate ∧ pl'.offtake.next = none
        ∧ (s.part.bli.queue.length < 7 →
            ∃ t ∈ q.bli.queue, t.kind = .chr ∧ t.subject = .oven n ∧ t.payload = [BitVec.ofNat 8 n, 2]))
    ∧ ∀ x, s.part.psq.context = some x → x.oven = n → pl.oven.inFlight = false →
      ∃ q, s.Runs e q ∧ Claims.pushTakesDoor c i side d.state changed x p q

/-- The leak line and the four spells of a door: a debounced change of the line starts or stops the leak timer in SEALED and the
clear timer in LEAKING; a confirmed leak makes SEALED LEAKING, a confirmed clear spell makes LEAKING SEALED, and the two long
spells set and clear reseal-wanted with its level alarm (R66 to R68). That the expiry of a timer not running does nothing is the
model's choice (log 2). -/
def Obligations.DoorSpellsExpire : Prop :=
  ∀ (s : State) (c : Configuration) (n i : Nat) (pl : Place) (side : Side),
    s.HasOven c n i pl → s.NoPushOf n →
    let d := pl.door side
    let leak := s.part.level i (.leak side)
    let becomes (e : Instr) (d' : Door) : Prop :=
      ∃ q, s.Runs e q ∧ OvenOnly i s.part q
        ∧ q.places[i]? = some { pl.withDoor side d' with
            oven := { pl.oven with alarms := Claims.held pl.oven.alarms (Claims.resealBit side) d'.resealWanted } }
    (∀ v, s.Spell i (.leak side) v →
      ∃ q, s.Runs (.debounceExpiry (i + 1) (.leak side)) q ∧ OvenOnly i (s.part.withLevel i (.leak side) v) q
        ∧ q.places[i]? = some
          { pl.withDoor side { d with
              leakTimer :=
                if d.state = .sealed then (if v then .running (c.leakOn * 1000) else .stopped) else d.leakTimer
              clearTimer :=
                if d.state = .leaking then (if v then .stopped else .running (c.leakOff * 1000)) else d.clearTimer } with
            oven := { pl.oven with alarms := Claims.held pl.oven.alarms (Claims.resealBit side) d.resealWanted } })
    ∧ (d.leakTimer.active = true → d.state = .sealed →
      becomes (.leakTimerExpiry n side)
        { d with
            state := .leaking, permit := false, leakTimer := .stopped, sealedSpell := .stopped
            clearTimer := if leak then .stopped else .running (c.leakOff * 1000)
            leakingSpell := .running (c.resealAfter * 60000) })
    ∧ (d.clearTimer.active = true → d.state = .leaking →
      becomes (.clearTimerExpiry n side)
        { d with
            state := .sealed, permit := false, clearTimer := .stopped, leakingSpell := .stopped
            leakTimer := if leak then .running (c.leakOn * 1000) else .stopped
            sealedSpell := if d.resealWanted then .running (c.resealAfter * 60000) else .stopped })
    ∧ (d.leakingSpell.active = true →
      becomes (.leakingSpellExpiry n side) { d with leakingSpell := .stopped, resealWanted := true })
    ∧ (d.sealedSpell.active = true →
      becomes (.sealedSpellExpiry n side) { d with sealedSpell := .stopped, resealWanted := false })
    ∧ (d.leakTimer.active = false → s.Ignores (.leakTimerExpiry n side))
    ∧ (d.clearTimer.active = false → s.Ignores (.clearTimerExpiry n side))
    ∧ (d.leakingSpell.active = false → s.Ignores (.leakingSpellExpiry n side))
    ∧ (d.sealedSpell.active = false → s.Ignores (.sealedSpellExpiry n side))

/-! ## Offtakes: sequences and timers -/

/-- A latched door released by the permit decision (R63, R68). -/
def Claims.released (d : Door) : Door :=
  { d with
      state := .released, permit := true, leakTimer := .stopped, clearTimer := .stopped, leakingSpell := .stopped
      sealedSpell := .stopped }

/-- The confirmations of ISOLATE and ASPIRATE, and a lost one: valve-closed opens the cap, cap-open makes REACHED, a lost
confirmation makes REACHED FAILED with its alarm or takes a waiting sequence back to its first step, and all present again make
REACHED. In a push, ISOLATE REACHED releases the latched doors under permit_max and arms a push whose doors are OFF and whose SPOT
is done; a lost confirmation of REACHED aborts it with ISOLATE_FAIL in PREPARE and ARMED, and changes nothing of it in a later stage
(R40, R51, R63, R85, R88, R89). -/
def Obligations.IsolateFollowsItsSwitches : Prop :=
  ∀ (s : State) (c : Configuration) (n i : Nat) (pl : Place),
    s.HasOven c n i pl → pl.oven.inFlight = false → pl.offtake.next = none →
    let o := pl.offtake
    let noRelease : Prop := pl.doorP.state ≠ .released ∧ pl.doorC.state ≠ .released
    let becomes (input : SwitchInput) (v : Bool) (o' : Offtake) (raised : Word16) : Prop :=
      s.Spell i input v →
      ∃ q, s.Runs (.debounceExpiry (i + 1) input) q ∧ OvenOnly i (s.part.withLevel i input v) q
        ∧ q.places[i]? = some { pl with
            offtake := o', oven := { pl.oven with alarms := pl.oven.alarms ||| raised } }
    let opening : Offtake :=
      { o with
          sub := some .moving, awaits := some .capOpen, capOpen := true, valveTimer := .stopped
          capTimer := .running 15000 }
    let reached : Offtake := { o with sub := some .reached, awaits := none, capTimer := .stopped }
    let lost : Offtake := { o with sub := some .failed }
    (s.NoPushOf n → noRelease →
      (o.mode = .isolate → o.awaits = some .valveClosed →
        becomes .valveClosed true
          (if s.part.level i .capOpen then
            { opening with sub := some .reached, awaits := none, capTimer := .stopped } else opening) 0)
      ∧ (o.mode = .isolate → o.awaits = some .capOpen → becomes .capOpen true reached 0)
      ∧ (o.mode = .isolate → o.sub = some .reached →
        becomes .valveClosed false lost 0x0004 ∧ becomes .capOpen false lost 0x0008)
      ∧ (o.mode = .aspirate → o.sub = some .reached → becomes .capClosed false lost 0x0008)
      ∧ (o.mode = .isolate → o.awaits = some .capOpen → o.sub ≠ some .reached →
        becomes .valveClosed false
          { o with
              sub := some .moving, awaits := some .valveClosed, valveTimer := .running 20000, capTimer := .stopped } 0)
      ∧ (o.mode = .isolate → o.sub = some .failed → o.awaits = none →
        (s.part.level i .capOpen = true → becomes .valveClosed true { o with sub := some .reached } 0)
          ∧ (s.part.level i .valveClosed = true → becomes .capOpen true { o with sub := some .reached } 0))
      ∧ (o.mode = .aspirate → o.sub = some .failed → o.awaits = none →
        becomes .capClosed true { o with sub := some .reached } 0))
    ∧ ∀ x, s.part.psq.context = some x → x.oven = n → o.mode = .isolate →
      (s.Spell i .capOpen true → o.awaits = some .capOpen → o.sub ≠ some .reached → x.stage = .prepare →
        let p := s.part.withLevel i .capOpen true
        let y : Context :=
          if pl.doorP.state = .off ∧ pl.doorC.state = .off ∧ x.spotDone = true then
            { x with stage := .armed, armedLimit := .running 600000 }
          else x
        ∃ q pl', s.Runs (.debounceExpiry (i + 1) .capOpen) q ∧ q.places[i]? = some pl'
          ∧ OvenOnly i { p with psq := { p.psq with context := some y } } q
          ∧ pl'.offtake = reached ∧ pl'.oven.kept = pl.oven.kept
          ∧ ∀ side, (pl.door side).state ≠ .released → pl'.door side =
            if ((pl.door side).state = .sealed ∨ (pl.door side).state = .leaking)
                ∧ ∃ v ∈ o.pressure.toList, v ≤ (c.permitMax : Int) then Claims.released (pl.door side)
            else pl.door side)
      ∧ ∀ input, input = .valveClosed ∨ input = .capOpen → s.Spell i input false → o.sub = some .reached →
        let e : Instr := .debounceExpiry (i + 1) input
        let alarmed : Place :=
          { pl with
            offtake := lost
            oven := { pl.oven with
              alarms := pl.oven.alarms ||| if input = .valveClosed then 0x0004 else 0x0008 } }
        (x.stage = .prepare ∨ x.stage = .armed → x.piRequested = false →
          ∃ q, s.Runs e q ∧ Claims.aborts c i alarmed x .isolateFail (s.part.withLevel i input false) q
            ∧ ∀ pl', q.places[i]? = some pl' →
                hasOven pl'.oven.alarms (if input = .valveClosed then .valveFault else .capFault) = true)
        ∧ (noRelease → x.stage ≠ .prepare → x.stage ≠ .armed →
          ∃ q, s.Runs e q ∧ OvenOnly i (s.part.withLevel i input false) q ∧ q.places[i]? = some alarmed)

/-- The offtake's four timers: a motion timer makes FAILED with its alarm, for a charge start also cancels it with CHR CAP and goes
back to ISOLATE, and for a push in PREPARE or ARMED aborts it with ISOLATE_FAIL; the PRESSURE_HIGH timer raises its alarm; the
aspirate hold ends in PI, or in HOLD for a failed sensor (R15, R51, R74, R81, R88, R91, R92). That the expiry of a timer not
running does nothing is the model's choice (log 2). -/
def Obligations.OfftakeTimersExpire : Prop :=
  ∀ (s : State) (c : Configuration) (n i : Nat) (pl : Place), s.HasOven c n i pl →
    let o := pl.offtake
    let becomes (e : Instr) (o' : Offtake) (raised : Word16) : Prop :=
      ∃ q, s.Runs e q ∧ OvenOnly i s.part q
        ∧ q.places[i]? = some { pl with
            offtake := o', oven := { pl.oven with alarms := pl.oven.alarms ||| raised } }
    let valveFailed : Offtake := { o with valveTimer := .stopped, sub := some .failed }
    let capFailed : Offtake := { o with capTimer := .stopped, sub := some .failed }
    (s.NoPushOf n → pl.doorP.state ≠ .released → pl.doorC.state ≠ .released →
      (o.valveTimer.active = true → pl.oven.inFlight = false →
        becomes (.valveMotionTimerExpiry n) valveFailed 0x0004)
      ∧ (o.capTimer.active = true → pl.oven.inFlight = false →
        becomes (.capMotionTimerExpiry n) capFailed 0x0008)
      ∧ (o.capTimer.active = true → pl.oven.inFlight = true → o.mode = .isolate → o.next = some .aspirate →
          o.sub = some .moving →
        ∃ q pl', s.Runs (.capMotionTimerExpiry n) q ∧ OvenOnly i s.part q ∧ q.places[i]? = some pl'
          ∧ pl'.oven = { pl.oven with inFlight := false, alarms := pl.oven.alarms ||| 0x0008 }
          ∧ pl'.offtake.mode = .isolate ∧ pl'.offtake.next = none ∧ pl'.offtake.valve = 0
          ∧ pl'.doorP = pl.doorP ∧ pl'.doorC = pl.doorC
          ∧ (s.part.bli.queue.length < 7 →
              ∃ e ∈ q.bli.queue, e.kind = .chr ∧ e.subject = .oven n ∧ e.payload = [BitVec.ofNat 8 n, 4]))
      ∧ (o.aspirateTimer.active = true →
        becomes (.aspirateHoldExpiry n)
          (if o.sensorFailed then
            { o with
                mode := .hold, sub := none, next := none, awaits := none, valve := c.uFail, capOpen := false
                entryPending := false, valveTimer := .stopped, capTimer := .stopped, highTimer := .stopped
                aspirateTimer := .stopped }
          else
            { o with
                mode := .pi, sub := none, next := none, awaits := none, valve := max c.uMin (min c.uMax o.valve)
                capOpen := false, entryPending := true, valveTimer := .stopped, capTimer := .stopped
                aspirateTimer := .stopped }) 0))
    ∧ (∀ x, s.part.psq.context = some x → x.oven = n → x.stage = .prepare ∨ x.stage = .armed → x.piRequested = false →
        o.mode = .isolate → o.next = none → o.sub ≠ some .failed →
      let fails (e : Instr) (o' : Offtake) (a : OvenAlarm) : Prop :=
        ∃ q, s.Runs e q ∧ Claims.aborts c i { pl with offtake := o' } x .isolateFail s.part q
          ∧ ∀ pl', q.places[i]? = some pl' → hasOven pl'.oven.alarms a = true
      (o.valveTimer.active = true → fails (.valveMotionTimerExpiry n) valveFailed .valveFault)
        ∧ (o.capTimer.active = true → fails (.capMotionTimerExpiry n) capFailed .capFault))
    ∧ (o.highTimer.active = true → becomes (.pressureHighTimerExpiry n) { o with highTimer := .stopped } 0x0002)
    ∧ (o.valveTimer.active = false → s.Ignores (.valveMotionTimerExpiry n))
    ∧ (o.capTimer.active = false → s.Ignores (.capMotionTimerExpiry n))
    ∧ (o.highTimer.active = false → s.Ignores (.pressureHighTimerExpiry n))
    ∧ (o.aspirateTimer.active = false → s.Ignores (.aspirateHoldExpiry n))

/-! ## Samples and control -/

/-- The base setpoint is taken by age, and the door condition lowers it by leak_offset, never below sp_floor and never a base
that lies below it (R69, R75, R76). -/
def Obligations.SetpointFollowsAgeAndDoors : Prop :=
  ∀ (c : Configuration) (age : Nat) (pl : Place),
    (age < c.t1 → baseSetpoint c age = c.spEarly)
    ∧ (c.t1 ≤ age → age < c.t2 → baseSetpoint c age = c.spMid)
    ∧ (c.t1 < c.t2 → c.t2 ≤ age → baseSetpoint c age = c.spLate)
    ∧ setpoint c age false = baseSetpoint c age
    ∧ (c.spFloor ≤ baseSetpoint c age →
        (setpoint c age true : Int) = max (c.spFloor : Int) ((baseSetpoint c age : Int) - (c.leakOffset : Int)))
    ∧ (baseSetpoint c age < c.spFloor → setpoint c age true = baseSetpoint c age)
    ∧ (pl.doorCondition = true ↔ ∃ side, (pl.door side).state = .leaking ∨ (pl.door side).state = .unlatched
        ∨ (pl.door side).state = .off ∨ (pl.door side).state = .fault)

/-- A value clamped into lo to hi. -/
def Claims.clamp (lo hi x : Int) : Int := max lo (min hi x)

/-- The code of the two bytes a transaction reads, and its pressure by the place's zero code and the span (R72, R126). -/
def Claims.code (first second : Byte) : Nat := (first.toNat * 256 + second.toNat) / 16

def Claims.pressure (c : Configuration) (i : Nat) (first second : Byte) : Int :=
  Claims.clamp (-1000) 1000
    ((((Claims.code first second : Int) - ((c.zeroCodes.getD i 0 : Nat) : Int)) * (c.span : Int)).tdiv 4096)

/-- The record after a valid sample, before any control step (R72 to R74). -/
def Claims.validCounted (c : Configuration) (x : Int) (pl : Place) : Offtake :=
  let o := pl.offtake
  { o with
      pressure := some x, invalidCount := 0, validCount := min 4 (o.validCount + 1)
      sensorFailed := o.sensorFailed && decide (o.validCount < 3)
      highTimer :=
        if x ≤ (c.pHigh : Int) then .stopped
        else if o.mode = .pi ∧ o.highTimer = .stopped ∧ hasOven pl.oven.alarms .pressureHigh = false then .running 60000
        else o.highTimer }

/-- The alarms after a valid sample (R73, R74). -/
def Claims.validAlarms (c : Configuration) (x : Int) (pl : Place) : Word16 :=
  let sensed := if pl.offtake.sensorFailed = true ∧ 3 ≤ pl.offtake.validCount then pl.oven.alarms &&& 0xFFFE else pl.oven.alarms
  if x ≤ (c.pHigh : Int) then sensed &&& 0xFFFD else sensed

/-- The record after an invalid sample: the third in a row fails the sensor, and PI becomes HOLD (R72, R73, R92). -/
def Claims.invalidCounted (c : Configuration) (o : Offtake) : Offtake :=
  let counted : Offtake := { o with pressure := none, validCount := 0, invalidCount := min 3 (o.invalidCount + 1) }
  if o.sensorFailed = false ∧ 2 ≤ o.invalidCount then
    if o.mode = .pi then
      { counted with
          sensorFailed := true, mode := .hold, sub := none, next := none, awaits := none, valve := c.uFail
          capOpen := false, entryPending := false, valveTimer := .stopped, capTimer := .stopped
          highTimer := .stopped }
    else { counted with sensorFailed := true }
  else counted

def Claims.invalidAlarms (pl : Place) : Word16 :=
  if pl.offtake.sensorFailed = false ∧ 2 ≤ pl.offtake.invalidCount then pl.oven.alarms ||| 0x0001 else pl.oven.alarms

/-- The part with the scan moved past place i + 1: at the next place, or ended at place K with its count 0 and SAMPLE_PORT
removed (R126, R128). -/
def Claims.scanMoved (c : Configuration) (p : Part) (i : Nat) : Part :=
  if i + 1 < c.ovenCount then p.scanAt c (i + 2)
  else
    { p with
        fls := { p.fls with scan := { p.fls.scan with running := false, nackCount := 0 }, port := [] }
        asr := { p.asr with station := p.asr.station &&& 0xF7 } }

/-- The stop that ends a failed transaction, before what the port sends next (R127). -/
def Claims.stopSent (p : Part) : Part := { p with fls := { p.fls with port := .stop :: p.fls.port } }

/-- The scan is at the place of a local oven. -/
def Claims.scanAtPlace (p : Part) (i : Nat) : Prop :=
  p.fls.scan.running = true ∧ p.fls.scan.place = i + 1 ∧ p.fls.scan.addressNack = false

/-- A valid sample at an oven with no push: counted, its alarms, and by the mode the PI step, the entry step, the entry from
HOLD, or nothing more. An OVS that its alarms offer in PI carries the valve command from before the control step, which makes
no offer (R72 to R74, R77 to R82, R92, R142). -/
def Obligations.ValidSampleControlsTheValve : Prop :=
  ∀ (s : State) (c : Configuration) (n i : Nat) (pl : Place) (first second : Byte),
    s.HasOven c n i pl → s.NoPushOf n → pl.doorP.state ≠ .released → pl.doorC.state ≠ .released →
    Claims.scanAtPlace s.part i → 1 ≤ Claims.code first second → Claims.code first second ≤ 4094 →
    let x := Claims.pressure c i first second
    let o := Claims.validCounted c x pl
    let sampled (o' : Offtake) : Prop :=
      ∃ q, s.Runs (.transactionComplete first second) q ∧ OvenOnly i (Claims.scanMoved c s.part i) q
        ∧ q.places[i]? = some { pl with
            offtake := o', oven := { pl.oven with alarms := Claims.validAlarms c x pl } }
        ∧ q.fls.channels[i]? = s.part.fls.channels[i]?.map fun ch => { ch with buffered := o'.valve }
    let e := Claims.clamp (-500) 500 (x - (setpoint c pl.oven.kept.age pl.doorCondition : Int))
    let prop := ((c.kp : Int) * e).tdiv 8
    let trial := prop + ((o.acc / 64 : Nat) : Int)
    let acc : Nat :=
      if ((c.uMax : Int) ≤ trial ∧ 0 < e) ∨ (trial ≤ (c.uMin : Int) ∧ e < 0) then o.acc
      else (Claims.clamp 0 64000 ((o.acc : Int) + (c.ki : Int) * e)).toNat
    let clamped : Nat := (Claims.clamp c.uMin c.uMax (prop + ((acc / 64 : Nat) : Int))).toNat
    let seed (u : Nat) : Nat := (Claims.clamp 0 64000 (((u : Int) - prop) * 64)).toNat
    let toPi : Prop := o.mode = .hold ∧ (pl.oven.kept.phase = .coking ∨ pl.oven.kept.phase = .ready) ∧ o.sensorFailed = false
    (o.mode = .pi → o.entryPending = false →
      sampled { o with
        acc := acc
        valve :=
          if c.uMin ≤ o.valve ∧ o.valve ≤ c.uMax then max (o.valve - c.slew) (min (o.valve + c.slew) clamped)
          else clamped })
    ∧ (o.mode = .pi → o.entryPending = true → sampled { o with acc := seed o.valve, entryPending := false })
    ∧ (toPi →
        let u := max c.uMin (min c.uMax o.valve)
        c.uMin < c.uMax →
        sampled { o with
          mode := .pi, sub := none, next := none, awaits := none, valve := u, capOpen := false, entryPending := false
          valveTimer := .stopped, capTimer := .stopped, acc := seed u })
    ∧ (o.mode ≠ .pi → ¬toPi → sampled o)
    ∧ (o.mode = .pi → Claims.validAlarms c x pl ≠ pl.oven.alarms → s.part.bli.queue.length < 8 →
        ∃ q, s.Runs (.transactionComplete first second) q
          ∧ ∃ e ∈ q.bli.queue, e.kind = .ovs ∧ e.subject = .oven n
            ∧ e.payload = ovsPayload { pl with
                offtake := o, oven := { pl.oven with alarms := Claims.validAlarms c x pl } })

/-- A sample in PREPARE or ARMED with the offtake ISOLATE REACHED: one at or below permit_max releases each latched door, and
one above it, or an invalid one, takes each RELEASED door back to SEALED (R63 to R65, R127). -/
def Obligations.PermitFollowsTheSample : Prop :=
  ∀ (s : State) (c : Configuration) (i : Nat) (pl : Place) (x : Context) (first second : Byte),
    s.HasOven c x.oven i pl → s.part.psq.context = some x → x.stage = .prepare ∨ x.stage = .armed →
    pl.offtake.mode = .isolate → pl.offtake.sub = some .reached → Claims.scanAtPlace s.part i →
    let v := Claims.pressure c i first second
    let valid : Prop := 1 ≤ Claims.code first second ∧ Claims.code first second ≤ 4094
    let moved := Claims.scanMoved c s.part i
    let decided (e : Instr) (p : Part) (o' : Offtake) (f : Side → Door) : Prop :=
      ∃ q pl', s.Runs e q ∧ OvenOnly i p q ∧ q.places[i]? = some pl'
        ∧ pl'.offtake = o' ∧ pl'.doorP = f .p ∧ pl'.doorC = f .c
        ∧ pl'.oven = { pl.oven with alarms := pl'.oven.alarms }
    let released (side : Side) : Door :=
      let d := pl.door side
      if d.state = .sealed ∨ d.state = .leaking then Claims.released d else d
    let dropped (side : Side) : Door :=
      let d := pl.door side
      if d.state = .released then
        { d with
            state := .sealed, permit := false, clearTimer := .stopped, leakingSpell := .stopped
            leakTimer := if s.part.level i (.leak side) then .running (c.leakOn * 1000) else .stopped
            sealedSpell := if d.resealWanted then .running (c.resealAfter * 60000) else .stopped }
      else d
    (valid → v ≤ (c.permitMax : Int) →
      decided (.transactionComplete first second) moved (Claims.validCounted c v pl) released)
    ∧ (valid → (c.permitMax : Int) < v →
      decided (.transactionComplete first second) moved (Claims.validCounted c v pl) dropped)
    ∧ (¬valid → decided (.transactionComplete first second) moved (Claims.invalidCounted c pl.offtake) dropped)
    ∧ decided .channelByteNack (Claims.stopSent moved) (Claims.invalidCounted c pl.offtake) dropped

/-- An invalid sample, by a code of 0 or 4095 or a channel byte not acknowledged: counted, the third in a row failing the
sensor with PRESSURE_SENSOR, the valve and the accumulator kept unless PI becomes HOLD, and the scan goes on, after a stop for a
byte not acknowledged (R72, R73, R92, R126, R127). That the command does nothing while no scan runs is the model's choice
(log 1), and so is how long the port shows the stop (log 30). -/
def Obligations.InvalidSampleIsCounted : Prop :=
  ∀ (s : State) (c : Configuration) (n i : Nat) (pl : Place) (first second : Byte) (e : Instr),
    s.HasOven c n i pl → pl.doorP.state ≠ .released → pl.doorC.state ≠ .released →
    e = .channelByteNack
      ∨ (e = .transactionComplete first second ∧ (Claims.code first second = 0 ∨ 4095 ≤ Claims.code first second)) →
    (Claims.scanAtPlace s.part i →
      let moved := Claims.scanMoved c s.part i
      ∃ q, s.Runs e q ∧ OvenOnly i (if e = .channelByteNack then Claims.stopSent moved else moved) q
        ∧ q.places[i]? = some { pl with
            offtake := Claims.invalidCounted c pl.offtake
            oven := { pl.oven with alarms := Claims.invalidAlarms pl } })
    ∧ (s.part.fls.scan.running = false → s.Ignores e)

/-- A converter address not acknowledged and a clock held low end the scan with a stop: the sample of its place and of every later
one is invalid; the address-NACK count rises, raising SAMPLE_PORT at 3, in the first case alone (R127, R128). That the command does
nothing while no scan runs (log 1), that a clock held at the last place leaves the count (log 28) and how long the port shows the
stop (log 30) are the model's choices. -/
def Obligations.BrokenScanFailsTheRest : Prop :=
  ∀ (s : State) (c : Configuration) (e : Instr) (address : Bool),
    s.part.config = some c → s.part.PlacesSound →
    e = (if address then .addressNack else .clockHoldTimeout) →
    (∀ pl ∈ s.part.places, pl.doorP.state ≠ .released ∧ pl.doorC.state ≠ .released) →
    (1 ≤ s.part.fls.scan.place → s.part.fls.scan.place ≤ c.ovenCount → s.part.fls.scan.running = true →
      s.part.fls.scan.addressNack = false →
      let count := min 3 (s.part.fls.scan.nackCount + 1)
      ∃ q, s.Runs e q
        ∧ (∀ j, j + 1 < s.part.fls.scan.place → q.places[j]? = s.part.places[j]?)
        ∧ (∀ j pl, s.part.fls.scan.place ≤ j + 1 → s.part.places[j]? = some pl →
            q.places[j]? = some { pl with
              offtake := Claims.invalidCounted c pl.offtake
              oven := { pl.oven with alarms := Claims.invalidAlarms pl } })
        ∧ q.fls.scan = { s.part.fls.scan with
            running := false, addressNack := address
            nackCount := if address then count else s.part.fls.scan.nackCount }
        ∧ q.fls.port = [.stop]
        ∧ q.asr.station = (if address = true ∧ count = 3 then s.part.asr.station ||| 0x08 else s.part.asr.station)
        ∧ q = { s.part with
            places := q.places
            bli := { s.part.bli with queue := q.bli.queue, attempt := q.bli.attempt, offerClock := q.bli.offerClock }
            fls := { s.part.fls with channels := q.fls.channels, scan := q.fls.scan, port := q.fls.port }
            asr := { s.part.asr with station := q.asr.station, relay := q.asr.relay } })
    ∧ (s.part.fls.scan.running = false → s.Ignores e)

/-! ## Valve outputs -/

/-- A channel's output is active while the count is below its applied compare. The period end takes every buffered compare
and begins the count again; no other command changes an applied compare while the part goes on running; the compare match
ends the active part of the period (R124). -/
def Obligations.ValveOutputsFollowTheirCompares : Prop :=
  ∀ s : State,
    (∀ i ch, s.part.fls.channels[i]? = some ch →
      (s.part.valvePin i = true ↔ s.part.fls.pwmCount < ch.applied)
      ∧ (ch.applied < 1000 → s.part.fls.pwmCount ≤ ch.applied →
          ∃ q, s.Runs (.pwmCompareMatch (i + 1)) q ∧ q.valvePin i = false
            ∧ q = { s.part with fls := { s.part.fls with pwmCount := ch.applied } })
      ∧ (1000 ≤ ch.applied ∨ ch.applied < s.part.fls.pwmCount → s.Ignores (.pwmCompareMatch (i + 1))))
    ∧ s.Runs .pwmPeriodEnd { s.part with fls := { s.part.fls with
        pwmCount := 0, channels := s.part.fls.channels.map fun ch => { ch with applied := ch.buffered } } }
    ∧ ∀ i : Instr, i ≠ .pwmPeriodEnd → Claims.startsOrStops i = false →
        ∃ q, s.Runs i q ∧ q.fls.channels.map (fun ch => ch.applied) = s.part.fls.channels.map (fun ch => ch.applied)

/-! ## Car orders -/

/-- The payload of an order's QCO (R98, R150). -/
def Claims.qco (o : Order) : List Byte :=
  match o.kind with
  | .spot n => [BitVec.ofNat 8 o.id, 1, BitVec.ofNat 8 n, 0]
  | .quench t => [BitVec.ofNat 8 o.id, 2, 0, BitVec.ofNat 8 t]
  | .dump => [BitVec.ofNat 8 o.id, 3, 0, 0]
  | .release => [BitVec.ofNat 8 o.id, 4, 0, 0]

/-- The part with other orders, a QUEUED head among them offered to the line (R98). -/
def Claims.headOffered (p : Part) (orders : List Order) : Part :=
  match orders with
  | [] => { p with qou := { p.qou with orders := [] } }
  | o :: more =>
      let sent := p.bli.offer .qco (.order o.id) (Claims.qco o)
      if sent.2 then { p with bli := sent.1, qou := { p.qou with orders := { o with offered := true } :: more } }
      else { p with qou := { p.qou with orders := o :: more } }

/-- In flight: SENT, ACCEPTED, or QUEUED and offered (R106). -/
def Claims.onTheLine (o : Order) : Prop := o.state ≠ .queued ∨ o.offered = true

/-- The DONE deadline of a kind, in milliseconds (R95). -/
def Claims.doneDeadline : OrderKind → Nat
  | .spot _ => 240000
  | .quench _ => 300000
  | .dump => 300000
  | .release => 30000

/-- A car reply: stray for an empty list, another id, an unknown verdict or a head not on the line; ACCEPT starts the DONE
deadline once; DONE and REFUSE of an order that owes no outcome take the head away, REFUSE every order behind it but a
RELEASE too, and the next order is offered (R95, R98, R100 to R103). -/
def Obligations.CarRepliesMoveTheHead : Prop :=
  ∀ (s : State) (c : Configuration) (h : Header) (id verdict reason : Byte),
    isFrom h c c.carStation = true → s.part.config = some c → s.part.qou.Sound →
    (s.part.qou.orders = [] → s.Ignores (.qcr h id verdict reason))
    ∧ ∀ head rest, s.part.qou.orders = head :: rest →
      (head.id ≠ id.toNat ∨ verdict = 0 ∨ verdict.toNat > 3 ∨ ¬Claims.onTheLine head →
        s.Ignores (.qcr h id verdict reason))
      ∧ (head.id = id.toNat → Claims.onTheLine head →
        (verdict = 1 → head.state = .accepted → s.Ignores (.qcr h id verdict reason))
        ∧ (verdict = 1 → head.state ≠ .accepted →
          s.Runs (.qcr h id verdict reason) { s.part with qou := { s.part.qou with
            orders := { head with
              state := .accepted, deadline := .running (Claims.doneDeadline head.kind) } :: rest } })
        ∧ (verdict = 3 → head.owed = false →
          s.Runs (.qcr h id verdict reason) (Claims.headOffered s.part rest))
        ∧ (verdict = 2 → head.owed = false →
          s.Runs (.qcr h id verdict reason)
            (Claims.headOffered s.part (rest.filter fun o => decide (o.kind = .release)))))

/-- The station alarms after a deadline: CAR_TIMEOUT, and HOT_CAR for a QUENCH or a load last heard HOT (R104). -/
def Claims.afterDeadline (p : Part) (head : Order) (set : Byte) : Prop :=
  let hot : Prop := (∃ t, head.kind = .quench t) ∨ ∃ v, p.lvt.car = some v ∧ v.load = .hot
  (hot → set = p.asr.station ||| 0x03) ∧ (¬hot → set = p.asr.station ||| 0x01)

/-- The head's deadline empties the list and raises its alarms. A reply whose outcome no push awaits moves the list alone. The SPOT
outcome owed to a push: in PREPARE, DONE sets spot-done and arms a push whose doors are OFF and whose offtake is ISOLATE REACHED,
and REFUSED and TIMEOUT abort it, leaving a RELEASE alone in the list; in any other stage spot-awaited is cleared and a DONE sets
spot-done (R40, R51, R56, R98, R102 to R106). That the expiry of a deadline not running, or with no orders, does nothing is the
model's choice (log 2), that a SPOT behind an expired order leaves without an outcome is its choice between R104 and R105 (log 33),
and that an outcome in CLOSING reaches the context is its choice between R50 and R56 (log 26). -/
def Obligations.OutcomesReachThePush : Prop :=
  ∀ (s : State) (c : Configuration), s.part.config = some c →
    (s.part.qou.orders = [] → s.Ignores .deadlineExpiry)
    ∧ ∀ (head : Order) (rest : List Order), s.part.qou.orders = head :: rest →
    let replies (e : Instr) (verdict : Byte) : Prop :=
      ∃ h id r, e = .qcr h id verdict r ∧ isFrom h c c.carStation = true ∧ head.id = id.toNat ∧ Claims.onTheLine head
    let releases : List Order := rest.filter fun o => decide (o.kind = .release)
    let timedOut (p : Part) (set : Byte) : Part :=
      { p with
          qou := { p.qou with orders := [] }
          asr := { p.asr with station := set, relay := relayDecision c p.places set p.asr.configFault } }
    let noneAwaited : Prop := ∀ x, s.part.psq.context = some x → x.spotAwaited = false
    (head.deadline.active = false → s.Ignores .deadlineExpiry)
    ∧ (head.deadline.active = true → head.owed = false ∨ noneAwaited →
      ∃ set, Claims.afterDeadline s.part head set ∧ s.Runs .deadlineExpiry (timedOut s.part set))
    ∧ (s.part.qou.Sound → noneAwaited →
      (∀ e, replies e 3 → s.Runs e (Claims.headOffered s.part rest))
      ∧ (∀ e, replies e 2 → s.Runs e (Claims.headOffered s.part releases)))
    ∧ ∀ x, s.part.psq.context = some x → x.spotAwaited = true → head.owed = true → s.part.qou.Sound →
      let withContext (y : Context) : Part := { s.part with psq := { s.part.psq with context := some y } }
      (x.stage ≠ .prepare →
        (∀ e, replies e 3 →
          s.Runs e (Claims.headOffered (withContext { x with spotAwaited := false, spotDone := true }) rest))
        ∧ (∀ e, replies e 2 →
          s.Runs e (Claims.headOffered (withContext { x with spotAwaited := false }) releases))
        ∧ (head.deadline.active = true →
          ∃ set, Claims.afterDeadline s.part head set
            ∧ s.Runs .deadlineExpiry (timedOut (withContext { x with spotAwaited := false }) set)))
      ∧ ∀ i pl, s.HasOven c x.oven i pl → x.stage = .prepare →
        let arms := pl.doorP.state = .off ∧ pl.doorC.state = .off ∧ pl.offtake.mode = .isolate
          ∧ pl.offtake.sub = some .reached
        let heard : Context :=
          if arms then
            { x with spotAwaited := false, spotDone := true, stage := .armed, armedLimit := .running 600000 }
          else { x with spotAwaited := false, spotDone := true }
        (∀ e, replies e 3 → s.Runs e (Claims.headOffered (withContext heard) rest))
        ∧ (x.piRequested = false → ∀ (e : Instr) (reason : AbortReason),
          (e = .deadlineExpiry ∧ reason = .carTimeout ∧ head.deadline.active = true)
            ∨ (replies e 2 ∧ reason = .carRefused) →
          ∃ q, s.Runs e q
            ∧ Claims.aborts c i pl x reason
                { s.part with
                    qou := { s.part.qou with orders := [] }, asr := { s.part.asr with station := q.asr.station } } q
            ∧ (∃ r, q.qou.orders = [r])
            ∧ (e = .deadlineExpiry → Claims.afterDeadline s.part head q.asr.station)
            ∧ (e ≠ .deadlineExpiry → q.asr.station = s.part.asr.station))

/-! ## Views -/

def Claims.activityCode : Activity → Nat
  | .idle => 0
  | .busy => 1
  | .fault => 2

def Claims.loadCode : Load → Nat
  | .empty => 0
  | .hot => 1
  | .quenched => 2

/-- A position in its range (R110). -/
def Claims.inRange (c : Configuration) (n : Nat) : Prop := n ≤ c.batteryOvens ∨ n = 250 ∨ n = 251 ∨ n = 252

/-- An MST fills the view of its station with the fields the view keeps and restarts its freshness; one with a kept field out
of range, or from a station with no view, does nothing; a freshness expiry makes a view stale and keeps its fields
(R110 to R112). -/
def Obligations.MachineViewsFollowTheirStations : Prop :=
  ∀ (s : State) (c : Configuration) (h : Header) (position activity load aligned owner : Byte),
    s.part.config = some c → fromOther h c = true →
    c.pusherStation ≠ c.guideStation → c.pusherStation ≠ c.carStation → c.guideStation ≠ c.carStation →
    let e : Instr := .mst h position activity load aligned owner
    let from' (station : Nat) : Prop := h.station.toNat = station
    let pos := position.toNat
    (from' c.pusherStation → ∀ a, activity.toNat = Claims.activityCode a → Claims.inRange c pos →
      s.Runs e { s.part with lvt := { s.part.lvt with pusher := some ⟨pos, a, .running 3000⟩ } })
    ∧ (from' c.pusherStation → 2 < activity.toNat ∨ ¬Claims.inRange c pos → s.Ignores e)
    ∧ (from' c.guideStation → ∀ a, activity.toNat = Claims.activityCode a → ∀ g : Bool,
        aligned.toNat = g.toNat → Claims.inRange c pos →
      s.Runs e { s.part with lvt := { s.part.lvt with guide := some ⟨pos, a, g, .running 3000⟩ } })
    ∧ (from' c.guideStation → 2 < activity.toNat ∨ 1 < aligned.toNat ∨ ¬Claims.inRange c pos → s.Ignores e)
    ∧ (from' c.carStation → ∀ a, activity.toNat = Claims.activityCode a → ∀ l, load.toNat = Claims.loadCode l →
        owner.toNat ≤ 63 → Claims.inRange c pos →
      s.Runs e { s.part with lvt := { s.part.lvt with car := some ⟨pos, a, l, owner.toNat, .running 3000⟩ } })
    ∧ (from' c.carStation →
        2 < activity.toNat ∨ 2 < load.toNat ∨ 63 < owner.toNat ∨ ¬Claims.inRange c pos → s.Ignores e)
    ∧ (¬from' c.pusherStation → ¬from' c.guideStation → ¬from' c.carStation → s.Ignores e)
    ∧ s.Runs (.machineViewFreshnessExpiry .pusher) { s.part with lvt := { s.part.lvt with
        pusher := s.part.lvt.pusher.map fun v => { v with fresh := .stopped } } }
    ∧ s.Runs (.machineViewFreshnessExpiry .guide) { s.part with lvt := { s.part.lvt with
        guide := s.part.lvt.guide.map fun v => { v with fresh := .stopped } } }
    ∧ s.Runs (.machineViewFreshnessExpiry .car) { s.part with lvt := { s.part.lvt with
        car := s.part.lvt.car.map fun v => { v with fresh := .stopped } } }

/-- Phase codes in state words (R150). -/
def Claims.phaseCode : Phase → Nat
  | .unknown => 0
  | .empty => 1
  | .charging => 2
  | .coking => 3
  | .ready => 4
  | .pushing => 5
  | .out => 6

/-- What other stations report: an OVS fills the neighbour view of oven F - 1 or F + K, or raises SECTION_OVERLAP for a local
oven; a PDN of oven 1 to N is the anchor; an SCS lists, refreshes or removes its station, an addition ending a deferral to
it. Freshness, refresh and settle timers expire (R33, R35, R113 to R119). That an OVS with a phase code outside the seven does nothing,
even for a local oven (log 14), and that the settle expiry does nothing while the timer is not running (log 2), are the model's. -/
def Obligations.ReportsFillTheViews : Prop :=
  ∀ (s : State) (c : Configuration) (h : Header), s.part.config = some c → fromOther h c = true →
    let lvtBecomes (e : Instr) (l : Lvt) : Prop := s.Runs e { s.part with lvt := l }
    (∀ (oven : Byte) (word lateness : Word16) (doors : Byte) (offtake pressure alarms : Word16),
      let e : Instr := .ovs h oven word lateness doors offtake pressure alarms
      let n := oven.toNat
      (word.toNat / 4096 % 8 = 7 → s.Ignores e)
      ∧ ∀ ph, word.toNat / 4096 % 8 = Claims.phaseCode ph →
        let view : NeighbourView := ⟨ph, word.toNat % 4096, .running 6000⟩
        let set := s.part.asr.station ||| 0x40
        ((placeOf c n).isSome = true →
          s.Runs e { s.part with asr := { s.part.asr with
            station := set, relay := relayDecision c s.part.places set s.part.asr.configFault } })
        ∧ (placeOf c n = none → 1 ≤ n → n + 1 = c.firstOven →
            lvtBecomes e { s.part.lvt with lower := some view })
        ∧ (placeOf c n = none → 1 ≤ n → n ≤ c.batteryOvens → n = c.firstOven + c.ovenCount →
            lvtBecomes e { s.part.lvt with upper := some view })
        ∧ (placeOf c n = none → n = 0 ∨ n + 1 ≠ c.firstOven → c.batteryOvens < n ∨ n ≠ c.firstOven + c.ovenCount →
            s.Ignores e))
    ∧ lvtBecomes (.neighbourViewFreshnessExpiry .lower) { s.part.lvt with
        lower := s.part.lvt.lower.map fun v => { v with fresh := .stopped } }
    ∧ lvtBecomes (.neighbourViewFreshnessExpiry .upper) { s.part.lvt with
        upper := s.part.lvt.upper.map fun v => { v with fresh := .stopped } }
    ∧ (∀ oven stroke unpermitted : Byte,
      (1 ≤ oven.toNat → oven.toNat ≤ c.batteryOvens →
        lvtBecomes (.pdn h oven stroke unpermitted) { s.part.lvt with anchor := some oven.toNat })
      ∧ (oven = 0 ∨ c.batteryOvens < oven.toNat → s.Ignores (.pdn h oven stroke unpermitted)))
    ∧ (∀ stage oven reason anchor count head alarms : Byte,
      let e : Instr := .scs h stage oven reason anchor count head alarms
      let n := h.station.toNat
      let others := s.part.lvt.peers.filter fun x => decide (x.station ≠ n)
      let entry : Peer := ⟨n, .running 6000⟩
      let listed : Prop := ∃ x ∈ s.part.lvt.peers, x.station = n
      let bsu : Bsu :=
        if s.part.bsu.round = .deferring ∧ s.part.bsu.deferredTo = some n then
          { s.part.bsu with round := .idle, deferral := .stopped, deferredTo := none }
        else s.part.bsu
      (5 < stage.toNat → s.Ignores e)
      ∧ (stage = 0 → lvtBecomes e { s.part.lvt with peers := others })
      ∧ (1 ≤ stage.toNat → stage.toNat ≤ 5 → listed → lvtBecomes e { s.part.lvt with peers := others ++ [entry] })
      ∧ (1 ≤ stage.toNat → stage.toNat ≤ 5 → ¬listed → s.part.lvt.peers.length < 8 →
          s.Runs e { s.part with
            lvt := { s.part.lvt with peers := s.part.lvt.peers ++ [entry] }, bsu := bsu })
      ∧ (1 ≤ stage.toNat → stage.toNat ≤ 5 → ¬listed → s.part.lvt.peers.length = 8 →
          s.Runs e { s.part with
            lvt := { s.part.lvt with peers := s.part.lvt.peers.tail ++ [entry] }, bsu := bsu }))
    ∧ (∀ n, lvtBecomes (.refreshTimerExpiry n) { s.part.lvt with
        peers := s.part.lvt.peers.filter fun x => decide (x.station ≠ n) })
    ∧ (s.part.lvt.settle.active = true → lvtBecomes .settleTimerExpiry { s.part.lvt with settle := .expired })
    ∧ (s.part.lvt.settle.active = false → s.Ignores .settleTimerExpiry)

/-! ## The battery line -/

/-- An attempt is begun at line idle with the head's frame, never while silent or with one on the line; it is lost to a lower
arbitration field alone; a failed one counts, and the 32nd brings silence, LINE_SILENT and the loss of every OVS and SCS.
Silence ends with the count at 0 (R131, R135). That a field not lower leaves the attempt (log 18), that a verdict on an attempt
does nothing with none on the line (log 1), and that the silent expiry does nothing while not silent (log 2) are the model's
choices. -/
def Obligations.AttemptsBeginAndFail : Prop :=
  ∀ (s : State) (c : Configuration), s.part.config = some c →
    let line (b : Bli) : Part := { s.part with bli := b }
    (∀ head rest, s.part.bli.queue = head :: rest → s.part.bli.attempt = none → s.part.bli.silent.active = false →
      let a : Attempt := ⟨head.kind, head.subject, telegramFrame c.station head.kind head.payload, false⟩
      s.Runs .lineIdleAttempt (line { s.part.bli with attempt := some a }))
    ∧ (s.part.bli.queue = [] ∨ s.part.bli.attempt.isSome = true ∨ s.part.bli.silent.active = true →
        s.Ignores .lineIdleAttempt)
    ∧ (∀ a urgency station, s.part.bli.attempt = some a →
      let lower : Prop := (urgency : Byte).toNat < a.kind.urgency
        ∨ (urgency.toNat = a.kind.urgency ∧ (station : Byte).toNat < c.station)
      c.station < 256 →
      (lower → s.Runs (.lostContention urgency station) (line { s.part.bli with attempt := none }))
      ∧ (¬lower → s.Ignores (.lostContention urgency station)))
    ∧ (∀ a, s.part.bli.attempt = some a →
      (s.part.bli.failed + 1 < 32 →
        s.Runs .attemptFailed (line { s.part.bli with attempt := none, failed := s.part.bli.failed + 1 }))
      ∧ (s.part.bli.failed + 1 = 32 →
        ∃ q, s.Runs .attemptFailed q
          ∧ q.bli.failed = 32 ∧ q.bli.silent = .running 5000 ∧ q.bli.attempt = none
          ∧ q.asr.station = s.part.asr.station ||| 0x04
          ∧ (∀ e ∈ q.bli.queue, e.kind ≠ .ovs ∧ e.kind ≠ .scs)
          ∧ (∀ e ∈ s.part.bli.queue, e.kind ≠ .ovs → e.kind ≠ .scs →
              ∃ e' ∈ q.bli.queue, e'.kind = e.kind ∧ e'.subject = e.subject ∧ e'.offerTime = e.offerTime)
          ∧ q.fls = s.part.fls ∧ q.lvt = s.part.lvt ∧ q.bsu = s.part.bsu ∧ q.psq.context = s.part.psq.context
          ∧ q.places.map (fun pl => pl.oven.kept) = s.part.places.map (fun pl => pl.oven.kept)))
    ∧ (s.part.bli.attempt = none → s.Ignores .attemptFailed ∧ s.Ignores .attemptSucceeded)
    ∧ (s.part.bli.silent.active = true →
        s.Runs .silentExpiry (line { s.part.bli with silent := .stopped, failed := 0 }))
    ∧ (s.part.bli.silent.active = false → s.Ignores .silentExpiry)

/-- The part with its attempt over and heard back: the count 0, LINE_SILENT removed, the entry gone unless an offer has replaced
it (R134). -/
def Claims.heard (c : Configuration) (a : Attempt) (p : Part) : Part :=
  let set := p.asr.station &&& 0xFB
  { p with
      bli := { p.bli with
        attempt := none, failed := 0
        queue := if a.replaced then p.bli.queue
          else p.bli.queue.filter fun e => decide (¬(e.kind = a.kind ∧ e.subject = a.subject)) }
      asr := { p.asr with station := set, relay := relayDecision c p.places set p.asr.configFault } }

/-- A clean echo: the count, LINE_SILENT and the entry go; a BID starts the window, a head's QCO makes it SENT, and a PDN is the
anchor; other telegrams change nothing more. At the removal of the entry a head waiting to be offered is offered; with none
waiting, the CHP of the first CHP-pending oven in CHARGING; with none of these, the first PDN of the pending list
(R14, R28, R49, R98, R99, R115, R134). -/
def Obligations.CleanEchoRemovesTheTelegram : Prop :=
  ∀ (s : State) (c : Configuration) (a : Attempt), s.part.config = some c → s.part.bli.attempt = some a →
    let p := Claims.heard c a s.part
    ((∀ head ∈ s.part.qou.orders.head?, head.state ≠ .queued ∨ head.offered = true) →
      (∀ pl ∈ s.part.places, pl.oven.chpPending = false) → s.part.psq.pendingPdn = [] →
      (a.kind ≠ .bid → a.kind ≠ .qco → a.kind ≠ .pdn → s.Runs .attemptSucceeded p)
      ∧ (a.kind = .bid → s.part.bsu.round = .bidding →
          s.Runs .attemptSucceeded { p with bsu := { s.part.bsu with
            record := s.part.bsu.record.map fun r => { r with window := .running (c.bidWindow * 100) } } })
      ∧ (a.kind = .bid → s.part.bsu.round ≠ .bidding → s.Runs .attemptSucceeded p)
      ∧ (∀ id head rest, a.kind = .qco → a.subject = .order id → s.part.qou.orders = head :: rest → head.id = id →
          head.state = .queued →
          s.Runs .attemptSucceeded { p with qou := { s.part.qou with
            orders := { head with state := .sent, deadline := .running 5000 } :: rest } })
      ∧ (∀ id, a.kind = .qco → a.subject = .order id →
          (∀ head ∈ s.part.qou.orders.head?, head.id ≠ id ∨ head.state ≠ .queued) → s.Runs .attemptSucceeded p)
      ∧ (∀ n, a.kind = .pdn → a.subject = .oven n → 1 ≤ n → n ≤ c.batteryOvens →
          s.Runs .attemptSucceeded { p with lvt := { s.part.lvt with anchor := some n } }))
    ∧ (s.part.bli.Sound → a.replaced = false → (∃ e ∈ s.part.bli.queue, e.kind = a.kind ∧ e.subject = a.subject) →
      let taken (q : Part) (k : Kind) (sub : Subject) (payload : List Byte) : Prop :=
        ∃ e ∈ q.bli.queue, e.kind = k ∧ e.subject = sub ∧ e.payload = payload
      let owesChp (x : Place) : Prop := x.oven.chpPending = true ∧ x.oven.kept.phase = .charging
      (∀ head rest, s.part.qou.orders = head :: rest → head.state = .queued → head.offered = false → a.kind ≠ .qco →
        ∃ q, s.Runs .attemptSucceeded q ∧ q.qou.orders = { head with offered := true } :: rest
          ∧ taken q .qco (.order head.id) (Claims.qco head))
      ∧ ((∀ head ∈ s.part.qou.orders.head?, head.state ≠ .queued ∨ head.offered = true) →
        (∀ (i : Nat) (pl : Place), s.part.places[i]? = some pl → owesChp pl →
          (∀ (j : Nat) (x : Place), j < i → s.part.places[j]? = some x → ¬owesChp x) →
          ∃ q : Part, s.Runs .attemptSucceeded q
            ∧ q.places[i]? = some { pl with oven := { pl.oven with chpPending := false } }
            ∧ taken q .chp (.oven pl.oven.number) [BitVec.ofNat 8 pl.oven.number])
        ∧ (∀ e rest, (∀ x ∈ s.part.places, ¬owesChp x) → s.part.psq.pendingPdn = e :: rest →
          (∀ y ∈ rest, y.oven ≠ e.oven) →
          ∃ q, s.Runs .attemptSucceeded q ∧ (∀ y ∈ q.psq.pendingPdn, y ∈ rest)
            ∧ taken q .pdn (.oven e.oven)
                [BitVec.ofNat 8 e.oven, BitVec.ofNat 8 e.stroke, if e.unpermitted then 1 else 0])))

/-! ## Reports -/

/-- Two bytes, most significant first, and two's complement (R150). -/
def Claims.twoBytes (n : Nat) : List Byte := [BitVec.ofNat 8 (n / 256), BitVec.ofNat 8 n]

def Claims.signedBytes (x : Int) : List Byte := Claims.twoBytes (x % 65536).toNat

def Claims.doorCode : DoorState → Nat
  | .sealed => 0
  | .leaking => 1
  | .released => 2
  | .unlatched => 3
  | .off => 4
  | .fault => 5

def Claims.modeCode : OfftakeMode → Nat
  | .pi => 0
  | .aspirate => 1
  | .isolate => 2
  | .hold => 3

def Claims.subCode : Option SubState → Nat
  | none => 0
  | some .moving => 1
  | some .reached => 2
  | some .failed => 3

/-- The OVS payload of a place (R142, R150). -/
def Claims.ovs (pl : Place) : List Byte :=
  [BitVec.ofNat 8 pl.oven.number]
    ++ Claims.twoBytes ((if pl.oven.kept.hold then 32768 else 0) + Claims.phaseCode pl.oven.kept.phase * 4096
        + pl.oven.kept.age)
    ++ Claims.signedBytes ((pl.oven.kept.age : Int) - (pl.oven.kept.target : Int))
    ++ [BitVec.ofNat 8 (Claims.doorCode pl.doorP.state * 16 + Claims.doorCode pl.doorC.state)]
    ++ Claims.twoBytes (Claims.modeCode pl.offtake.mode * 16384 + Claims.subCode pl.offtake.sub * 4096
        + pl.offtake.valve)
    ++ (match pl.offtake.pressure with
        | none => [0x80, 0x00]
        | some x => Claims.signedBytes x)
    ++ Claims.twoBytes pl.oven.alarms.toNat

def Claims.stageCode : Stage → Nat
  | .prepare => 1
  | .armed => 2
  | .pushing => 3
  | .closing => 4
  | .returning => 5

def Claims.reasonCode : AbortReason → Nat
  | .panel => 1
  | .isolateFail => 2
  | .prepareTime => 3
  | .armedTime => 4
  | .carRefused => 5
  | .carTimeout => 6
  | .carList => 7
  | .doorFault => 8

/-- Kind code in bits 7 to 4, state code in bits 3 to 0, of the head of the order list; 0 without one (R150). -/
def Claims.headByte : List Order → Byte
  | [] => 0
  | o :: _ =>
      BitVec.ofNat 8
        ((match o.kind with
          | .spot _ => 16
          | .quench _ => 32
          | .dump => 48
          | .release => 64)
          + match o.state with
            | .queued => 1
            | .sent => 2
            | .accepted => 3)

/-- The SCS payload of a part (R143, R150). -/
def Claims.scs (p : Part) : List Byte :=
  let push : List Byte :=
    match p.psq.context with
    | none => [0, 0, 0]
    | some x =>
        [BitVec.ofNat 8 (Claims.stageCode x.stage), BitVec.ofNat 8 x.oven,
          match x.reason with
          | none => 0
          | some r => BitVec.ofNat 8 (Claims.reasonCode r)]
  let anchor : Byte :=
    match p.lvt.anchor with
    | none => 0
    | some n => BitVec.ofNat 8 n
  push ++ [anchor, BitVec.ofNat 8 p.qou.orders.length, Claims.headByte p.qou.orders, p.asr.station &&& 0x7F]

/-- The 250 ms expiry starts a scan unless one runs and offers the OVS of the next oven in turn; the SCS period offers an SCS and
starts again (R125, R126, R142, R143, R150). That the expiry of an SCS period not running does nothing is the model's choice (log 2). -/
def Obligations.PeriodicReportsAreOffered : Prop :=
  ∀ (s : State) (c : Configuration), s.part.config = some c →
    (∀ pl, s.part.places[s.part.asr.roundRobin]? = some pl → pl.oven.kept.age ≤ 4095 → pl.offtake.valve ≤ 1000 →
      (∀ x ∈ pl.offtake.pressure.toList, -1000 ≤ x ∧ x ≤ 1000) →
      s.Runs .quarterSecondExpiry { s.part with
        bli := (s.part.bli.offer .ovs (.oven pl.oven.number) (Claims.ovs pl)).1
        fls :=
          if s.part.fls.scan.running then s.part.fls
          else { s.part.fls with
            scan := { s.part.fls.scan with running := true, place := 1, addressNack := false }
            port := [.start, .write c.converterAddress, .byte 0, .repeatedStart, .read c.converterAddress, .readAck,
              .readNack, .stop] }
        asr := { s.part.asr with
          roundRobin := if s.part.asr.roundRobin + 1 < c.ovenCount then s.part.asr.roundRobin + 1 else 0 } })
    ∧ (s.part.asr.scsPeriod.active = true →
      s.Runs .scsPeriodExpiry { s.part with
        bli := (s.part.bli.offer .scs .station (Claims.scs s.part)).1
        asr := { s.part.asr with scsPeriod := .running 2000 } })
    ∧ (s.part.asr.scsPeriod.active = false → s.Ignores .scsPeriodExpiry)

/-! ## Start-up -/

/-- A good block makes the start: every block at its start values, one record per local oven, UNKNOWN and AGE_LOST cold, restored
warm by its phase, doors from their switches, offtakes in ISOLATE or HOLD by the phase (R19, R37, R57, R70, R93, R109,
R120, R122, R138, R142, R143, R145, R147, R148). That the start leaves no telegram queued is read from the rules by inference
(log 6), so is OVERDUE at a warm start (log 21), and what the comparator says of the backup supply is the model's choice
(log 23). -/
def Obligations.StartSetsEveryBlock : Prop :=
  ∀ (s : State) (c : Configuration) (acked : Bool) (block : List Byte) (low : Bool),
    s.part.load = .reading → loadBlock acked block = some c → s.part.fls.inputs.length = 8 →
    let kept := s.part.retained
    let warm : Prop := kept.valid = true ∧ kept.firstOven = c.firstOven ∧ kept.ovenCount = c.ovenCount
    ∃ q, s.Runs (.configLoadComplete acked block low) q
      ∧ q.load = .loaded c ∧ q.retry = .stopped ∧ q.dividers = s.part.dividers ∧ q.mainOn = s.part.mainOn
      ∧ q.backupOn = (s.part.backupOn || !low) ∧ q.resetHeld = s.part.resetHeld
      ∧ q.retained.valid = true ∧ q.retained.firstOven = c.firstOven ∧ q.retained.ovenCount = c.ovenCount
      ∧ q.bsu = ⟨.idle, none, [], .stopped, .stopped, none⟩ ∧ q.psq = ⟨none, []⟩ ∧ q.qou = ⟨[], 1⟩
      ∧ q.lvt = ⟨none, none, none, none, none, none, [], .running 6000⟩ ∧ q.bli.queue = [] ∧ q.bli.attempt = none
      ∧ q.bli.failed = 0 ∧ q.bli.silent = .stopped ∧ q.fls.scan.running = false ∧ q.fls.scan.nackCount = 0
      ∧ q.fls.port = [] ∧ q.asr.scsPeriod = .running 2000 ∧ q.asr.roundRobin = 0 ∧ q.asr.configFault = false
      ∧ (∀ a, hasStation q.asr.station a = true ↔ (a = .retainedLost ∧ ¬warm) ∨ (a = .backupLow ∧ low = true))
      ∧ (∀ ch ∈ q.fls.channels, ch.applied = 0)
      ∧ q.places.length = c.ovenCount
      ∧ ∀ i < c.ovenCount, ∃ pl, q.places[i]? = some pl
        ∧ pl.oven.number = c.firstOven + i ∧ pl.oven.inFlight = false ∧ pl.oven.chpPending = false
        ∧ pl.oven.chargeLimit = .stopped
        ∧ (¬warm → pl.oven.kept = ⟨.unknown, 0, c.targetDefault, false⟩)
        ∧ (∀ r, warm → kept.records[i]? = some r →
            pl.oven.kept = { r with phase :=
              if r.phase = .charging ∨ r.phase = .pushing then .unknown
              else if r.phase = .coking ∨ r.phase = .ready then Claims.byAge c r
              else r.phase }
            ∧ (hasOven pl.oven.alarms .ageLost = true ↔ r.phase = .charging ∨ r.phase = .pushing))
        ∧ (¬warm → hasOven pl.oven.alarms .ageLost = true)
        ∧ (hasOven pl.oven.alarms .doorSwitch = true ↔ pl.doorP.state = .fault ∨ pl.doorC.state = .fault)
        ∧ Claims.overdueIsRight c pl
        ∧ (∀ a, a ≠ .ageLost → a ≠ .doorSwitch → a ≠ .overdue → hasOven pl.oven.alarms a = false)
        ∧ (∀ side, (pl.door side).permit = false ∧ (pl.door side).resealWanted = false
            ∧ (pl.door side).state = Claims.doorOf (s.part.level i (.present side)) (s.part.level i (.latched side))
            ∧ ((pl.door side).leakTimer = if (pl.door side).state = .sealed ∧ s.part.level i (.leak side) = true
                then .running (c.leakOn * 1000) else .stopped))
        ∧ (pl.oven.kept.phase = .empty ∨ pl.oven.kept.phase = .out →
            pl.offtake.mode = .isolate ∧ pl.offtake.next = none ∧ pl.offtake.valve = 0)
        ∧ (pl.oven.kept.phase ≠ .empty → pl.oven.kept.phase ≠ .out →
            pl.offtake.mode = .hold ∧ pl.offtake.valve = c.uFail ∧ pl.offtake.capOpen = false)
        ∧ pl.offtake.pressure = none ∧ pl.offtake.invalidCount = 0 ∧ pl.offtake.validCount = 0
        ∧ pl.offtake.sensorFailed = false ∧ pl.offtake.acc = 0

/-- Everything but the retained domain is at its start values, and every output inactive (R129, R149). -/
def Claims.allStopped (after : Part) : Prop :=
  after.places = [] ∧ after.retry = .stopped
    ∧ after.bsu = ⟨.idle, none, [], .stopped, .stopped, none⟩ ∧ after.psq = ⟨none, []⟩ ∧ after.qou = ⟨[], 1⟩
    ∧ after.lvt = ⟨none, none, none, none, none, none, [], .stopped⟩
    ∧ after.bli.queue = [] ∧ after.bli.attempt = none ∧ after.bli.failed = 0 ∧ after.bli.silent = .stopped
    ∧ after.fls.inputs = List.replicate 8 .fresh ∧ after.fls.scan.running = false
    ∧ (∀ j side, after.permitPin j side = false ∧ after.capPin j = false ∧ after.valvePin j = false)
    ∧ after.asr.station = 0 ∧ after.asr.configFault = false ∧ after.asr.scsPeriod = .stopped

/-- The retained domain keeps what the oven records held (R145). -/
def Claims.retains (before after : Part) : Prop :=
  after.retained.valid = before.retained.valid ∧ after.retained.firstOven = before.retained.firstOven
    ∧ after.retained.ovenCount = before.retained.ovenCount
    ∧ (∀ c, before.load = .loaded c → after.retained.records = before.places.map fun pl => pl.oven.kept)
    ∧ ((∀ c, before.load ≠ .loaded c) → after.retained.records = before.retained.records)

def Claims.partStopped (after : Part) : Prop :=
  Claims.allStopped after ∧ after.load = .absent ∧ after.dividers = none ∧ after.fls.port = []

/-- The read of the configuration memory on the port (R147). -/
def Claims.readSteps : List PortStep :=
  [.start, .write 0x56, .byte 0, .repeatedStart, .read 0x56] ++ List.replicate 85 .readAck ++ [.readNack, .stop]

/-- The part begins: dividers from zero, the configuration read under way, the relay active until it succeeds (R122, R123, R144,
R149). -/
def Claims.partBegins (before after : Part) : Prop :=
  Claims.allStopped after ∧ Claims.retains before after ∧ after.load = .reading ∧ after.dividers = some 0
    ∧ after.fls.port = Claims.readSteps ∧ after.asr.relay = true ∧ after.mainOn = true ∧ after.resetHeld = false
    ∧ after.backupOn = before.backupOn

/-- The field of one byte, and of two, at an offset of a block (R151). -/
def Claims.one (block : List Byte) (k : Nat) : Nat := (block.getD k 0).toNat

def Claims.two (block : List Byte) (k : Nat) : Nat := (block.getD k 0).toNat * 256 + (block.getD (k + 1) 0).toNat

/-- A value clamped into its range (R147). -/
def Claims.within (lo hi v : Nat) : Nat := if v < lo then lo else if hi < v then hi else v

/-- The configuration that a block of 86 bytes holds, every field at its offset (R151) and clamped (R147). -/
def Claims.readFrom (b : List Byte) : Configuration :=
  let one := Claims.one b
  let two := Claims.two b
  { station := one 1, firstOven := one 2, ovenCount := one 3, batteryOvens := one 4, step := one 5
    classOrder := (List.range (min (one 5) 10)).map fun k => one (6 + k)
    targetDefault := Claims.within 600 2400 (two 16), earlyMargin := Claims.within 0 120 (one 18)
    supportAge := Claims.within 0 2400 (two 19), overdueAfter := one 21, bidWindow := Claims.within 5 50 (one 22)
    spEarly := Claims.within 0 300 (two 23), spMid := Claims.within 0 300 (two 25), spLate := Claims.within 0 300 (two 27)
    t1 := Claims.within 0 2400 (two 29), t2 := Claims.within 0 2400 (two 31), leakOffset := one 33, spFloor := one 34
    pHigh := Claims.within 0 1000 (two 35), permitMax := one 37, kp := one 38, ki := one 39
    uMin := Claims.within 0 1000 (two 40), uMax := Claims.within 0 1000 (two 42), slew := Claims.within 1 1000 (two 44)
    uFail := Claims.within 0 1000 (two 46), aspirateHold := Claims.within 0 1800 (two 48)
    span := Claims.within 1 65535 (two 50)
    zeroCodes := [52, 54, 56, 58, 60, 62, 64, 66].map fun k => Claims.within 0 4095 (two k)
    pusherStation := one 68, guideStation := one 69, carStation := one 70, chargerStation := one 71
    panelStations := [72, 73, 74, 75].map one, converterAddress := one 76 % 128
    quenchTime := Claims.within 30 180 (one 77), leakOn := Claims.within 1 255 (one 78)
    leakOff := Claims.within 1 255 (one 79), resealAfter := Claims.within 1 255 (one 80)
    ovenMask := BitVec.ofNat 16 (two 81), stationMask := BitVec.ofNat 8 (one 83) }

/-- The structure test (R147). -/
def Claims.structureHolds (c : Configuration) : Prop :=
  let machines := [c.pusherStation, c.guideStation, c.carStation, c.chargerStation]
  (1 ≤ c.station ∧ c.station ≤ 63) ∧ (8 ≤ c.batteryOvens ∧ c.batteryOvens ≤ 120)
    ∧ (1 ≤ c.firstOven ∧ c.firstOven ≤ c.batteryOvens)
    ∧ (1 ≤ c.ovenCount ∧ c.ovenCount ≤ 8 ∧ c.firstOven + c.ovenCount ≤ c.batteryOvens + 1)
    ∧ (1 ≤ c.step ∧ c.step ≤ 10) ∧ c.classOrder.Perm (List.range c.step)
    ∧ (∀ m ∈ machines, 1 ≤ m ∧ m ≤ 63 ∧ m ≠ c.station) ∧ machines.Nodup
    ∧ (∀ m ∈ c.panelStations, m ≤ 63 ∧ (m ≠ 0 → m ≠ c.station ∧ m ∉ machines))
    ∧ c.t1 < c.t2 ∧ c.uMin < c.uMax

/-- A block loads just when it has come whole and passes the check, version and structure tests, and gives the fields of its
layout, clamped. A failed load raises CONFIG_FAULT, holds the relay active and is tried again after 5 s. The reset line and the main
supply stop all but the retained domain, and the part begins afresh after them; the domain is lost when both supplies are gone
(R123, R129, R144, R145, R147 to R149, R151). The model's choices: a read's end or clock timeout with no read under way does nothing
(log 1), nor does a retry expiry without a failed load (log 2); a block of another length is a failed transfer (log 8); the port shows
nothing after a failed read (log 30); what a supply's loss does to the relay (log 17); the station alarms while there is no
configuration (log 31); a supply applied under a held reset, an edge to the same level, and the loss of the backup supply with the
main supply on, which is remembered (log 23); the copy emptied with retained-valid, and F and K kept (log 4). -/
def Obligations.LoadsFailAndSuppliesStopThePart : Prop :=
  ∀ (s : State) (acked : Bool) (block : List Byte) (low : Bool),
    let failed : Part :=
      { s.part with
          load := .failed, retry := .running 5000, fls := { s.part.fls with port := [] }
          asr := { s.part.asr with configFault := true, relay := true } }
    let sum := ((block.take 84).map fun b => b.toNat).sum % 65536
    (∀ c, loadBlock acked block = some c ↔
        acked = true ∧ block.length = 86 ∧ sum = Claims.two block 84 ∧ Claims.one block 0 = 1
          ∧ Claims.structureHolds (Claims.readFrom block) ∧ c = Claims.readFrom block)
    ∧ (s.part.load = .reading → loadBlock acked block = none →
        s.Runs (.configLoadComplete acked block low) failed)
    ∧ (s.part.load = .reading → s.Runs .configLoadClockTimeout failed)
    ∧ (s.part.load ≠ .reading →
        s.Ignores (.configLoadComplete acked block low) ∧ s.Ignores .configLoadClockTimeout)
    ∧ (s.part.load = .failed → s.part.retry.active = true →
        s.Runs .configRetryExpiry { s.part with
          load := .reading, retry := .stopped, fls := { s.part.fls with port := Claims.readSteps } })
    ∧ (s.part.load ≠ .failed → s.Ignores .configRetryExpiry)
    ∧ (s.part.resetHeld = false → s.part.mainOn = true →
        ∃ q, s.Runs .resetAsserted q ∧ Claims.partStopped q ∧ Claims.retains s.part q ∧ q.mainOn = true
          ∧ q.resetHeld = true ∧ q.asr.relay = true ∧ q.backupOn = s.part.backupOn)
    ∧ (s.part.resetHeld = false → s.part.mainOn = false → s.Runs .resetAsserted { s.part with resetHeld := true })
    ∧ (s.part.resetHeld = true → s.Ignores .resetAsserted)
    ∧ (s.part.resetHeld = true → s.part.mainOn = true →
        ∃ q, s.Runs .resetReleased q ∧ Claims.partBegins s.part q)
    ∧ (s.part.resetHeld = true → s.part.mainOn = false → s.Runs .resetReleased { s.part with resetHeld := false })
    ∧ (s.part.resetHeld = false → s.Ignores .resetReleased)
    ∧ (s.part.mainOn = true →
        (∃ q, s.Runs .mainSupplyLost q ∧ Claims.partStopped q ∧ q.mainOn = false ∧ q.resetHeld = s.part.resetHeld
          ∧ q.asr.relay = false ∧ q.backupOn = s.part.backupOn
          ∧ (s.part.backupOn = true → Claims.retains s.part q)
          ∧ (s.part.backupOn = false → q.retained.valid = false ∧ q.retained.records = []))
        ∧ s.Ignores .mainSupplyApplied ∧ s.Runs .backupSupplyLost { s.part with backupOn := false })
    ∧ (s.part.mainOn = false →
        s.Ignores .mainSupplyLost
        ∧ (s.part.resetHeld = false → ∃ q, s.Runs .mainSupplyApplied q ∧ Claims.partBegins s.part q)
        ∧ (s.part.resetHeld = true →
            ∃ q, s.Runs .mainSupplyApplied q ∧ Claims.partStopped q ∧ Claims.retains s.part q ∧ q.mainOn = true
              ∧ q.resetHeld = true ∧ q.backupOn = s.part.backupOn)
        ∧ s.Runs .backupSupplyLost { s.part with
            backupOn := false, retained := { s.part.retained with valid := false, records := [] } })

/-! ## Switch inputs -/

/-- The 1 ms expiry samples each debounced input by the table of R121, a first level needing the same 50 ms spell; the stability
timer's expiry makes a first level, or any level before the load, without telling it (R121, R122, R129, R144). That the expiry of a
stability timer not running does nothing (log 2) and that the divider counts modulo 1000 (log 20) are the model's choices. -/
def Obligations.MillisecondSamplesThePins : Prop :=
  ∀ (s : State) (pins : Pins),
    (s.part.dividers = none → s.Ignores (.millisecondExpiry pins))
    ∧ (∀ d, s.part.dividers = some d →
      ∃ q, s.Runs (.millisecondExpiry pins) q
        ∧ q = { s.part with
            dividers := some ((d + 1) % 1000), fls := { s.part.fls with inputs := q.fls.inputs } }
        ∧ q.fls.inputs.length = s.part.fls.inputs.length
        ∧ ∀ i x, s.part.fls.inputs[i]? = some x →
          let debounced : Prop :=
            (s.part.config = none → i < 8) ∧ ∀ c, s.part.config = some c → i < c.ovenCount
          ∃ x', q.fls.inputs[i]? = some x' ∧ (¬debounced → x' = x)
            ∧ (debounced → ∀ input,
              let y := x.get input
              let v := pinLevel pins i input
              let runOn : Timer := if y.stability = .stopped then .running 50 else y.stability
              (∀ l, y.level = some l →
                x'.get input = { pin := some v, level := some l, stability := if v = l then .stopped else runOn })
              ∧ (y.level = none →
                x'.get input = { pin := some v, level := none
                                 stability := if y.pin = some v then runOn else .running 50 })))
    ∧ (∀ i x input v, s.part.fls.inputs[i]? = some x → (x.get input).pin = some v →
      ((x.get input).stability.active = true → (x.get input).level = none ∨ s.part.config = none →
        s.Runs (.debounceExpiry (i + 1) input) (s.part.withLevel i input v))
      ∧ ((x.get input).stability.active = false → s.Ignores (.debounceExpiry (i + 1) input)))
end

