-- ==== Sys2Proof/Laws/State.lean ====
section
/-! SUPPORT. One lemma per field that an update of the part touches or leaves, so that no later proof unfolds a record
update; and what each shared operation over the places and the transmit queue can do. -/

namespace Sys2Proof.Machine

open Sys2Proof

/-! ## Running a meaning -/

@[simp] theorem State.update_eq (s : State) (f : Part → Part) : s.update f = .next { s with part := f s.part } := rfl

theorem State.whenLoaded_some {s : State} {c : Configuration} (h : s.part.config = some c)
    (f : Configuration → Part → Part) : s.whenLoaded f = .next { s with part := f c s.part } := by
  simp [State.whenLoaded, h]

theorem State.whenLoaded_none {s : State} (h : s.part.config = none) (f : Configuration → Part → Part) :
    s.whenLoaded f = .next s := by
  simp [State.whenLoaded, h]

/-! ## Fields of the part after an update of a place -/

@[simp] theorem modifyPlace_load (p : Part) (i : Nat) (f : Place → Place) : (p.modifyPlace i f).load = p.load := rfl
@[simp] theorem modifyPlace_config (p : Part) (i : Nat) (f : Place → Place) :
    (p.modifyPlace i f).config = p.config := rfl
@[simp] theorem modifyPlace_mainOn (p : Part) (i : Nat) (f : Place → Place) :
    (p.modifyPlace i f).mainOn = p.mainOn := rfl
@[simp] theorem modifyPlace_backupOn (p : Part) (i : Nat) (f : Place → Place) :
    (p.modifyPlace i f).backupOn = p.backupOn := rfl
@[simp] theorem modifyPlace_retained (p : Part) (i : Nat) (f : Place → Place) :
    (p.modifyPlace i f).retained = p.retained := rfl
@[simp] theorem modifyPlace_bsu (p : Part) (i : Nat) (f : Place → Place) : (p.modifyPlace i f).bsu = p.bsu := rfl
@[simp] theorem modifyPlace_psq (p : Part) (i : Nat) (f : Place → Place) : (p.modifyPlace i f).psq = p.psq := rfl
@[simp] theorem modifyPlace_qou (p : Part) (i : Nat) (f : Place → Place) : (p.modifyPlace i f).qou = p.qou := rfl
@[simp] theorem modifyPlace_lvt (p : Part) (i : Nat) (f : Place → Place) : (p.modifyPlace i f).lvt = p.lvt := rfl
@[simp] theorem modifyPlace_bli (p : Part) (i : Nat) (f : Place → Place) : (p.modifyPlace i f).bli = p.bli := rfl
@[simp] theorem modifyPlace_fls (p : Part) (i : Nat) (f : Place → Place) : (p.modifyPlace i f).fls = p.fls := rfl
@[simp] theorem modifyPlace_asr (p : Part) (i : Nat) (f : Place → Place) : (p.modifyPlace i f).asr = p.asr := rfl

@[simp] theorem modifyPlace_get (p : Part) (i : Nat) (f : Place → Place) :
    (p.modifyPlace i f).places[i]? = p.places[i]?.map f := by
  simp [Part.modifyPlace]

@[simp] theorem modifyPlace_other (p : Part) {i j : Nat} (f : Place → Place) (h : j ≠ i) :
    (p.modifyPlace i f).places[j]? = p.places[j]? := by
  have : i ≠ j := Ne.symm h
  simp [Part.modifyPlace, this]

@[simp] theorem modifyPlace_length (p : Part) (i : Nat) (f : Place → Place) :
    (p.modifyPlace i f).places.length = p.places.length := by
  simp [Part.modifyPlace]

/-! ## Fields of the part after an offer -/

@[simp] theorem offer_load (p : Part) (k : Kind) (s : Subject) (b : List Byte) : (p.offer k s b).load = p.load := rfl
@[simp] theorem offer_config (p : Part) (k : Kind) (s : Subject) (b : List Byte) :
    (p.offer k s b).config = p.config := rfl
@[simp] theorem offer_backupOn (p : Part) (k : Kind) (s : Subject) (b : List Byte) :
    (p.offer k s b).backupOn = p.backupOn := rfl
@[simp] theorem offer_retained (p : Part) (k : Kind) (s : Subject) (b : List Byte) :
    (p.offer k s b).retained = p.retained := rfl
@[simp] theorem offer_places (p : Part) (k : Kind) (s : Subject) (b : List Byte) :
    (p.offer k s b).places = p.places := rfl
@[simp] theorem offer_bsu (p : Part) (k : Kind) (s : Subject) (b : List Byte) : (p.offer k s b).bsu = p.bsu := rfl
@[simp] theorem offer_psq (p : Part) (k : Kind) (s : Subject) (b : List Byte) : (p.offer k s b).psq = p.psq := rfl
@[simp] theorem offer_qou (p : Part) (k : Kind) (s : Subject) (b : List Byte) : (p.offer k s b).qou = p.qou := rfl
@[simp] theorem offer_lvt (p : Part) (k : Kind) (s : Subject) (b : List Byte) : (p.offer k s b).lvt = p.lvt := rfl
@[simp] theorem offer_fls (p : Part) (k : Kind) (s : Subject) (b : List Byte) : (p.offer k s b).fls = p.fls := rfl
@[simp] theorem offer_asr (p : Part) (k : Kind) (s : Subject) (b : List Byte) : (p.offer k s b).asr = p.asr := rfl
@[simp] theorem offer_bli (p : Part) (k : Kind) (s : Subject) (b : List Byte) :
    (p.offer k s b).bli = (p.bli.offer k s b).1 := rfl

@[simp] theorem offerOvs_places (p : Part) (i : Nat) : (p.offerOvs i).places = p.places := by
  unfold Part.offerOvs; split <;> simp
@[simp] theorem offerOvs_psq (p : Part) (i : Nat) : (p.offerOvs i).psq = p.psq := by
  unfold Part.offerOvs; split <;> simp
@[simp] theorem offerOvs_qou (p : Part) (i : Nat) : (p.offerOvs i).qou = p.qou := by
  unfold Part.offerOvs; split <;> simp
@[simp] theorem offerOvs_bsu (p : Part) (i : Nat) : (p.offerOvs i).bsu = p.bsu := by
  unfold Part.offerOvs; split <;> simp
@[simp] theorem offerOvs_lvt (p : Part) (i : Nat) : (p.offerOvs i).lvt = p.lvt := by
  unfold Part.offerOvs; split <;> simp
@[simp] theorem offerOvs_fls (p : Part) (i : Nat) : (p.offerOvs i).fls = p.fls := by
  unfold Part.offerOvs; split <;> simp
@[simp] theorem offerOvs_asr (p : Part) (i : Nat) : (p.offerOvs i).asr = p.asr := by
  unfold Part.offerOvs; split <;> simp
@[simp] theorem offerOvs_config (p : Part) (i : Nat) : (p.offerOvs i).config = p.config := by
  unfold Part.offerOvs; split <;> simp

@[simp] theorem offerOvs_backupOn (p : Part) (i : Nat) : (p.offerOvs i).backupOn = p.backupOn := by
  unfold Part.offerOvs; split <;> simp

/-! ## The backup comparator's report, and the stop on the port -/

@[simp] theorem hearBackup_backupOn (p : Part) (low : Bool) : (p.hearBackup low).backupOn = (p.backupOn || !low) := rfl
@[simp] theorem hearBackup_config (p : Part) (low : Bool) : (p.hearBackup low).config = p.config := rfl
@[simp] theorem hearBackup_retained (p : Part) (low : Bool) : (p.hearBackup low).retained = p.retained := rfl
@[simp] theorem hearBackup_places (p : Part) (low : Bool) : (p.hearBackup low).places = p.places := rfl
@[simp] theorem hearBackup_bsu (p : Part) (low : Bool) : (p.hearBackup low).bsu = p.bsu := rfl
@[simp] theorem hearBackup_psq (p : Part) (low : Bool) : (p.hearBackup low).psq = p.psq := rfl
@[simp] theorem hearBackup_qou (p : Part) (low : Bool) : (p.hearBackup low).qou = p.qou := rfl
@[simp] theorem hearBackup_lvt (p : Part) (low : Bool) : (p.hearBackup low).lvt = p.lvt := rfl
@[simp] theorem hearBackup_bli (p : Part) (low : Bool) : (p.hearBackup low).bli = p.bli := rfl
@[simp] theorem hearBackup_fls (p : Part) (low : Bool) : (p.hearBackup low).fls = p.fls := rfl
@[simp] theorem hearBackup_asr (p : Part) (low : Bool) : (p.hearBackup low).asr = p.asr := rfl

@[simp] theorem sendStop_config (p : Part) : p.sendStop.config = p.config := rfl
@[simp] theorem sendStop_places (p : Part) : p.sendStop.places = p.places := rfl
@[simp] theorem sendStop_psq (p : Part) : p.sendStop.psq = p.psq := rfl
@[simp] theorem sendStop_bli (p : Part) : p.sendStop.bli = p.bli := rfl
@[simp] theorem sendStop_asr (p : Part) : p.sendStop.asr = p.asr := rfl
@[simp] theorem sendStop_inputs (p : Part) : p.sendStop.fls.inputs = p.fls.inputs := rfl
@[simp] theorem sendStop_channels (p : Part) : p.sendStop.fls.channels = p.fls.channels := rfl
@[simp] theorem sendStop_scan (p : Part) : p.sendStop.fls.scan = p.fls.scan := rfl
@[simp] theorem sendStop_port (p : Part) : p.sendStop.fls.port = .stop :: p.fls.port := rfl

/-! ## The relay decision -/

@[simp] theorem decideRelay_places (c : Configuration) (p : Part) : (p.decideRelay c).places = p.places := rfl
@[simp] theorem decideRelay_backupOn (c : Configuration) (p : Part) : (p.decideRelay c).backupOn = p.backupOn := rfl
@[simp] theorem decideRelay_psq (c : Configuration) (p : Part) : (p.decideRelay c).psq = p.psq := rfl
@[simp] theorem decideRelay_bli (c : Configuration) (p : Part) : (p.decideRelay c).bli = p.bli := rfl
@[simp] theorem decideRelay_fls (c : Configuration) (p : Part) : (p.decideRelay c).fls = p.fls := rfl
@[simp] theorem decideRelay_config (c : Configuration) (p : Part) : (p.decideRelay c).config = p.config := rfl
@[simp] theorem decideRelay_relay (c : Configuration) (p : Part) :
    (p.decideRelay c).asr.relay = relayDecision c p.places p.asr.station p.asr.configFault := rfl

/-! ## An offer, said once (R133) -/

/-- Everything an offer can do: replace in place, add to a queue with room, or be refused. -/
theorem offer_cases (b : Bli) (k : Kind) (sub : Subject) (payload : List Byte) :
    ((∃ e ∈ b.queue, e.isItem k sub = true) ∧ (b.offer k sub payload).2 = true
        ∧ (b.offer k sub payload).1 =
          { b with
            queue := b.queue.map fun e => if e.isItem k sub then { e with payload := payload } else e
            attempt := b.attempt.map (·.markReplaced k sub) })
    ∨ ((∀ e ∈ b.queue, e.isItem k sub = false) ∧ b.queue.length < 8 ∧ (b.offer k sub payload).2 = true
        ∧ (b.offer k sub payload).1 =
          { b with
            queue := insertEntry ⟨k, sub, payload, b.offerClock⟩ b.queue
            offerClock := b.offerClock + 1 })
    ∨ ((∀ e ∈ b.queue, e.isItem k sub = false) ∧ 8 ≤ b.queue.length ∧ (b.offer k sub payload).2 = false
        ∧ (b.offer k sub payload).1 = b) := by
  by_cases h : b.queue.any (·.isItem k sub) = true
  · left
    refine ⟨by simpa [List.any_eq_true] using h, ?_, ?_⟩ <;> simp [Bli.offer, h]
  · right
    have h' : ∀ e ∈ b.queue, e.isItem k sub = false := by simpa [List.any_eq_true] using h
    by_cases hl : b.queue.length < 8
    · left; refine ⟨h', hl, ?_, ?_⟩ <;> simp [Bli.offer, h, maxQueue, hl]
    · right; refine ⟨h', by omega, ?_, ?_⟩ <;> simp [Bli.offer, h, maxQueue, hl]

theorem insertEntry_length (e : TxEntry) (q : List TxEntry) : (insertEntry e q).length = q.length + 1 := by
  induction q with
  | nil => rfl
  | cons x xs ih => unfold insertEntry; split <;> simp [ih]

theorem mem_insertEntry {e x : TxEntry} {q : List TxEntry} : x ∈ insertEntry e q ↔ x = e ∨ x ∈ q := by
  induction q with
  | nil => simp [insertEntry]
  | cons y ys ih =>
    unfold insertEntry; split
    · simp
    · simp only [List.mem_cons, ih]; tauto

/-- An inserted entry stands out of a filter that refuses it, and the others keep their order. -/
theorem filter_insertEntry {e : TxEntry} {f : TxEntry → Bool} (h : f e = false) (q : List TxEntry) :
    (insertEntry e q).filter f = q.filter f := by
  induction q with
  | nil => simp [insertEntry, h]
  | cons x xs ih => unfold insertEntry; split <;> simp [List.filter_cons, h, ih]

end Sys2Proof.Machine
end

