-- ==== Sys2Proof/Laws/Frame.lean ====
section
/-! SUPPORT. What the shared operations of one oven leave alone: each of them satisfies `OvenOnly` for its place. -/

namespace Sys2Proof.Machine

open Sys2Proof

theorem OvenOnly.refl (i : Nat) (p : Part) : OvenOnly i p p :=
  ⟨rfl, fun _ _ => rfl, fun _ _ => rfl, rfl, rfl⟩

theorem otherEntries_congr {p q : Part} {i : Nat} (h : q.numberAt i = p.numberAt i) (l : List TxEntry) :
    q.otherEntries i l = p.otherEntries i l := by
  simp [Part.otherEntries, h]

theorem OvenOnly.trans {i : Nat} {p q r : Part} (h : OvenOnly i p q) (k : OvenOnly i q r) : OvenOnly i p r where
  number := k.number.trans h.number
  places j hj := (k.places j hj).trans (h.places j hj)
  channels j hj := (k.channels j hj).trans (h.channels j hj)
  entries := by
    rw [← otherEntries_congr h.number, k.entries, otherEntries_congr h.number, h.entries]
  rest := by rw [k.rest]; rw [h.rest]

/-- An update of the place that keeps its number. -/
theorem OvenOnly.modify (i : Nat) (p : Part) (f : Place → Place) (hf : ∀ pl, (f pl).oven.number = pl.oven.number) :
    OvenOnly i p (p.modifyPlace i f) where
  number := by
    simp only [Part.numberAt, modifyPlace_get, Option.map_map]
    congr 1; funext pl; simp [hf]
  places j hj := modifyPlace_other p f hj
  channels _ _ := rfl
  entries := rfl
  rest := rfl

theorem OvenOnly.writeValve (i : Nat) (p : Part) (u : Nat) : OvenOnly i p (p.writeValve i u) where
  number := rfl
  places _ _ := rfl
  channels j hj := by
    have : i ≠ j := Ne.symm hj
    simp [Part.writeValve, this]
  entries := rfl
  rest := rfl

theorem OvenOnly.decideRelay (c : Configuration) (i : Nat) (p : Part) : OvenOnly i p (p.decideRelay c) :=
  ⟨rfl, fun _ _ => rfl, fun _ _ => rfl, rfl, rfl⟩

/-- An offer about the oven at the place. -/
theorem OvenOnly.offer {i n : Nat} {p : Part} (hn : p.numberAt i = some n) (k : Kind) (b : List Byte) :
    OvenOnly i p (p.offer k (.oven n) b) := by
  have key : p.otherEntries i (p.bli.offer k (.oven n) b).1.queue = p.otherEntries i p.bli.queue
      ∧ (p.bli.offer k (.oven n) b).1 = { p.bli with
          queue := (p.bli.offer k (.oven n) b).1.queue, attempt := (p.bli.offer k (.oven n) b).1.attempt
          offerClock := (p.bli.offer k (.oven n) b).1.offerClock } := by
    rcases offer_cases p.bli k (.oven n) b with ⟨-, -, h⟩ | ⟨-, -, -, h⟩ | ⟨-, -, -, h⟩
    · rw [h]
      refine ⟨?_, rfl⟩
      simp only [Part.otherEntries, hn]
      induction p.bli.queue with
      | nil => rfl
      | cons x xs ih =>
        simp only [List.map_cons, List.filter_cons, ih]
        by_cases hx : x.isItem k (.oven n) = true
        · have : x.subject = .oven n := by
            simp [TxEntry.isItem] at hx; exact hx.2
          simp [hx, this]
        · simp [hx]
    · rw [h]
      exact ⟨filter_insertEntry (by simp [hn]) _, rfl⟩
    · rw [h]; exact ⟨rfl, rfl⟩
  exact ⟨rfl, fun _ _ => rfl, fun _ _ => rfl, key.1, by
    conv => lhs; unfold Part.offer
    rw [key.2]; rfl⟩

theorem numberAt_some {p : Part} {i : Nat} {pl : Place} (h : p.places[i]? = some pl) :
    p.numberAt i = some pl.oven.number := by simp [Part.numberAt, h]

theorem OvenOnly.offerOvs (i : Nat) (p : Part) : OvenOnly i p (p.offerOvs i) := by
  unfold Part.offerOvs
  split
  · exact .refl i p
  · rename_i pl h; exact .offer (numberAt_some h) _ _

theorem OvenOnly.modifyOven (i : Nat) (p : Part) (f : Oven → Oven) (hf : ∀ o, (f o).number = o.number) :
    OvenOnly i p (p.modifyOven i f) := .modify i p _ fun _ => hf _

theorem OvenOnly.setAlarms (c : Configuration) (i : Nat) (set : Word16) (p : Part) :
    OvenOnly i p (setOvenAlarms c i set p) := by
  unfold setOvenAlarms
  split
  · exact .refl i p
  · split
    · exact .refl i p
    · refine OvenOnly.trans (OvenOnly.trans (.modifyOven i p _ ?_) (.decideRelay c i _)) (.offerOvs i _)
      intro _; rfl

theorem OvenOnly.raise (c : Configuration) (i : Nat) (a : OvenAlarm) (p : Part) : OvenOnly i p (raiseOven c i a p) := by
  unfold raiseOven; split
  · exact .refl i p
  · exact .setAlarms c i _ p

theorem OvenOnly.remove (c : Configuration) (i : Nat) (a : OvenAlarm) (p : Part) :
    OvenOnly i p (removeOven c i a p) := by
  unfold removeOven; split
  · exact .refl i p
  · exact .setAlarms c i _ p

theorem OvenOnly.hold (c : Configuration) (i : Nat) (a : OvenAlarm) (on : Bool) (p : Part) :
    OvenOnly i p (holdOven c i a on p) := by
  unfold holdOven; split
  · exact .raise c i a p
  · exact .remove c i a p

theorem OvenOnly.evalOverdue (c : Configuration) (i : Nat) (p : Part) : OvenOnly i p (evalOverdue c i p) := by
  unfold Sys2Proof.Machine.evalOverdue; split
  · exact .refl i p
  · exact .hold c i _ _ p

theorem withDoor_number (pl : Place) (side : Side) (d : Door) : (pl.withDoor side d).oven.number = pl.oven.number := by
  cases side <;> rfl

theorem OvenOnly.commitDoor (c : Configuration) (i : Nat) (side : Side) (d : Door) (p : Part) :
    OvenOnly i p (commitDoor c i side d p) := by
  unfold Sys2Proof.Machine.commitDoor; split
  · exact .refl i p
  · refine OvenOnly.trans ?_ (.hold c i _ _ _)
    have h : OvenOnly i p (p.setDoor i side d) := .modify i p _ fun pl => withDoor_number pl side d
    split
    · exact h
    · exact h.trans (.offerOvs i _)

theorem OvenOnly.permitDecide (c : Configuration) (i : Nat) (side : Side) (p : Part) :
    OvenOnly i p (permitDecide c i side p) := by
  unfold Sys2Proof.Machine.permitDecide; split
  · exact .refl i p
  · dsimp only; split
    · exact .refl i p
    · exact .commitDoor c i side _ p

theorem OvenOnly.permitPass (c : Configuration) (i : Nat) (p : Part) : OvenOnly i p (permitPass c i p) :=
  (OvenOnly.permitDecide c i .p p).trans (.permitDecide c i .c _)

theorem OvenOnly.commitOfftake (i : Nat) (o : Offtake) (p : Part) : OvenOnly i p (commitOfftake i o p) := by
  unfold Sys2Proof.Machine.commitOfftake; split
  · exact .refl i p
  · have h : OvenOnly i p ((p.setOfftake i o).writeValve i o.valve) :=
      OvenOnly.trans (.modify i p _ (by intro _; rfl)) (.writeValve i _ _)
    dsimp only; split
    · exact h
    · exact h.trans (.offerOvs i _)

theorem OvenOnly.settle (c : Configuration) (i : Nat) (o : Offtake) (p : Part) : OvenOnly i p (settleOfftake c i o p) :=
  (OvenOnly.commitOfftake i o p).trans (.permitPass c i _)

theorem OvenOnly.chr {i n : Nat} {p : Part} (hn : p.numberAt i = some n) (r : ChrReason) :
    OvenOnly i p (offerChr n r p) := .offer hn _ _

theorem OvenOnly.ocuPhaseChange (c : Configuration) (i : Nat) (old new : Phase) (p : Part) :
    OvenOnly i p (ocuPhaseChange c i old new p) := by
  unfold Sys2Proof.Machine.ocuPhaseChange; split
  · exact .refl i p
  · exact .settle c i _ p

/-- A change of phase touches its own oven alone. -/
theorem OvenOnly.setPhase (c : Configuration) (i : Nat) (new : Phase) (p : Part) : OvenOnly i p (setPhase c i new p) := by
  unfold Sys2Proof.Machine.setPhase; split
  · exact .refl i p
  · rename_i pl hpl
    split
    · exact .refl i p
    · dsimp only
      have h1 : OvenOnly i p ((p.modifyOven i fun o => o.withPhase new).offerOvs i) :=
        OvenOnly.trans (.modifyOven i p _ (by intro _; rfl)) (.offerOvs i _)
      have h2 := h1.trans (.evalOverdue c i _)
      refine OvenOnly.trans (h2.trans ?_) (.ocuPhaseChange c i _ _ _)
      unfold cancelOnPhase
      split
      · refine (OvenOnly.modifyOven i _ (fun x => { x with inFlight := false }) fun _ => rfl).trans (.chr ?_ _)
        rw [(OvenOnly.modifyOven i _ (fun x => { x with inFlight := false }) fun _ => rfl).number, h2.number,
          numberAt_some hpl]
      · exact .refl i _

theorem OvenOnly.setByAge (c : Configuration) (i : Nat) (p : Part) : OvenOnly i p (setByAge c i p) := by
  unfold Sys2Proof.Machine.setByAge; split
  · exact .refl i p
  · exact .setPhase c i _ p

theorem OvenOnly.setHold (i : Nat) (hold : Bool) (p : Part) : OvenOnly i p (setHold i hold p) := by
  unfold Sys2Proof.Machine.setHold; split
  · exact .refl i p
  · split
    · exact .refl i p
    · exact OvenOnly.trans (.modifyOven i p _ (by intro _; rfl)) (.offerOvs i _)

/-! ## One sample -/

theorem OvenOnly.countSample (c : Configuration) (i : Nat) (x : Int) (p : Part) : OvenOnly i p (countSample c i x p) := by
  unfold Sys2Proof.Machine.countSample; split
  · exact .refl i p
  · dsimp only; split
    · exact (OvenOnly.commitOfftake i _ p).trans (.remove c i _ _)
    · exact .commitOfftake i _ p

theorem OvenOnly.timeSample (c : Configuration) (i : Nat) (x : Int) (p : Part) : OvenOnly i p (timeSample c i x p) := by
  unfold Sys2Proof.Machine.timeSample; split
  · exact .refl i p
  · dsimp only; split
    · exact (OvenOnly.commitOfftake i _ p).trans (.remove c i _ _)
    · exact .commitOfftake i _ p

theorem OvenOnly.controlSample (c : Configuration) (i : Nat) (x : Int) (p : Part) :
    OvenOnly i p (controlSample c i x p) := by
  unfold Sys2Proof.Machine.controlSample; split
  · exact .refl i p
  · dsimp only; split
    · exact .commitOfftake i _ p
    · split
      · exact .commitOfftake i _ p
      · exact .refl i p

/-- A valid sample touches its own oven alone. -/
theorem OvenOnly.validSample (c : Configuration) (i code : Nat) (p : Part) : OvenOnly i p (validSample c i code p) :=
  (((OvenOnly.countSample c i _ p).trans (.timeSample c i _ _)).trans (.controlSample c i _ _)).trans (.permitPass c i _)

/-- So does an invalid one. -/
theorem OvenOnly.invalidSample (c : Configuration) (i : Nat) (p : Part) : OvenOnly i p (invalidSample c i p) := by
  refine OvenOnly.trans ?_ (.permitPass c i _)
  unfold countInvalidSample; split
  · exact .refl i p
  · dsimp only; split
    · have alarmed := fun o => (OvenOnly.commitOfftake i o p).trans (.raise c i .pressureSensor _)
      split
      · exact (alarmed _).trans (.commitOfftake i _ _)
      · exact alarmed _
    · exact .commitOfftake i _ p

end Sys2Proof.Machine
end

