-- ==== Sys2Proof/Tests/Slice0.lean ====
section
/-! SUPPORT. Tests of the model: ill-formed operands, telegram frames written out from R150, the spec's worked cases, and
for the hypotheses of each statement a state and operands that meet them. Expected values come from the spec or by hand from
its rules. -/

namespace Sys2Proof.Tests

set_option Elab.async false
set_option synthInstance.maxSize 4000
set_option synthInstance.maxHeartbeats 200000

open Sys2Proof Sys2Proof.Machine

/-! ## WellFormed -/

/-- A header with an urgency above 15, and with a station outside 1 to 63. -/
def loud : Header := ⟨16, 1, true⟩
def nobody : Header := ⟨5, 0, true⟩
def tooHigh : Header := ⟨5, 64, true⟩

theorem test_headers_are_checked :
    ¬loud.WellFormed ∧ ¬nobody.WellFormed ∧ ¬tooHigh.WellFormed ∧ (⟨15, 63, false⟩ : Header).WellFormed := by decide +kernel

theorem test_every_telegram_checks_its_header : ∀ i ∈
    [Instr.pnlHold loud 1, .pnlRelease nobody 1, .pnlOut tooHigh 1, .pnlIn loud 1, .pnlTarget nobody 1 0,
      .pnlDeclare tooHigh 1 0 3, .pnlAbort loud 1, .pnlClear nobody 1, .cha tooHigh 1, .che loud 1, .bid nobody 1 0,
      .pas tooHigh 1, .rms loud 1, .rmh nobody 1 1, .qcr tooHigh 1 1 0, .mst loud 0 0 0 0 0, .ovs nobody 1 0 0 0 0 0 0,
      .pdn tooHigh 1 0 0, .scs loud 0 0 0 0 0 0 0, .lostContention 16 1, .lostContention 1 0, .lostContention 1 64],
    ¬i.WellFormed := by
  simp [Instr.WellFormed, Header.WellFormed, loud, nobody, tooHigh]

theorem test_every_number_is_checked : ∀ i ∈
    [Instr.chargeLimitExpiry 0, .leakTimerExpiry 121 .p, .clearTimerExpiry 0 .c, .leakingSpellExpiry 121 .p,
      .sealedSpellExpiry 0 .c, .valveMotionTimerExpiry 121, .capMotionTimerExpiry 0, .pressureHighTimerExpiry 121,
      .aspirateHoldExpiry 0, .debounceExpiry 0 .capOpen, .debounceExpiry 9 .capOpen, .pwmCompareMatch 0,
      .pwmCompareMatch 9, .refreshTimerExpiry 0, .refreshTimerExpiry 64, .configLoadComplete true [] false],
    ¬i.WellFormed := by
  simp [Instr.WellFormed, wellFormedOven, wellFormedPlace]

/-! ## Frames, written out by the layouts of R150, the check worked by its shift register -/

theorem test_frame_pas : decodeFrame [0x05, 0x01, 0x18, 0x01, 0x16, 0xEF, 0xEB] = some (.pas ⟨5, 1, true⟩ 22) := by decide +kernel

theorem test_frame_rmh :
    decodeFrame [0x05, 0x01, 0x1A, 0x02, 0x16, 0x5E, 0xE8, 0xC2] = some (.rmh ⟨5, 1, true⟩ 22 94) := by decide +kernel

theorem test_frame_panel_target : decodeFrame [0x05, 0x32, 0x38, 0x05, 0x05, 0x17, 0x04, 0xEC, 0x00, 0xCF, 0x27]
    = some (.pnlTarget ⟨5, 50, true⟩ 23 1260) := by decide +kernel

theorem test_frame_bid : decodeFrame [0x04, 0x0C, 0x12, 0x03, 0x2B, 0x00, 0x0C, 0x57, 0x55]
    = some (.bid ⟨4, 12, true⟩ 43 12) := by decide +kernel

theorem test_frame_mst : decodeFrame [0x06, 0x03, 0x08, 0x05, 0xFC, 0x00, 0x00, 0x00, 0x07, 0x9E, 0xB9]
    = some (.mst ⟨6, 3, true⟩ 252 0 0 0 7) := by decide +kernel

theorem test_frame_scs : decodeFrame [0x08, 0x0C, 0x11, 0x07, 0x01, 0x2B, 0x00, 0x0D, 0x01, 0x13, 0x00, 0xF8, 0x67]
    = some (.scs ⟨8, 12, true⟩ 1 43 0 13 1 0x13 0) := by decide +kernel

theorem test_frame_pdn : decodeFrame [0x04, 0x0C, 0x13, 0x03, 0x2B, 0x3C, 0x00, 0x7C, 0x70]
    = some (.pdn ⟨4, 12, true⟩ 43 60 0) := by decide +kernel

theorem test_frame_qcr : decodeFrame [0x05, 0x03, 0x29, 0x03, 0x09, 0x03, 0x00, 0xB6, 0x5F]
    = some (.qcr ⟨5, 3, true⟩ 9 3 0) := by decide +kernel

theorem test_frame_cha : decodeFrame [0x06, 0x04, 0x32, 0x01, 0x15, 0xCC, 0x18] = some (.cha ⟨6, 4, true⟩ 21) := by decide +kernel

/-- A wrong check is carried in the header; a wrong length or kind is no telegram (R136, R150). -/
theorem test_frame_bad_check :
    decodeFrame [0x06, 0x04, 0x32, 0x01, 0x15, 0xCC, 0x19] = some (.cha ⟨6, 4, false⟩ 21)
      ∧ decodeFrame [0x06, 0x04, 0x32, 0x02, 0x15, 0xCC, 0x18] = none
      ∧ decodeFrame [0x06, 0x04, 0x3F, 0x01, 0x15, 0xCC, 0x18] = none := by decide +kernel

/-- No row of the table has bits. -/
theorem test_no_row_has_bits : decodeTableWord 8 0 = none ∧ decodeTableWord 0 0 = none := by decide +kernel

/-! ## A section to test: station 7, N = 65, S = 10, ovens 21 to 23, the values of the worked cases -/

def cfg : Configuration :=
  { station := 7, firstOven := 21, ovenCount := 3, batteryOvens := 65, step := 10
    classOrder := [0, 2, 4, 6, 8, 1, 3, 5, 7, 9]
    targetDefault := 1200, earlyMargin := 30, supportAge := 400, overdueAfter := 20, bidWindow := 20
    spEarly := 160, spMid := 100, spLate := 30, t1 := 240, t2 := 900, leakOffset := 30, spFloor := 40
    pHigh := 400, permitMax := 20, kp := 24, ki := 12, uMin := 50, uMax := 1000, slew := 40, uFail := 300
    aspirateHold := 600, span := 2000, zeroCodes := List.replicate 8 2048
    pusherStation := 1, guideStation := 2, carStation := 3, chargerStation := 4, panelStations := [50, 51, 0, 0]
    converterAddress := 0x48, quenchTime := 90, leakOn := 20, leakOff := 45, resealAfter := 30
    ovenMask := 0x0C42, stationMask := 0x43 }

def quick : Configuration := { cfg with aspirateHold := 0 }

def pusher : Header := ⟨5, 1, true⟩
def guide : Header := ⟨5, 2, true⟩
def car : Header := ⟨5, 3, true⟩
def charger : Header := ⟨5, 4, true⟩
def panel : Header := ⟨5, 50, true⟩
def peer : Header := ⟨5, 12, true⟩

def doorIn (state : DoorState) : Door :=
  { state := state, permit := state == .released, leakTimer := .stopped, clearTimer := .stopped
    leakingSpell := .stopped, sealedSpell := .stopped, resealWanted := false }

def offtakeIn (mode : OfftakeMode) (sub : Option SubState) (valve : Nat) (capOpen : Bool) : Offtake :=
  { Offtake.held cfg with mode := mode, sub := sub, valve := valve, capOpen := capOpen }

/-- The offtake a phase calls for, at rest (R84). -/
def offtakeOf : Phase → Offtake
  | .unknown => offtakeIn .hold none 300 false
  | .empty => offtakeIn .isolate (some .reached) 0 true
  | .charging => offtakeIn .aspirate (some .reached) 1000 false
  | .coking => offtakeIn .pi none 495 false
  | .ready => offtakeIn .pi none 495 false
  | .pushing => offtakeIn .isolate (some .reached) 0 true
  | .out => offtakeIn .isolate (some .reached) 0 true

def place (n : Nat) (phase : Phase) : Place :=
  { oven :=
      { number := n, kept := ⟨phase, 1200, 1200, false⟩, alarms := 0, inFlight := false, chpPending := false
        chargeLimit := .stopped }
    doorP := doorIn .sealed, doorC := doorIn .sealed, offtake := offtakeOf phase }

def input (level : Bool) : Input := { pin := some level, level := some level, stability := .stopped }

/-- Latched doors; the cap as its command has it. -/
def inputsOf (pl : Place) : PlaceInputs :=
  { valveClosed := input (pl.offtake.valve == 0), capOpen := input pl.offtake.capOpen
    capClosed := input (!pl.offtake.capOpen)
    presentP := input true, latchedP := input true, leakP := input false
    presentC := input true, latchedC := input true, leakC := input false }

/-- A part loaded with `cfg` and three places, at rest. -/
def partOf (ps : List Place) : Part :=
  { Part.reset with
    load := .loaded cfg, places := ps
    lvt := { Lvt.start with settle := .expired }
    fls :=
      { Fls.start with
        inputs := ps.map inputsOf ++ List.replicate 5 .fresh
        channels := (ps.map fun pl => (⟨pl.offtake.valve, pl.offtake.valve⟩ : Channel)) ++ List.replicate 5 ⟨0, 0⟩ }
    asr := { Asr.start with relay := false, scsPeriod := .running 2000 } }

/-- Oven 22 in the middle, its neighbours COKING. -/
def partWith (pl : Place) : Part := partOf [place 21 .coking, pl, place 23 .coking]

def stateOf (p : Part) : State := { pending := [], part := p }

def stateIn (phase : Phase) : State := stateOf (partWith (place 22 phase))

def contextIn (stage : Stage) : Context :=
  { oven := 22, stage := stage, prepareLimit := .stopped, armedLimit := .stopped, rmhLimit := .stopped
    doorLimit := .stopped, spotDone := false, spotAwaited := false, permit := .stopped, unpermitted := false
    piRequested := false, stroke := none, reason := none }

def withContext (x : Context) (p : Part) : Part := { p with psq := { p.psq with context := some x } }

/-- Oven 22 in a push. -/
def pushState (x : Context) (pl : Place) : State := stateOf (withContext x (partWith pl))

/-- An input of a place whose 50 ms spell is over. -/
def spelling (i : Nat) (which : SwitchInput) (v : Bool) (p : Part) : Part :=
  let spell (x : PlaceInputs) : PlaceInputs := x.set which ⟨some v, some (!v), .running 50⟩
  { p with fls := { p.fls with inputs := p.fls.inputs.modify i spell } }

def after (i : Instr) (s : State) : Part :=
  match exec i s with
  | .next t => t.part
  | _ => s.part

/-! ## Worked cases -/

/-- "A battery of 65 ovens with step 10": positions. -/
theorem test_positions :
    [13, 23, 43, 60, 1, 21, 22, 24, 25, 26].map (seriesPosition cfg) = [8, 9, 11, 64, 0, 2, 35, 42, 16, 49] := by decide +kernel

/-- "Distances from three anchors". -/
theorem test_distances :
    [23, 43, 13, 21, 22].map (distance cfg (some 13)) = [0, 2, 64, 58, 26]
      ∧ [1, 11].map (distance cfg (some 60)) = [0, 1] ∧ distance cfg none 22 = 35 := by decide +kernel

/-- "A round decided on the line": the key (0, 5, 23) beats (2, -12, 43), which beats (9, -30, 45). -/
theorem test_keys :
    (bidKey cfg (some 13) 23 (-5)).beats (bidKey cfg (some 13) 43 12) = true
      ∧ (bidKey cfg (some 13) 45 30).beats (bidKey cfg (some 13) 43 12) = false := by decide +kernel

/-- "Three conversions". -/
theorem test_conversions :
    convert cfg 0 2315 = 130 ∧ convert cfg 0 1900 = -72
      ∧ convert { cfg with span := 4000, zeroCodes := [100] } 0 3500 = 1000 := by decide +kernel

/-- "Setpoints". -/
theorem test_setpoints :
    [setpoint cfg 120 false, setpoint cfg 120 true, setpoint cfg 300 true, setpoint cfg 900 false,
      setpoint cfg 900 true, setpoint { cfg with spMid := 60 } 300 true] = [160, 130, 70, 30, 30, 40] := by decide +kernel

/-- "A normal step", and the first two samples of "A leaking door and a saturated valve". -/
theorem test_pi_steps :
    let o := { offtakeIn .pi none 470 false with acc := 25600 }
    let a := o.piStep cfg 100 130
    let b := a.piStep cfg 70 620
    let d := (b.piStep cfg 70 620).piStep cfg 70 60
    (a.acc, a.valve) = (25960, 495) ∧ (b.acc, b.valve) = (25960, 535) ∧ (d.acc, d.valve) = (25840, 535) := by decide +kernel

/-- "Three entries": from ASPIRATE, from HOLD and from ISOLATE. -/
theorem test_entries :
    let narrow := { cfg with uMax := 900 }
    let a := (offtakeIn .aspirate (some .reached) 1000 false).enterPi narrow
    let b := a.control narrow 120 150
    let d := ((offtakeIn .hold none 300 false).enterPi narrow).control narrow 100 90
    let e := ((offtakeIn .isolate (some .moving) 0 false).enterPi cfg).control cfg 100 180
    (a.valve, a.entryPending) = (900, true) ∧ (b.acc, b.valve, b.entryPending) = (51840, 900, false)
      ∧ (d.acc, d.valve) = (21120, 300) ∧ (e.acc, e.valve) = (0, 50)
      ∧ (e.piStep cfg 100 175).valve = 90 := by decide +kernel

/-- "Two offtake states in an OVS". -/
theorem test_ovs_payload :
    let pl := { place 23 .ready with
      oven := { (place 23 .ready).oven with kept := ⟨.ready, 1188, 1200, true⟩ }
      doorC := doorIn .leaking
      offtake := { offtakeIn .pi none 495 false with pressure := some 130 } }
    let later := { pl with
      oven := { pl.oven with kept := ⟨.pushing, 1188, 1200, true⟩ }
      offtake := offtakeIn .isolate (some .reached) 0 true }
    ovsPayload pl = [23, 0xC4, 0xA4, 0xFF, 0xF4, 0x01, 0x01, 0xEF, 0x00, 0x82, 0, 0]
      ∧ (ovsPayload later).take 3 = [23, 0xD4, 0xA4] ∧ ((ovsPayload later).drop 6).take 4 = [0xA0, 0x00, 0x80, 0x00] := by
  decide +kernel

/-- "A warm start after a five-hour outage": phases after the start, and the ages it lost. OVERDUE holds for oven 21 too, by
R4, which the case's table leaves out (log 21). -/
theorem test_warm_start :
    [(⟨.coking, 1300, 1200, false⟩ : Retained), ⟨.charging, 1210, 1200, false⟩, ⟨.ready, 1550, 1200, true⟩,
        ⟨.pushing, 1190, 1200, false⟩].map (fun r => ((r.restored cfg).phase, r.losesAge, (r.restored cfg).isOverdue cfg))
      = [(.ready, false, true), (.unknown, true, false), (.ready, false, true), (.unknown, true, false)] := by decide +kernel

/-! ## States for the hypotheses of the statements -/

/-- Eight telegrams of ovens 1 to 8. -/
def fullLine : Bli := (List.range 8).foldl (fun b n => (b.offer .prf (.oven (n + 1)) [0, 1]).1) Bli.start

/-- The views a round needs: the car idle, empty and unowned in the park, the pusher at oven 22, the guide aligned. -/
def views : Lvt :=
  { Lvt.start with
    settle := .expired
    pusher := some ⟨22, .idle, .running 3000⟩
    guide := some ⟨22, .idle, true, .running 3000⟩
    car := some ⟨22, .idle, .empty, 0, .running 3000⟩ }

def order (id : Nat) (kind : OrderKind) (state : OrderState) (owed : Bool) : Order :=
  { id := id, kind := kind, state := state, offered := decide (state ≠ .queued), owed := owed
    deadline := if state = .queued then .stopped else .running 5000 }

def withOrders (orders : List Order) (p : Part) : Part := { p with qou := { orders := orders, nextId := 9 } }

/-- A list with no room. -/
def fullList : List Order := List.replicate 4 (order 5 .dump .queued false)

/-- Oven 22 in PUSHING with both doors OFF. -/
def opened : Place := { place 22 .pushing with doorP := doorIn .off, doorC := doorIn .off }

/-- A charge start in flight at oven 22, its cap closing. -/
def closing : Place :=
  { place 22 .empty with
    oven := { (place 22 .empty).oven with inFlight := true }
    offtake :=
      { offtakeIn .isolate (some .moving) 0 false with
        next := some .aspirate, awaits := some .capClosed, capTimer := .running 15000 } }

/-- Oven 22 in RETURN, its cap closing toward PI. -/
def returning : Place :=
  { place 22 .pushing with
    offtake :=
      { offtakeIn .isolate (some .moving) 0 false with
        next := some .pi, awaits := some .capClosed, capTimer := .running 15000 } }

/-- A push in PREPARE for oven 22, its doors RELEASED and a sample under permit_max: every promise of `Part.Sound` holds. -/
def busy : Part :=
  let pl : Place :=
    { place 22 .pushing with
      doorP := doorIn .released, doorC := doorIn .released
      offtake := { offtakeIn .isolate (some .reached) 0 true with pressure := some 3 } }
  withOrders [order 8 (.spot 22) .accepted true]
    (withContext { contextIn .prepare with prepareLimit := .running 900000, spotAwaited := true } (partWith pl))

/-- The hypotheses of every invariant statement, QueueStaysOrdered to RelayFollowsTheDecision, and a step to a next state. -/
theorem witness_invariants :
    busy.Sound ∧ ∃ t, step { stateOf busy with pending := [.minuteExpiry] } = .next t :=
  ⟨by decide +kernel, _, rfl⟩

/-! ## The hypotheses of each statement are met -/

theorem witness_StepRunsTheFrontCommand :
    ({ stateOf busy with pending := [.minuteExpiry, .windowExpiry] } : State).pending = .minuteExpiry :: [.windowExpiry]
      ∧ State.reset.pending = [] := ⟨rfl, rfl⟩

theorem witness_CommandsAnswerOrAreIgnored :
    State.reset.part.config = none ∧ Claims.reachesUnloaded .windowExpiry = false ∧ busy.config = some cfg
      ∧ payloadOfCommand (.cha ⟨5, 4, false⟩ 22) = some (⟨5, 4, false⟩, .cha, [22])
      ∧ payloadOfCommand (.bid ⟨4, 7, true⟩ 43 0) = some (⟨4, 7, true⟩, .bid, [43, 0, 0]) ∧ cfg.station = 7
      ∧ payloadOfCommand (.pnlHold pusher 22) = some (pusher, .pnl, [1, 22, 0, 0, 0])
      ∧ ¬Claims.senderOf cfg .pnl 1 ∧ ¬Claims.senderOf cfg .pnl 0 :=
  ⟨rfl, rfl, rfl, rfl, by decide +kernel, rfl, rfl, fun h => absurd h.2 (by decide), fun h => h.1 rfl⟩

theorem witness_FramesReadBack :
    (Instr.pas pusher 22).WellFormed
      ∧ encodeFrame (.pas pusher 22) = some [0x05, 0x01, 0x18, 0x01, 0x16, 0xEF, 0xEB] := by decide +kernel

theorem witness_OffersAreTakenByTheQueue :
    fullLine.Sound ∧ Bli.start.Sound ∧ (∃ e ∈ fullLine.queue, e.kind = .prf ∧ e.subject = .oven 8)
      ∧ (∀ e ∈ fullLine.queue, ¬(e.kind = .ppm ∧ e.subject = .oven 8)) ∧ fullLine.queue.length = 8
      ∧ Bli.start.queue.length < 8 := by decide +kernel

theorem witness_MinuteAgesTheOvens : busy.config = some cfg ∧ State.reset.part.config = none := ⟨rfl, rfl⟩

theorem witness_HoldAndReleaseSetTheFlag :
    isFromPanel panel cfg = true ∧ (stateIn .ready).HasOven cfg (22 : Byte).toNat 1 (place 22 .ready) := by decide +kernel

theorem witness_PanelOutTakesTheOvenOut :
    isFromPanel panel cfg = true
      ∧ (∀ ph ∈ [Phase.empty, .unknown, .coking], (stateIn ph).HasOven cfg (22 : Byte).toNat 1 (place 22 ph)
        ∧ (stateIn ph).NoPushOf (22 : Byte).toNat) := by decide +kernel

/-- The commands that other phases ignore find the PUSHING oven in the push context (R8, R9, R11, R17). -/
theorem witness_ignoredInAPush :
    let s := pushState (contextIn .pushing) opened
    s.HasOven cfg (22 : Byte).toNat 1 opened ∧ ¬s.NoPushOf (22 : Byte).toNat ∧ opened.oven.kept.phase = .pushing
      ∧ s.part.PlacesSound := by decide +kernel

theorem test_ignoredInAPush :
    let s := pushState (contextIn .pushing) opened
    ∀ i ∈ [Instr.pnlOut panel 22, .pnlIn panel 22, .pnlDeclare panel 22 1170 3, .che charger 22], after i s = s.part := by
  decide +kernel

theorem test_panelOut : (after (.pnlOut panel 22) (stateIn .empty)).phaseAt 1 = some .out := by decide +kernel

/-- Both neighbours local and closed; the first oven of the section needs its view. -/
theorem witness_PanelInTestsTheNeighbours :
    isFromPanel panel cfg = true ∧ (stateIn .out).HasOven cfg (22 : Byte).toNat 1 (place 22 .out)
      ∧ (stateIn .out).NoPushOf (22 : Byte).toNat ∧ (stateIn .out).part.PlacesSound
      ∧ (place 22 .out).oven.kept.phase = .out
      ∧ (stateOf (partOf [place 21 .out, place 22 .coking, place 23 .coking])).HasOven cfg (21 : Byte).toNat 0
        (place 21 .out) := by decide +kernel

theorem test_panelIn :
    (after (.pnlIn panel 22) (stateIn .out)).phaseAt 1 = some .empty
      ∧ (after (.pnlIn panel 21) (stateOf (partOf [place 21 .out, place 22 .coking, place 23 .coking]))).phaseAt 0
        = some .out := by decide +kernel

theorem witness_PanelTargetSetsByAge :
    isFromPanel panel cfg = true ∧ (stateIn .ready).HasOven cfg (22 : Byte).toNat 1 (place 22 .ready)
      ∧ (stateIn .ready).NoPushOf (22 : Byte).toNat := by decide +kernel

/-- Age 1200 against 1260 - 30. -/
theorem test_panelTarget : (after (.pnlTarget panel 22 1260) (stateIn .ready)).phaseAt 1 = some .coking := by
  decide +kernel

theorem witness_PanelDeclareFromUnknown :
    isFromPanel panel cfg = true ∧ (stateIn .unknown).HasOven cfg (22 : Byte).toNat 1 (place 22 .unknown)
      ∧ (stateIn .unknown).NoPushOf (22 : Byte).toNat ∧ (place 22 .unknown).oven.kept.phase = .unknown
      ∧ (stateIn .empty).HasOven cfg (22 : Byte).toNat 1 (place 22 .empty)
      ∧ (stateIn .empty).NoPushOf (22 : Byte).toNat := by decide +kernel

theorem test_panelDeclare :
    (after (.pnlDeclare panel 22 1169 3) (stateIn .unknown)).phaseAt 1 = some .coking
      ∧ (after (.pnlDeclare panel 22 1170 3) (stateIn .unknown)).phaseAt 1 = some .ready := by decide +kernel

theorem witness_PanelClearLeavesLevelAlarms :
    isFromPanel panel cfg = true ∧ (stateIn .ready).part.config = some cfg
      ∧ (stateIn .ready).HasOven cfg (22 : Byte).toNat 1 (place 22 .ready) ∧ (22 : Byte) ≠ 0
      ∧ placeOf cfg (99 : Byte).toNat = none := by decide +kernel

theorem witness_ChargeAskIsTested :
    isFrom charger cfg cfg.chargerStation = true ∧ placeOf cfg (99 : Byte).toNat = none
      ∧ (stateOf (partWith closing)).HasOven cfg (22 : Byte).toNat 1 closing ∧ closing.oven.inFlight = true
      ∧ (stateIn .coking).HasOven cfg (22 : Byte).toNat 1 (place 22 .coking)
      ∧ (stateIn .empty).HasOven cfg (22 : Byte).toNat 1 (place 22 .empty)
      ∧ (stateIn .empty).NoPushOf (22 : Byte).toNat ∧ (place 22 .empty).offtake.mode = .isolate
      ∧ (place 22 .empty).offtake.next = none ∧ (stateIn .empty).part.level 1 .capClosed = false := by decide +kernel

theorem test_cha :
    (after (.cha charger 22) (stateIn .coking)).bli.queue.map (·.payload) = [[22, 1]]
      ∧ (after (.cha charger 22) (stateOf (partWith closing))).bli.queue.map (·.payload) = [[22, 3]] := by
  decide +kernel

theorem witness_CapClosedBeginsTheCharge :
    let s := stateOf (spelling 1 .capClosed true (partWith closing))
    let full := stateOf { s.part with bli := fullLine }
    s.HasOven cfg 22 1 closing ∧ s.NoPushOf 22 ∧ s.part.level 1 .capClosed = false ∧ closing.oven.inFlight = true
      ∧ closing.oven.kept.phase = .empty ∧ closing.oven.chpPending = false ∧ closing.offtake.mode = .isolate
      ∧ closing.offtake.next = some .aspirate ∧ closing.offtake.awaits = some .capClosed
      ∧ s.part.bli.queue.length < 7 ∧ full.HasOven cfg 22 1 closing ∧ full.part.bli.queue.length = 8
      ∧ (∀ e ∈ full.part.bli.queue, e.subject ≠ .oven 22) := by decide +kernel

/-- The spell of the witness above. -/
theorem witness_spell : (stateOf (spelling 1 .capClosed true (partWith closing))).Spell 1 .capClosed true :=
  ⟨_, rfl, rfl, rfl, rfl⟩

theorem test_capClosed :
    let p := after (.debounceExpiry 2 .capClosed) (stateOf (spelling 1 .capClosed true (partWith closing)))
    p.phaseAt 1 = some .charging ∧ p.bli.queue.map (·.payload.length) = [1, 12] := by decide +kernel

theorem witness_ChargeEndStartsCoking :
    let p := partWith { place 22 .charging with
      oven := { (place 22 .charging).oven with chargeLimit := .running 1800000 } }
    isFrom charger cfg cfg.chargerStation = true ∧ (stateIn .charging).HasOven cfg (22 : Byte).toNat 1 (place 22 .charging)
      ∧ (stateIn .charging).NoPushOf (22 : Byte).toNat ∧ cfg.aspirateHold ≠ 0 ∧ quick.aspirateHold = 0
      ∧ isFrom charger quick quick.chargerStation = true
      ∧ (stateOf { partWith (place 22 .charging) with load := .loaded quick }).HasOven quick (22 : Byte).toNat 1
        (place 22 .charging)
      ∧ (stateIn .coking).HasOven cfg (22 : Byte).toNat 1 (place 22 .coking)
      ∧ (stateOf p).HasOven cfg (22 : Byte).toNat 1 { place 22 .charging with
          oven := { (place 22 .charging).oven with chargeLimit := .running 1800000 } }
      ∧ (place 22 .charging).oven.chargeLimit.active = false := by decide +kernel

theorem test_che :
    (after (.che charger 22) (stateIn .charging)).phaseAt 1 = some .coking
      ∧ (after (.che charger 22) (stateIn .coking)).phaseAt 1 = some .coking := by decide +kernel

theorem witness_PositionsFillTheSeries :
    Claims.seriesConfig cfg ∧ (1 : Nat) ≤ 65 ∧ 65 ≤ cfg.batteryOvens ∧ seriesPosition cfg 60 = seriesPosition cfg 60 :=
  ⟨⟨by decide, by decide⟩, by decide, by decide, rfl⟩

theorem witness_DistanceFromTheAnchor :
    Claims.seriesConfig cfg ∧ (1 : Nat) ≤ 23 ∧ 23 ≤ cfg.batteryOvens ∧ (1 : Nat) ≤ 13 ∧ 13 ≤ cfg.batteryOvens
      ∧ distance cfg (some 13) 23 = distance cfg (some 13) 23 :=
  ⟨⟨by decide, by decide⟩, by decide, by decide, by decide, by decide, rfl⟩

theorem witness_WallSupportBySide :
    (stateIn .ready).part.PlacesSound ∧ (stateIn .ready).HasOven cfg 21 0 (place 21 .coking)
      ∧ (stateIn .ready).HasOven cfg 22 1 (place 22 .ready) ∧ (stateIn .ready).HasOven cfg 23 2 (place 23 .coking) := by
  decide +kernel

/-- Oven 22 between supporting neighbours; the outer neighbour of 21 has no view. -/
theorem test_wallSupport :
    wallSupport cfg (partWith (place 22 .ready)) 1 = true ∧ supportBelow cfg (partWith (place 22 .ready)) 0 = false := by
  decide +kernel

theorem witness_CandidateHasTheLowestKey :
    candidate cfg (partWith (place 22 .ready)) = some ⟨35, 0, 22⟩ ∧ candidate cfg (partWith (place 22 .empty)) = none
      ∧ eligible cfg (partWith (place 22 .ready)) 1 = true := by decide +kernel

/-- A part in which a round may start. -/
def free : Part := { partWith (place 22 .ready) with lvt := { views with guide := none } }

theorem roundMayStart_free : Claims.roundMayStart free :=
  ⟨rfl, rfl, rfl, rfl, ⟨_, rfl, rfl, rfl, rfl, rfl⟩, ⟨_, rfl, rfl, nofun⟩, rfl⟩

theorem witness_EvaluationStartsARound :
    free.config = some cfg ∧ free.bsu.round = .idle ∧ Claims.roundMayStart free
      ∧ candidate cfg free = some ⟨35, 0, 22⟩ ∧ (stateIn .ready).part.lvt.car = none
      ∧ ¬((stateIn .ready).part.bsu.round = .idle ∧ Claims.roundMayStart (stateIn .ready).part
        ∧ (candidate cfg (stateIn .ready).part).isSome = true) :=
  ⟨rfl, rfl, roundMayStart_free, by decide +kernel, rfl, fun ⟨_, ⟨_, _, _, _, ⟨_, h, _⟩, _⟩, _⟩ => nomatch h⟩

theorem test_evaluation :
    (after (.evaluationExpiry true) (stateOf free)).bsu.record = some ⟨22, 0, .stopped⟩
      ∧ (after (.evaluationExpiry true) (stateOf free)).asr.station = 0x20 := by decide +kernel

/-- Rivals: oven 60 of the last position loses to oven 22, oven 1 of the first one beats it. -/
theorem witness_RivalBidsAreTakenByState :
    busy.config = some cfg ∧ fromOther peer cfg = true ∧ (0 : Byte).toNat = 0 ∧ cfg.batteryOvens < (66 : Byte).toNat
      ∧ (placeOf cfg (22 : Byte).toNat).isSome = true ∧ placeOf cfg (60 : Byte).toNat = none
      ∧ 1 ≤ (60 : Byte).toNat ∧ (60 : Byte).toNat ≤ cfg.batteryOvens ∧ free.bsu.round = .idle
      ∧ candidate cfg free = some ⟨35, 0, 22⟩
      ∧ (⟨35, 0, 22⟩ : BidKey).beats (bidKey cfg free.lvt.anchor (60 : Byte).toNat (0 : Word16).toInt) = true
      ∧ (⟨35, 0, 22⟩ : BidKey).beats (bidKey cfg free.lvt.anchor (1 : Byte).toNat (0 : Word16).toInt) = false := by
  decide +kernel

theorem test_bid :
    (after (.bid peer 60 0) (stateOf free)).bsu.round = .bidding
      ∧ (after (.bid peer 1 0) (stateOf free)).bsu.deferral = .running 4000 := by decide +kernel

/-- A round for oven 22, its window running. -/
def bidding (p : Part) : Part :=
  { p with bsu := { Bsu.start with round := .bidding, record := some ⟨22, 0, .running 2000⟩ } }

theorem witness_RoundsAreLostAndWaitsEnd :
    (bidding busy).config = some cfg ∧ (bidding busy).bsu.round = .bidding
      ∧ (bidding busy).bsu.record = some ⟨22, 0, .running 2000⟩ ∧ ¬Claims.roundIsWon cfg (stateOf (bidding busy)) ⟨22, 0, .running 2000⟩
      ∧ (Timer.running 2000).active = true ∧ (Bsu.start.deferTo cfg 12).round = .deferring
      ∧ (Bsu.start.deferTo cfg 12).deferral.active = true :=
  ⟨rfl, rfl, rfl, fun (h : Claims.roundIsWon _ _ _) => absurd h.1 (by decide +kernel), rfl, rfl, rfl⟩

theorem witness_WindowExpiryWinsTheRound :
    let s := stateOf (bidding free)
    s.HasOven cfg 22 1 (place 22 .ready) ∧ s.part.PlacesSound ∧ s.part.bsu.round = .bidding
      ∧ s.part.bsu.record = some ⟨22, 0, .running 2000⟩ ∧ s.part.qou.orders = []
      ∧ 4 ≤ (withOrders fullList (bidding free)).qou.orders.length
      ∧ (stateOf (withOrders fullList (bidding free))).HasOven cfg 22 1 (place 22 .ready)
      ∧ (withOrders fullList (bidding free)).PlacesSound := by decide +kernel

/-- A win does not look at the car orders (R29). -/
theorem roundIsWon_fullList :
    Claims.roundIsWon cfg (stateOf (withOrders fullList (bidding free))) ⟨22, 0, .running 2000⟩ :=
  ⟨rfl, ⟨1, by decide +kernel, by decide +kernel⟩, ⟨_, rfl, rfl, rfl, rfl, rfl⟩, ⟨_, rfl, rfl, nofun⟩, nofun⟩

theorem roundIsWon_bidding : Claims.roundIsWon cfg (stateOf (bidding free)) ⟨22, 0, .running 2000⟩ :=
  ⟨rfl, ⟨1, by decide +kernel, by decide +kernel⟩, ⟨_, rfl, rfl, rfl, rfl, rfl⟩, ⟨_, rfl, rfl, nofun⟩, nofun⟩

theorem test_window :
    let p := after .windowExpiry (stateOf (bidding free))
    p.phaseAt 1 = some .pushing ∧ (p.psq.context.map (·.spotAwaited)) = some true ∧ p.qou.orders.length = 1
      ∧ ((after .windowExpiry (stateOf (withOrders fullList (bidding free)))).places.map fun pl =>
          (pl.oven.kept.phase, pl.oven.kept.hold, pl.offtake.mode, pl.oven.alarms))[1]? = some (.ready, true, .pi, 0x0400) := by
  decide +kernel

/-! ## The push -/

/-- Oven 22 ARMED with its doors OFF and every machine in place. -/
def armed : State :=
  let s := pushState { contextIn .armed with spotDone := true, armedLimit := .running 600000 } opened
  stateOf { s.part with lvt := views }

theorem witness_PushAskIsAnswered :
    isFrom pusher cfg cfg.pusherStation = true ∧ armed.part.config = some cfg ∧ placeOf cfg (99 : Byte).toNat = none
      ∧ placeOf cfg (22 : Byte).toNat = some 1 ∧ (stateIn .ready).part.psq.context = none
      ∧ Claims.pusherThere armed.part 22 ∧ Claims.guideThere armed.part 22 ∧ Claims.carThere armed.part 22
      ∧ wallSupport cfg armed.part 1 = true ∧ (armed.part.bli.offer .ppm (.oven 22) [22]).2 = true
      ∧ (fullLine.offer .ppm (.oven 22) [22]).2 = false :=
  ⟨by decide, rfl, by decide, by decide, rfl, ⟨_, rfl, rfl, rfl⟩, ⟨_, rfl, rfl, nofun, rfl, rfl⟩,
    ⟨_, rfl, rfl, rfl, rfl⟩, by decide +kernel, by decide +kernel, by decide +kernel⟩

/-- The views gone one by one: the first failing test gives its reason (R42). -/
theorem test_pas :
    let ask (l : Lvt) := (after (.pas pusher 22) (stateOf { armed.part with lvt := l })).bli.queue.map (·.payload)
    ask views = [[22]] ∧ ask { views with pusher := none } = [[22, 5]] ∧ ask { views with guide := none } = [[22, 3]]
      ∧ ask { views with car := none } = [[22, 4]]
      ∧ (after (.pas pusher 22) (stateIn .ready)).bli.queue.map (·.payload) = [[22, 1]] := by decide +kernel

theorem witness_RamStartOfTheContextOven :
    isFrom pusher cfg cfg.pusherStation = true
      ∧ (∀ stage ∈ [Stage.prepare, .armed, .pushing, .closing, .returning],
        (pushState (contextIn stage) opened).HasOven cfg (22 : Byte).toNat 1 opened
          ∧ (contextIn stage).oven = (22 : Byte).toNat ∧ (contextIn stage).permit.active = false)
      ∧ ({ contextIn .armed with permit := .running 60000 } : Context).permit.active = true := by decide +kernel

theorem test_rms :
    ((after (.rms pusher 22) armed).psq.context.map fun x => (x.stage, x.unpermitted)) = some (.pushing, true)
      ∧ (after (.rms pusher 21) armed).phaseAt 0 = some .unknown := by decide +kernel

theorem witness_RamStartOutsideTheContext :
    isFrom pusher cfg cfg.pusherStation = true ∧ (stateIn .ready).HasOven cfg (22 : Byte).toNat 1 (place 22 .ready)
      ∧ (stateIn .ready).part.PlacesSound ∧ (stateIn .ready).part.psq.context = none
      ∧ (∀ x ∈ (stateIn .ready).part.places,
          x.oven.kept.phase ≠ .empty ∧ x.oven.kept.phase ≠ .charging ∧ x.oven.kept.phase ≠ .pushing)
      ∧ (stateIn .empty).HasOven cfg (21 : Byte).toNat 0 (place 21 .coking) ∧ (place 22 .empty).oven.kept.phase = .empty
      ∧ armed.HasOven cfg (21 : Byte).toNat 0 (place 21 .coking) ∧ armed.part.PlacesSound := by decide +kernel

theorem witness_RamHomeClosesThePush :
    let x := contextIn .pushing
    isFrom pusher cfg cfg.pusherStation = true ∧ (stateIn .ready).part.psq.context = none
      ∧ (pushState x opened).HasOven cfg x.oven 1 opened ∧ x.oven = (22 : Byte).toNat
      ∧ opened.doorP.state ≠ .released ∧ opened.doorC.state ≠ .released ∧ opened.doorP.state ≠ .sealed
      ∧ (pushState x (place 22 .pushing)).HasOven cfg x.oven 1 (place 22 .pushing)
      ∧ (place 22 .pushing).doorP.state = .sealed ∧ (place 22 .pushing).doorC.state = .sealed
      ∧ (Bli.start.offer .pdn (.oven 22) [22, 94, 0]).2 = true ∧ (fullLine.offer .pdn (.oven 22) [22, 94, 0]).2 = false := by
  decide +kernel

theorem test_rmh :
    let p := after (.rmh pusher 22 94) (pushState (contextIn .pushing) opened)
    (p.psq.context.map (·.stage)) = some .closing ∧ p.bli.queue.map (·.payload) = [[1, 2, 0, 90], [22, 94, 0]]
      ∧ (after (.rmh pusher 22 94) (pushState (contextIn .pushing) (place 22 .pushing))).phaseAt 1 = some .empty := by
  decide +kernel

theorem witness_LimitsThatKeepTheStage :
    let x := { contextIn .armed with prepareLimit := .running 900000 }
    let y := { contextIn .pushing with rmhLimit := .running 240000 }
    let z := { contextIn .closing with doorLimit := .running 900000 }
    (pushState x opened).HasOven cfg x.oven 1 opened ∧ x.prepareLimit.active = true
      ∧ (pushState y opened).HasOven cfg y.oven 1 opened ∧ y.rmhLimit.active = true
      ∧ (pushState z opened).HasOven cfg z.oven 1 opened ∧ z.doorLimit.active = true := by decide +kernel

/-- Oven 22 in PUSHING, its doors on and its cap not yet commanded open. -/
def early : Place :=
  { place 22 .pushing with
    offtake := { offtakeIn .isolate (some .moving) 0 false with
      awaits := some .valveClosed, valveTimer := .running 20000 } }

/-- The three aborts, with a door away, and with both doors on and the cap open or closed. -/
theorem witness_AbortsGoToReturn :
    let x := { contextIn .prepare with prepareLimit := .running 900000 }
    let y := { contextIn .armed with armedLimit := .running 600000 }
    isFromPanel panel cfg = true
      ∧ (∀ pl ∈ [opened, place 22 .pushing, early], (pushState x pl).HasOven cfg x.oven 1 pl
        ∧ (pushState y pl).HasOven cfg y.oven 1 pl ∧ pl.offtake.mode = .isolate ∧ pl.offtake.next = none
        ∧ pl.oven.kept.phase = .pushing ∧ (pushState x pl).part.level 1 .capClosed = (pl == early))
      ∧ x.prepareLimit.active = true ∧ y.armedLimit.active = true ∧ (22 : Byte).toNat = x.oven
      ∧ opened.doorP.state = .off ∧ (place 22 .pushing).doorP.state = .sealed := by decide +kernel

theorem test_abort :
    let p := after (.pnlAbort panel 0) (pushState (contextIn .prepare) opened)
    (p.psq.context.map fun x => (x.stage, x.reason)) = some (.returning, some .panel)
      ∧ p.qou.orders.map (·.kind) = [.release] := by decide +kernel

/-- R54's ignored cases: no context, another oven, and the stages after the ram start or an abort. -/
theorem test_abortIgnored :
    after (.pnlAbort panel 0) (stateIn .pushing) = (stateIn .pushing).part
      ∧ after (.pnlAbort panel 23) (pushState (contextIn .armed) opened) = (pushState (contextIn .armed) opened).part
      ∧ ∀ stage ∈ [Stage.pushing, .closing, .returning],
        after (.pnlAbort panel 22) (pushState (contextIn stage) opened) = (pushState (contextIn stage) opened).part := by
  decide +kernel

/-- The usual course of the loser of two winners: PI at once, the oven held (R52, R87). -/
theorem test_abortEarly :
    let p := after (.pnlAbort panel 0) (pushState (contextIn .prepare) early)
    p.psq.context = none ∧ (p.places.map fun pl => (pl.oven.kept.phase, pl.oven.kept.hold, pl.offtake.mode))[1]?
      = some (.ready, true, .pi) := by decide +kernel

theorem witness_ReturnEndsInPi :
    let x := { contextIn .returning with piRequested := true, reason := some .panel }
    let s := stateOf (spelling 1 .capClosed true (withContext x (partWith returning)))
    s.HasOven cfg x.oven 1 returning ∧ s.part.psq.context = some x ∧ returning.oven.kept.phase = .pushing
      ∧ returning.offtake.next = some .pi ∧ returning.offtake.awaits = some .capClosed
      ∧ returning.offtake.mode = .isolate ∧ s.part.level 1 .capClosed = false
      ∧ returning.offtake.capTimer.active = true ∧ returning.offtake.sub = some .moving := by decide +kernel

theorem test_returnEnds :
    let x := { contextIn .returning with piRequested := true, reason := some .panel }
    let p := after (.debounceExpiry 2 .capClosed) (stateOf (spelling 1 .capClosed true (withContext x (partWith returning))))
    (p.places.map fun pl => (pl.oven.kept.phase, pl.oven.kept.hold, pl.offtake.mode, pl.offtake.valve))[1]?
      = some (.ready, true, .pi, 50) ∧ p.psq.context = none := by decide +kernel

/-- A cap that stays open: READY and held, CAP_FAULT, and the sequence toward PI runs again (R55, R88). -/
theorem test_returnFails :
    let x := { contextIn .returning with piRequested := true, reason := some .panel }
    let p := after (.capMotionTimerExpiry 22) (stateOf (spelling 1 .capClosed true (withContext x (partWith returning))))
    (p.places.map fun pl => (pl.oven.kept.phase, pl.oven.alarms, pl.offtake.sub, pl.offtake.capTimer))[1]?
      = some (.ready, 0x0008, some .moving, .running 15000) ∧ p.psq.context = none := by decide +kernel

/-! ## Doors and offtakes -/

/-- The levels of both doors, and the spell of one of them. -/
def doorSpell (pl : Place) (which : SwitchInput) (v : Bool) (p : Part) : State :=
  let levels (x : PlaceInputs) : PlaceInputs :=
    (((x.set (.present .p) (input pl.doorP.state.presentLevel)).set (.latched .p) (input pl.doorP.state.latchedLevel)).set
      (.present .c) (input pl.doorC.state.presentLevel)).set (.latched .c) (input pl.doorC.state.latchedLevel)
  stateOf (spelling 1 which v { p with fls := { p.fls with inputs := p.fls.inputs.modify 1 levels } })

/-- Oven 22 in PUSHING with its doors in two states. -/
def doorsIn (stateP stateC : DoorState) : Place :=
  { place 22 .pushing with doorP := doorIn stateP, doorC := doorIn stateC }

/-- Door P changes in a push with the offtake ISOLATE REACHED. -/
def pushDoor (x : Context) (pl : Place) (which : SwitchInput) (v : Bool) : State :=
  doorSpell pl which v (pushState x pl).part

theorem witness_DoorsFollowTheirSwitches :
    let s := stateOf (spelling 1 (.latched .c) false (partWith (place 22 .coking)))
    let t := stateOf (spelling 1 (.latched .c) false (partWith closing))
    s.HasOven cfg 22 1 (place 22 .coking) ∧ s.NoPushOf 22 ∧ (place 22 .coking).oven.inFlight = false
      ∧ (place 22 .coking).doorC.Agrees (s.part.level 1 (.present .c)) (s.part.level 1 (.latched .c))
      ∧ t.HasOven cfg 22 1 closing ∧ t.NoPushOf 22 ∧ closing.oven.inFlight = true
      ∧ Claims.doorOf (t.part.level 1 (.present .c)) false = .unlatched
      ∧ closing.doorC.Agrees (t.part.level 1 (.present .c)) (t.part.level 1 (.latched .c)) ∧ t.part.bli.queue.length < 7 := by
  decide +kernel

/-- The changes that the clauses of a push take, each with the door as its switches have it. -/
def pushDoors : List (Context × Place × SwitchInput × Bool) :=
  [({ contextIn .prepare with spotDone := true }, doorsIn .unlatched .off, .present .p, false),
    (contextIn .prepare, doorsIn .off .off, .latched .p, true),
    (contextIn .prepare, doorsIn .sealed .off, .latched .p, false),
    (contextIn .armed, doorsIn .off .off, .present .p, true),
    ({ contextIn .armed with prepareLimit := .expired }, doorsIn .off .off, .present .p, true),
    (contextIn .armed, doorsIn .off .off, .latched .p, true),
    (contextIn .armed, doorsIn .unlatched .off, .present .p, false),
    (contextIn .pushing, doorsIn .off .off, .latched .p, true),
    (contextIn .closing, doorsIn .unlatched .sealed, .latched .p, true),
    (contextIn .closing, doorsIn .unlatched .off, .latched .p, true),
    ({ contextIn .returning with piRequested := true }, doorsIn .sealed .sealed, .latched .p, false),
    ({ contextIn .returning with piRequested := true }, doorsIn .unlatched .sealed, .latched .p, true),
    (contextIn .returning, doorsIn .unlatched .sealed, .latched .p, true),
    (contextIn .returning, doorsIn .unlatched .off, .latched .p, true)]

theorem witness_pushDoors : ∀ q ∈ pushDoors, (pushDoor q.1 q.2.1 q.2.2.1 q.2.2.2).HasOven cfg 22 1 q.2.1
    ∧ q.1.oven = 22 ∧ q.2.1.oven.inFlight = false
    ∧ q.2.1.doorP.Agrees ((pushDoor q.1 q.2.1 q.2.2.1 q.2.2.2).part.level 1 (.present .p))
      ((pushDoor q.1 q.2.1 q.2.2.1 q.2.2.2).part.level 1 (.latched .p)) := by decide +kernel

/-- What the push makes of each of them (R40, R41, R43, R50, R51, R55). -/
theorem test_pushDoors :
    pushDoors.map (fun q =>
        (after (.debounceExpiry 2 q.2.2.1) (pushDoor q.1 q.2.1 q.2.2.1 q.2.2.2)).psq.context.map fun x =>
          (x.stage, x.reason, x.piRequested))
      = [some (.armed, none, false), some (.returning, some .doorFault, false), some (.prepare, none, false),
          some (.prepare, none, false), some (.returning, some .prepareTime, false),
          some (.returning, some .doorFault, false), some (.armed, none, false), some (.pushing, none, false), none,
          some (.closing, none, false), some (.returning, none, false), some (.returning, none, true),
          some (.returning, none, true), some (.returning, none, false)] := by decide +kernel

/-- A charge start cancelled by a door: CHR DOORS and the offtake back toward ISOLATE (R16). -/
theorem test_doorInFlight :
    let p := after (.debounceExpiry 2 (.latched .c)) (stateOf (spelling 1 (.latched .c) false (partWith closing)))
    (p.places.map fun pl => (pl.oven.inFlight, pl.offtake.next))[1]? = some (false, none)
      ∧ (p.bli.queue.filter fun e => e.kind == .chr).map (·.payload) = [[22, 2]] := by decide +kernel

/-- A forced door, a failed switch (R61, R62). -/
theorem test_doors :
    let forced := after (.debounceExpiry 2 (.latched .c)) (stateOf (spelling 1 (.latched .c) false (partWith (place 22 .coking))))
    let broken := after (.debounceExpiry 2 (.present .p)) (stateOf (spelling 1 (.present .p) false (partWith (place 22 .coking))))
    (forced.places.map fun pl => (pl.doorC.state, pl.oven.alarms))[1]? = some (.unlatched, 0x0020)
      ∧ (broken.places.map fun pl => (pl.doorP.state, pl.oven.alarms))[1]? = some (.fault, 0x0100) := by decide +kernel

/-- At a CHARGING oven a broken switch raises DOOR_FORCED with DOOR_SWITCH (R18, R61). -/
theorem test_forcedInCharging :
    let p := after (.debounceExpiry 2 (.present .p)) (stateOf (spelling 1 (.present .p) false (partWith (place 22 .charging))))
    (p.places.map fun pl => (pl.doorP.state, pl.oven.alarms))[1]? = some (.fault, 0x0110) := by decide +kernel

/-- Oven 22 with the spells of door P running. -/
def leaky : Place :=
  { place 22 .coking with
    doorP := { doorIn .leaking with clearTimer := .running 45000, leakingSpell := .running 1800000 }
    doorC := { doorIn .sealed with
      leakTimer := .running 20000, sealedSpell := .running 1800000, resealWanted := true } }

theorem witness_DoorSpellsExpire :
    (stateOf (partWith leaky)).HasOven cfg 22 1 leaky ∧ (stateOf (partWith leaky)).NoPushOf 22
      ∧ (leaky.door .p).clearTimer.active = true ∧ (leaky.door .p).state = .leaking
      ∧ (leaky.door .p).leakingSpell.active = true ∧ (leaky.door .c).leakTimer.active = true
      ∧ (leaky.door .c).state = .sealed ∧ (leaky.door .c).sealedSpell.active = true
      ∧ (leaky.door .p).leakTimer.active = false ∧ (leaky.door .c).clearTimer.active = false
      ∧ (leaky.door .c).leakingSpell.active = false ∧ (leaky.door .p).sealedSpell.active = false := by decide +kernel

/-- The leak line of a LEAKING door clears. -/
theorem witness_leakSpell : (stateOf (spelling 1 (.leak .p) false (partWith leaky))).HasOven cfg 22 1 leaky
      ∧ (stateOf (spelling 1 (.leak .p) false (partWith leaky))).Spell 1 (.leak .p) false :=
  ⟨by decide +kernel, _, rfl, rfl, rfl, rfl⟩

/-- leak_on 20 s and leak_off 45 s (R66, R67). -/
theorem test_leakLine :
    let on := after (.debounceExpiry 2 (.leak .p)) (stateOf (spelling 1 (.leak .p) true (partWith (place 22 .coking))))
    let off := after (.debounceExpiry 2 (.leak .p)) (stateOf (spelling 1 (.leak .p) false (partWith leaky)))
    (on.places.map (·.doorP.leakTimer))[1]? = some (.running 20000)
      ∧ (off.places.map (·.doorP.clearTimer))[1]? = some (.running 45000) := by decide +kernel

theorem test_spells :
    let p := after (.leakingSpellExpiry 22 .p) (stateOf (partWith leaky))
    (p.places.map fun pl => (pl.doorP.resealWanted, pl.oven.alarms))[1]? = some (true, 0x0040)
      ∧ ((after (.clearTimerExpiry 22 .p) (stateOf (partWith leaky))).places.map (·.doorP.state))[1]? = some .sealed := by
  decide +kernel

/-- Oven 22 EMPTY with its offtake in a given ISOLATE. -/
def isolating (sub : SubState) (awaits : Option Confirmation) : Place :=
  { place 22 .empty with
    offtake := { offtakeIn .isolate (some sub) 0 (awaits == some .capOpen) with awaits := awaits } }

/-- Oven 22 CHARGING, its cap-closed confirmation lost. -/
def lostAspirate : Place := { place 22 .charging with offtake := offtakeIn .aspirate (some .failed) 1000 false }

theorem witness_IsolateFollowsItsSwitches :
    (∀ pl ∈ [isolating .moving (some .valveClosed), isolating .moving (some .capOpen), isolating .reached none,
        isolating .failed none, place 22 .charging],
      (stateOf (partWith pl)).HasOven cfg 22 1 pl ∧ (stateOf (partWith pl)).NoPushOf 22 ∧ pl.oven.inFlight = false
        ∧ pl.doorP.state ≠ .released ∧ pl.doorC.state ≠ .released ∧ pl.offtake.next = none)
      ∧ (stateOf (partWith (isolating .moving (some .valveClosed)))).part.level 1 .capOpen = false
      ∧ (stateOf (partWith lostAspirate)).HasOven cfg 22 1 lostAspirate ∧ (stateOf (partWith lostAspirate)).NoPushOf 22
      ∧ lostAspirate.offtake.mode = .aspirate ∧ lostAspirate.offtake.awaits = none
      ∧ (∀ stage ∈ [Stage.prepare, .armed, .closing],
        ∀ pl ∈ [isolating .moving (some .capOpen), isolating .reached none],
          (pushState (contextIn stage) pl).HasOven cfg 22 1 pl ∧ (contextIn stage).oven = 22
            ∧ (contextIn stage).piRequested = false ∧ pl.offtake.mode = .isolate ∧ pl.offtake.next = none) := by
  decide +kernel

/-- ISOLATE reached arms a push whose doors are OFF; a lost confirmation aborts one in PREPARE; a cap closed again makes ASPIRATE
REACHED (R40, R51, R89). -/
theorem test_isolateInPush :
    let moving := { isolating .moving (some .capOpen) with doorP := doorIn .off, doorC := doorIn .off }
    let s := pushState { contextIn .prepare with spotDone := true } moving
    let lost := pushState (contextIn .prepare) opened
    ((after (.debounceExpiry 2 .capOpen) (stateOf (spelling 1 .capOpen true s.part))).psq.context.map (·.stage)) = some .armed
      ∧ ((after (.debounceExpiry 2 .capOpen) (stateOf (spelling 1 .capOpen false lost.part))).psq.context.map (·.reason))
        = some (some .isolateFail)
      ∧ ((after (.debounceExpiry 2 .capClosed) (stateOf (spelling 1 .capClosed true (partWith lostAspirate)))).places.map
          (·.offtake.sub))[1]? = some (some .reached) := by decide +kernel

theorem test_isolate :
    let s := stateOf (spelling 1 .valveClosed true (partWith (isolating .moving (some .valveClosed))))
    let lost := stateOf (spelling 1 .valveClosed false (partWith (isolating .reached none)))
    ((after (.debounceExpiry 2 .valveClosed) s).places.map fun pl => (pl.offtake.capOpen, pl.offtake.capTimer))[1]?
        = some (true, .running 15000)
      ∧ ((after (.debounceExpiry 2 .valveClosed) lost).places.map fun pl => (pl.offtake.sub, pl.oven.alarms))[1]?
        = some (some .failed, 0x0004) := by decide +kernel

/-- Oven 22 with every offtake timer running. -/
def timed : Place :=
  { place 22 .coking with
    offtake :=
      { offtakeIn .isolate (some .moving) 0 false with
        valveTimer := .running 20000, capTimer := .running 15000, highTimer := .running 60000
        aspirateTimer := .running 600000 } }

theorem witness_OfftakeTimersExpire :
    (∀ pl ∈ [timed, closing, place 22 .coking], (stateOf (partWith pl)).HasOven cfg 22 1 pl
        ∧ (stateOf (partWith pl)).NoPushOf 22 ∧ pl.doorP.state ≠ .released ∧ pl.doorC.state ≠ .released)
      ∧ timed.offtake.valveTimer.active = true ∧ timed.offtake.capTimer.active = true
      ∧ timed.offtake.highTimer.active = true ∧ timed.offtake.aspirateTimer.active = true
      ∧ timed.oven.inFlight = false ∧ closing.offtake.capTimer.active = true ∧ closing.oven.inFlight = true
      ∧ closing.offtake.next = some .aspirate ∧ closing.offtake.sub = some .moving
      ∧ (place 22 .coking).offtake.highTimer.active = false
      ∧ (∀ stage ∈ [Stage.prepare, .armed], (pushState (contextIn stage) early).HasOven cfg 22 1 early
        ∧ (contextIn stage).oven = 22 ∧ (contextIn stage).piRequested = false)
      ∧ early.offtake.mode = .isolate ∧ early.offtake.next = none ∧ early.offtake.sub ≠ some .failed
      ∧ early.offtake.valveTimer.active = true := by decide +kernel

theorem test_motionTimers :
    ((after (.valveMotionTimerExpiry 22) (stateOf (partWith timed))).places.map (·.oven.alarms))[1]? = some 0x0004
      ∧ (after (.capMotionTimerExpiry 22) (stateOf (partWith closing))).bli.queue.map (fun e => e.payload.take 2)
        = [[22, 4], [22, 0x14]]
      ∧ ((after (.valveMotionTimerExpiry 22) (pushState (contextIn .prepare) opened)).psq.context.map (·.reason)) = some none
      ∧ ((after (.valveMotionTimerExpiry 22)
          (pushState (contextIn .prepare) { early with doorP := doorIn .off })).psq.context.map (·.reason))
        = some (some .isolateFail) := by decide +kernel

/-! ## Samples -/

/-- The scan at the place of oven 22. -/
def scanning (p : Part) : Part :=
  { p with fls := { p.fls with scan := { running := true, place := 2, addressNack := false, nackCount := 2 } } }

/-- Each band at its ends, with a base above, at and below sp_floor. -/
theorem witness_SetpointFollowsAgeAndDoors :
    0 < cfg.t1 ∧ 239 < cfg.t1 ∧ cfg.t1 ≤ 240 ∧ 899 < cfg.t2 ∧ cfg.t1 < cfg.t2 ∧ cfg.t2 ≤ 900
      ∧ [0, 239, 240, 899, 900].map (fun age => setpoint cfg age false) = [160, 160, 100, 100, 30]
      ∧ cfg.spFloor ≤ baseSetpoint cfg 899 ∧ baseSetpoint cfg 900 < cfg.spFloor
      ∧ baseSetpoint { cfg with spLate := 40 } 900 = cfg.spFloor
      ∧ setpoint { cfg with spLate := 40 } 900 true = 40 := by decide +kernel

/-- Code 2315: 130 Pa. -/
theorem witness_ValidSampleControlsTheValve :
    (∀ pl ∈ [place 22 .coking, { place 22 .coking with offtake := (offtakeOf .coking).enterPi cfg },
        { place 22 .coking with offtake := offtakeOf .unknown }, place 22 .empty],
      (stateOf (scanning (partWith pl))).HasOven cfg 22 1 pl ∧ (stateOf (scanning (partWith pl))).NoPushOf 22
        ∧ pl.doorP.state ≠ .released ∧ pl.doorC.state ≠ .released)
      ∧ Claims.code 0x90 0xB0 = 2315 ∧ Claims.pressure cfg 1 0x90 0xB0 = 130
      ∧ Claims.code 0x00 0x10 = 1 ∧ Claims.code 0xFF 0xE0 = 4094 ∧ cfg.uMin < cfg.uMax := by decide +kernel

theorem witness_scanAtPlace : Claims.scanAtPlace (scanning (partWith (place 22 .coking))) 1 := ⟨rfl, rfl, rfl⟩

/-- "A normal step" through the whole command: setpoint 30 at age 1200, 130 Pa, e = 100, P = 300. -/
theorem test_transaction :
    ((after (.transactionComplete 0x90 0xB0) (stateOf (scanning (partWith (place 22 .coking))))).places.map
        fun pl => (pl.offtake.acc, pl.offtake.valve, pl.offtake.pressure))[1]? = some (1200, 455, some 130) := by
  decide +kernel

/-- PRESSURE_HIGH raised and 130 Pa at most p_high: the OVS of its removal carries the 415 of before the PI step, which
leaves 455 (R72, R142). -/
def high : Place := { place 22 .coking with oven := { (place 22 .coking).oven with alarms := 0x0002 } }

theorem witness_ValidSampleOffersBeforeControl :
    (stateOf (scanning (partWith high))).HasOven cfg 22 1 high ∧ high.offtake.mode = .pi
      ∧ Claims.validAlarms cfg 130 high = 0 ∧ (scanning (partWith high)).bli.queue.length < 8 := by decide +kernel

theorem test_ovsBeforeControl :
    let p := after (.transactionComplete 0x90 0xB0) (stateOf (scanning (partWith high)))
    p.bli.queue.map (fun e => (e.payload.drop 6).take 2)
        = [(ovsPayload high).drop 6 |>.take 2]
      ∧ (p.places.map fun pl => (pl.oven.alarms, pl.offtake.valve))[1]? = some (0, 455) := by decide +kernel

theorem witness_PermitFollowsTheSample :
    let x := contextIn .prepare
    let s := stateOf (scanning busy)
    let pl := place 22 .pushing
    (stateOf (scanning (pushState x pl).part)).HasOven cfg x.oven 1 pl ∧ pl.offtake.mode = .isolate
      ∧ pl.offtake.sub = some .reached ∧ s.part.permitPin 1 .p = true
      ∧ Claims.pressure cfg 1 0x80 0x00 ≤ (cfg.permitMax : Int) ∧ (cfg.permitMax : Int) < Claims.pressure cfg 1 0x90 0xB0 := by
  decide +kernel

theorem test_permits :
    (after (.transactionComplete 0x80 0x00) (stateOf (scanning (pushState (contextIn .prepare) (place 22 .pushing)).part))).permitPin
        1 .c = true
      ∧ (after .channelByteNack (stateOf (scanning busy))).permitPin 1 .p = false := by decide +kernel

theorem witness_InvalidSampleIsCounted :
    (stateIn .coking).HasOven cfg 22 1 (place 22 .coking) ∧ Claims.code 0x00 0x0F = 0 ∧ 4095 ≤ Claims.code 0xFF 0xF0
      ∧ (stateIn .coking).part.fls.scan.running = false
      ∧ (stateOf (scanning (partWith (place 22 .coking)))).HasOven cfg 22 1 (place 22 .coking) := by decide +kernel

theorem witness_BrokenScanFailsTheRest :
    let p := scanning (partWith (place 22 .coking))
    p.config = some cfg ∧ p.PlacesSound ∧ (∀ pl ∈ p.places, pl.doorP.state ≠ .released ∧ pl.doorC.state ≠ .released)
      ∧ 1 ≤ p.fls.scan.place ∧ p.fls.scan.place ≤ cfg.ovenCount ∧ p.fls.scan.running = true
      ∧ p.fls.scan.addressNack = false ∧ (stateIn .coking).part.fls.scan.running = false := by decide +kernel

/-- The third scan with a silent converter raises SAMPLE_PORT; a held clock changes neither (R128). -/
theorem test_brokenScans :
    let p := scanning (partWith (place 22 .coking))
    (after .addressNack (stateOf p)).asr.station = 0x08 ∧ (after .clockHoldTimeout (stateOf p)).asr.station = 0
      ∧ ((after .addressNack (stateOf p)).places.map (·.offtake.invalidCount)) = [0, 1, 1] := by decide +kernel

/-- A transaction that fails is ended with a stop, and the next one begins (R127). -/
theorem test_stops :
    let p := scanning (partWith (place 22 .coking))
    ((after .channelByteNack (stateOf p)).fls.port.take 3) = [.stop, .start, .write 0x48]
      ∧ (after .clockHoldTimeout (stateOf p)).fls.port = [.stop] := by decide +kernel

/-- "Writes within one period": count and compare at 535. -/
theorem witness_ValveOutputsFollowTheirCompares :
    let p := { partWith (place 22 .coking) with fls := { Fls.start with pwmCount := 300, channels := [⟨535, 0⟩, ⟨1000, 0⟩] } }
    p.fls.channels[0]? = some ⟨535, 0⟩ ∧ p.fls.channels[1]? = some ⟨1000, 0⟩ ∧ p.fls.pwmCount ≤ 535
      ∧ p.valvePin 0 = true ∧ Claims.startsOrStops .minuteExpiry = false ∧ Instr.minuteExpiry ≠ .pwmPeriodEnd := by
  decide +kernel

/-! ## Car orders -/

def ordered (os : List Order) : State := stateOf (withOrders os (partWith (place 22 .coking)))

theorem witness_CarRepliesMoveTheHead :
    isFrom car cfg cfg.carStation = true ∧ (ordered []).part.qou.orders = []
      ∧ (∀ o ∈ [order 5 (.quench 90) .sent false, order 5 (.quench 90) .accepted false, order 5 .dump .queued false],
        (ordered [o, order 6 .dump .queued false]).part.qou.Sound ∧ o.id = (5 : Byte).toNat)
      ∧ (order 5 .dump .queued false).offered = false := by decide +kernel

theorem test_qcr :
    let s := ordered [order 5 (.quench 90) .sent false, order 6 .dump .queued false]
    ((after (.qcr car 5 1 0) s).qou.orders.map (·.deadline)) = [.running 300000, .stopped]
      ∧ ((after (.qcr car 5 3 0) s).qou.orders.map fun o => (o.id, o.offered)) = [(6, true)]
      ∧ (after (.qcr car 5 2 0) s).qou.orders = [] := by decide +kernel

theorem witness_OutcomesReachThePush :
    let x := { contextIn .prepare with spotAwaited := true }
    let o := order 5 (.spot 22) .sent true
    let s := stateOf (withOrders [o] (pushState x opened).part)
    s.part.config = some cfg ∧ o.deadline.active = true ∧ (order 5 .dump .sent false).deadline.active = true
      ∧ (order 5 .dump .queued false).deadline.active = false ∧ s.HasOven cfg x.oven 1 opened ∧ s.part.qou.Sound
      ∧ o.id = (5 : Byte).toNat ∧ o.state ≠ .queued ∧ isFrom car cfg cfg.carStation = true
      ∧ (opened.door .p).state = .off ∧ (place 22 .pushing).doorP.state = .sealed
      ∧ (∀ stage ∈ [Stage.pushing, .closing],
        ({ contextIn stage with spotAwaited := true } : Context).stage ≠ .prepare ∧ o.owed = true)
      ∧ (ordered [o]).part.psq.context = none ∧ (ordered [o, order 6 .release .queued false]).part.qou.Sound
      ∧ (ordered []).part.config = some cfg ∧ (ordered []).part.qou.orders = [] := by decide +kernel

/-- A DONE SPOT arms the push; a SPOT out of time aborts it; a QUENCH out of time raises HOT_CAR (R40, R104). -/
theorem test_outcomes :
    let s := stateOf (withOrders [order 5 (.spot 22) .sent true] (pushState { contextIn .prepare with spotAwaited := true } opened).part)
    (after (.qcr car 5 3 0) s).psq.context.map (·.stage) = some .armed
      ∧ (after .deadlineExpiry s).psq.context.map (·.reason) = some (some .carTimeout)
      ∧ (after .deadlineExpiry (ordered [order 5 (.quench 90) .sent false])).asr.station = 0x03
      ∧ ((after (.qcr car 5 2 0) (stateOf (withOrders [order 5 (.spot 22) .sent true]
          (pushState { contextIn .prepare with spotAwaited := true } (place 22 .pushing)).part))).psq.context.map
            fun x => (x.reason, x.piRequested)) = some (some .carRefused, true)
      ∧ ((after (.qcr car 5 3 0) (stateOf (withOrders [order 5 (.spot 22) .sent true]
          (pushState { contextIn .closing with spotAwaited := true } opened).part))).psq.context.map
            fun x => (x.stage, x.spotDone, x.spotAwaited)) = some (.closing, true, false)
      ∧ (after (.qcr car 5 2 0) (ordered [order 5 (.spot 22) .sent true, order 6 .dump .queued false,
          order 7 .release .queued false])).qou.orders.map (fun o => (o.id, o.offered)) = [(7, true)] := by decide +kernel

/-! ## Views and reports of others -/

theorem witness_MachineViewsFollowTheirStations :
    busy.config = some cfg ∧ (∀ h ∈ [pusher, guide, car, peer], fromOther h cfg = true) ∧ cfg.pusherStation ≠ cfg.guideStation
      ∧ cfg.pusherStation ≠ cfg.carStation ∧ cfg.guideStation ≠ cfg.carStation
      ∧ pusher.station.toNat = cfg.pusherStation ∧ guide.station.toNat = cfg.guideStation
      ∧ car.station.toNat = cfg.carStation ∧ (2 : Byte).toNat = Claims.activityCode .fault
      ∧ (2 : Byte).toNat = Claims.loadCode .quenched ∧ (1 : Byte).toNat = true.toNat := by decide +kernel

theorem inRange_ends : Claims.inRange cfg 65 ∧ ¬Claims.inRange cfg 66 ∧ Claims.inRange cfg 250 ∧ ¬Claims.inRange cfg 249
    ∧ Claims.inRange cfg 252 ∧ ¬Claims.inRange cfg 253 := by
  simp [Claims.inRange, cfg]

theorem test_mst :
    (after (.mst car 251 1 1 9 63) (stateIn .coking)).lvt.car = some ⟨251, .busy, .hot, 63, .running 3000⟩
      ∧ (after (.mst guide 22 0 9 2 99) (stateIn .coking)).lvt.guide = none
      ∧ (after (.mst pusher 66 0 0 0 0) (stateIn .coking)).lvt.pusher = none := by decide +kernel

theorem witness_ReportsFillTheViews :
    busy.config = some cfg ∧ fromOther peer cfg = true ∧ (0x7000 : Word16).toNat / 4096 % 8 = 7
      ∧ (0xC4A4 : Word16).toNat / 4096 % 8 = Claims.phaseCode .ready ∧ (0xC4A4 : Word16).toNat % 4096 = 1188
      ∧ (placeOf cfg 22).isSome = true ∧ placeOf cfg 20 = none ∧ 20 + 1 = cfg.firstOven ∧ placeOf cfg 24 = none
      ∧ 24 = cfg.firstOven + cfg.ovenCount ∧ (Limit.running 6000).active = true
      ∧ placeOf cfg (0 : Byte).toNat = none ∧ (0 : Byte).toNat ≠ cfg.firstOven + cfg.ovenCount
      ∧ cfg.batteryOvens < (66 : Byte).toNat ∧ placeOf cfg (66 : Byte).toNat = none := by decide +kernel

theorem test_reports :
    (after (.ovs peer 20 0xC4A4 0 0 0 0 0) (stateIn .coking)).lvt.lower = some ⟨.ready, 1188, .running 6000⟩
      ∧ (after (.ovs peer 22 0xC4A4 0 0 0 0 0) (stateIn .coking)).asr.station = 0x40
      ∧ (after (.pdn peer 65 60 1) (stateIn .coking)).lvt.anchor = some 65
      ∧ (after (.pdn peer 66 60 1) (stateIn .coking)).lvt.anchor = none
      ∧ (after (.scs peer 5 43 1 0 0 0 0) (stateIn .coking)).lvt.peers = [⟨12, .running 6000⟩] := by decide +kernel

/-- Eight peers: a ninth takes the place of the first (R117). -/
theorem test_peers :
    withPeer 12 ((List.range 8).map fun n => ⟨20 + n, .running 6000⟩)
      = ((List.range 7).map fun n => ⟨21 + n, .running 6000⟩) ++ [⟨12, .running 6000⟩] := by decide +kernel

/-! ## The line -/

def attempt (k : Kind) (sub : Subject) : Attempt := { kind := k, subject := sub, frame := [], replaced := false }

/-- A telegram of oven 22 on the line. -/
def sending (k : Kind) : Part :=
  let b := (Bli.start.offer k (.oven 22) [22]).1
  { partWith (place 22 .coking) with bli := { b with attempt := some (attempt k (.oven 22)), failed := 31 } }

theorem witness_AttemptsBeginAndFail :
    (sending .chp).config = some cfg ∧ (sending .chp).bli.attempt = some (attempt .chp (.oven 22))
      ∧ (sending .chp).bli.failed + 1 = 32 ∧ (sending .chp).bli.queue ≠ [] ∧ (sending .chp).bli.silent.active = false
      ∧ cfg.station < 256 ∧ fullLine.attempt = none ∧ fullLine.silent.active = false
      ∧ (Timer.running 5000).active = true := by decide +kernel

/-- At the urgency 3 of a CHP, station 6 takes the line from station 7 and station 8 does not (R131). -/
theorem test_contention :
    (after (.lostContention 3 6) (stateOf (sending .chp))).bli.attempt = none
      ∧ (after (.lostContention 3 8) (stateOf (sending .chp))).bli.attempt.isSome = true
      ∧ (after .attemptFailed (stateOf (sending .chp))).asr.station = 0x04
      ∧ (after .attemptFailed (stateOf (sending .ovs))).bli.queue = [] := by decide +kernel

/-- The frame of a CHP of oven 22 from station 7: bytes 3, 7, 0x30, 1, 22 and the check. -/
theorem test_attempt :
    (after .lineIdleAttempt (stateOf { sending .chp with bli := (Bli.start.offer .chp (.oven 22) [22]).1 })).bli.attempt.map
        (fun a => a.frame.take 5) = some [3, 7, 0x30, 1, 22] := by decide +kernel

/-- Oven 22 CHARGING with its CHP owed, two PDNs pending, and an OVS on the line. -/
def owed : Place := { place 22 .charging with oven := { (place 22 .charging).oven with chpPending := true } }

def owing : Part :=
  { sending .ovs with
    places := [place 21 .coking, owed, place 23 .coking]
    psq := { context := none, pendingPdn := [⟨21, 60, false⟩, ⟨23, 61, true⟩] } }

theorem witness_CleanEchoRemovesTheTelegram :
    (sending .chp).config = some cfg ∧ (sending .bid).bli.attempt = some (attempt .bid (.oven 22))
      ∧ (sending .chp).qou.orders = [] ∧ (∀ pl ∈ (sending .chp).places, pl.oven.chpPending = false)
      ∧ (sending .chp).psq.pendingPdn = [] ∧ (sending .chp).bli.Sound
      ∧ (∃ e ∈ (sending .chp).bli.queue, e.kind = .chp ∧ e.subject = .oven 22)
      ∧ (order 8 .dump .queued false).state = .queued ∧ (order 8 .dump .queued false).offered = false
      ∧ owing.bli.Sound ∧ owing.bli.attempt = some (attempt .ovs (.oven 22))
      ∧ (∃ e ∈ owing.bli.queue, e.kind = .ovs ∧ e.subject = .oven 22)
      ∧ owing.places[1]? = some owed ∧ owed.oven.chpPending = true ∧ owed.oven.kept.phase = .charging
      ∧ (sending .ovs).bli.Sound ∧ (∀ x ∈ (sending .ovs).places, x.oven.chpPending = false) := by
  decide +kernel

/-- A telegram removed makes room: the CHP owed is offered, and both pending PDNs in rising oven number (R14, R49). -/
theorem test_reoffers :
    let p := after .attemptSucceeded (stateOf owing)
    (p.places.map (·.oven.chpPending))[1]? = some false ∧ p.psq.pendingPdn = []
      ∧ p.bli.queue.map (fun e => (e.kind, e.payload)) = [(.chp, [22]), (.pdn, [21, 60, 0]), (.pdn, [23, 61, 1])] := by
  decide +kernel

/-- A BID heard back starts the window, a PDN heard back is the anchor (R28, R115). -/
theorem test_echo :
    (after .attemptSucceeded (stateOf { sending .bid with bsu := (bidding free).bsu })).bsu.record
        = some ⟨22, 0, .running 2000⟩
      ∧ (after .attemptSucceeded (stateOf (sending .pdn))).lvt.anchor = some 22
      ∧ (after .attemptSucceeded (stateOf (sending .pdn))).bli.queue = [] := by decide +kernel

theorem witness_PeriodicReportsAreOffered :
    let p := partWith (place 22 .coking)
    p.config = some cfg ∧ p.places[p.asr.roundRobin]? = some (place 21 .coking) ∧ (place 21 .coking).oven.kept.age ≤ 4095
      ∧ (place 21 .coking).offtake.valve ≤ 1000 ∧ p.asr.scsPeriod.active = true
      ∧ Asr.start.scsPeriod.active = false := by decide +kernel

/-- SCS of a push in PREPARE for oven 22, a SPOT ACCEPTED at the head (R143, R150). -/
theorem test_scs : scsPayload busy = [1, 22, 0, 0, 1, 0x13, 0] := by decide +kernel

/-! ## Start-up -/

/-- The block of `cfg`, by the offsets of R151. -/
def block : List Byte :=
  let fields : List Byte :=
    [1, 7, 21, 3, 65, 10, 0, 2, 4, 6, 8, 1, 3, 5, 7, 9, 0x04, 0xB0, 30, 0x01, 0x90, 20, 20, 0, 160, 0, 100, 0, 30, 0, 240,
      0x03, 0x84, 30, 40, 0x01, 0x90, 20, 24, 12, 0, 50, 0x03, 0xE8, 0, 40, 0x01, 0x2C, 0x02, 0x58, 0x07, 0xD0]
      ++ (List.replicate 8 [0x08, 0x00]).flatten ++ [1, 2, 3, 4, 50, 51, 0, 0, 0x48, 90, 20, 45, 30, 0x0C, 0x42, 0x43]
  fields ++ bytesOf16 ((fields.map (·.toNat)).sum)

theorem test_block : block.length = 86 ∧ loadBlock true block = some cfg ∧ loadBlock false block = none
    ∧ loadBlock true (block.set 85 0) = none := by decide +kernel

/-- "Three loads", the third: bid window 60, leak_on 0 and quench time 200 are clamped; and the second: F = 60, K = 8. -/
theorem test_loads :
    let wild := parseBlock (((block.set 22 60).set 78 0).set 77 200)
    (wild.bidWindow, wild.leakOn, wild.quenchTime) = (50, 1, 180)
      ∧ structurePasses wild = true
      ∧ structurePasses (parseBlock ((block.set 2 60).set 3 8)) = false := by decide +kernel

/-- A part that has read its block, cold and warm. -/
def reading (r : RetainedDomain) : State :=
  stateOf { Part.reset with retained := r, fls := { (partWith (place 22 .coking)).fls with port := configReadSteps } }

def keptDomain : RetainedDomain :=
  { valid := true, firstOven := 21, ovenCount := 3
    records := [⟨.empty, 0, 1200, false⟩, ⟨.pushing, 1190, 1200, false⟩, ⟨.coking, 1300, 1200, true⟩] }

theorem witness_StartSetsEveryBlock :
    (reading .blank).part.load = .reading ∧ loadBlock true block = some cfg ∧ (reading .blank).part.fls.inputs.length = 8
      ∧ (reading keptDomain).part.load = .reading ∧ keptDomain.valid = true ∧ keptDomain.firstOven = cfg.firstOven
      ∧ keptDomain.ovenCount = cfg.ovenCount ∧ keptDomain.records.length = 3 := by decide +kernel

theorem test_starts :
    let cold := after (.configLoadComplete true block false) (reading .blank)
    let warm := after (.configLoadComplete true block true) (reading keptDomain)
    cold.phases = [.unknown, .unknown, .unknown] ∧ cold.asr.station = 0x10
      ∧ warm.phases = [.empty, .unknown, .ready] ∧ warm.asr.station = 0x20
      ∧ warm.places.map (·.offtake.mode) = [.isolate, .hold, .hold] := by decide +kernel

theorem witness_LoadsFailAndSuppliesStopThePart :
    (reading .blank).part.load = .reading ∧ loadBlock false [] = none
      ∧ (failLoad (reading .blank).part).load = .failed ∧ (failLoad (reading .blank).part).retry.active = true
      ∧ busy.resetHeld = false ∧ busy.mainOn = true ∧ (assertReset busy).resetHeld = true ∧ (loseMain busy).mainOn = false
      ∧ (assertReset (loseMain busy)).resetHeld = true ∧ (assertReset (loseMain busy)).mainOn = false
      ∧ loadBlock true block = some cfg ∧ block.length = 86
      ∧ busy.backupOn = true ∧ (loseBackup busy).backupOn = false ∧ (loseBackup busy).mainOn = true := by decide +kernel

theorem test_supplies :
    let off := after .mainSupplyLost (stateOf busy)
    off.retained.records.map (·.phase) = [.coking, .pushing, .coking] ∧ off.asr.relay = false
      ∧ (after .backupSupplyLost (stateOf off)).retained.valid = false
      ∧ (after .mainSupplyApplied (stateOf off)).load = .reading
      ∧ (after .resetReleased (stateOf (after .resetAsserted (stateOf busy)))).load = .reading := by decide +kernel

/-- The backup gone while the main supply is on, then the main supply: the domain is lost. A comparator report that is not low in
between says that the backup holds again (R145, log 23). -/
theorem test_bothSupplies :
    let gone := after .backupSupplyLost (stateOf { busy with retained := keptDomain })
    (after .mainSupplyLost (stateOf gone)).retained.valid = false
      ∧ (after .mainSupplyLost (stateOf (after (.evaluationExpiry false) (stateOf gone)))).retained.valid = true
      ∧ (after .mainSupplyLost (stateOf { busy with retained := keptDomain })).retained.valid = true := by decide +kernel

theorem test_outageMinutes :
    let off := after .mainSupplyLost (stateOf busy)
    (after .minuteExpiry (stateOf off)).retained.records.map (·.age) = [1201, 1200, 1201] := by decide +kernel

theorem witness_MillisecondSamplesThePins :
    let p := spelling 1 .capOpen true (partWith (place 22 .coking))
    State.reset.part.dividers = some 0 ∧ (assertReset busy).dividers = none
      ∧ (p.fls.inputs[1]?.map fun x => (x.get .capOpen).pin) = some (some true)
      ∧ (p.fls.inputs[1]?.map fun x => (x.get .capOpen).stability.active) = some true
      ∧ (Part.reset.fls.inputs[7]?.map fun x => (x.get .capOpen).level) = some none := by decide +kernel

/-- A bounce is forgotten; a differing sample starts 50 ms (R121). -/
theorem test_samples :
    (input false).sample true = { pin := some true, level := some false, stability := .running 50 }
      ∧ ((input false).sample true).sample false = input false
      ∧ (after (.debounceExpiry 2 .capOpen) (stateOf (spelling 1 .capOpen true State.reset.part))).level 1 .capOpen = true := by
  decide +kernel

end Sys2Proof.Tests
end

/-! SUPPORT. The rules of one oven's place: what each shared operation makes of the records at its place, as a function of the
place, the push context and the debounced levels. Proofs about commands use these rules and do not unfold the operations. -/

namespace Sys2Proof.Machine

open Sys2Proof

/-! ## Fields outside the oven (consequences of `OvenOnly`) -/

namespace OvenOnly

variable {i : Nat} {p q : Part}

theorem config_eq (h : OvenOnly i p q) : q.config = p.config := by rw [h.rest]; rfl
theorem retained_eq (h : OvenOnly i p q) : q.retained = p.retained := by rw [h.rest]
theorem psq_eq (h : OvenOnly i p q) : q.psq = p.psq := by rw [h.rest]
theorem qou_eq (h : OvenOnly i p q) : q.qou = p.qou := by rw [h.rest]
theorem bsu_eq (h : OvenOnly i p q) : q.bsu = p.bsu := by rw [h.rest]
theorem inputs_eq (h : OvenOnly i p q) : q.fls.inputs = p.fls.inputs := by rw [h.rest]

theorem level_eq (h : OvenOnly i p q) (j : Nat) (input : SwitchInput) : q.level j input = p.level j input := by
  simp [Part.level, h.inputs_eq]

/-- A place is there after just when it was there before. -/
theorem get_none (h : OvenOnly i p q) (hp : p.places[i]? = none) : q.places[i]? = none := by
  have := h.number
  simpa [Part.numberAt, hp] using this

/-- The same change of the push unit on both sides. -/
theorem withPsq (h : OvenOnly i p q) (x : Psq) : OvenOnly i { p with psq := x } { q with psq := x } where
  number := h.number
  places := h.places
  channels := h.channels
  entries := h.entries
  rest := by rw [h.rest]

end OvenOnly

/-! ## Alarm sets (R139) -/

theorem OvenAlarm.bit_lt (a : OvenAlarm) : a.bit < 16 := by cases a <;> decide

theorem OvenAlarm.bit_injective {a b : OvenAlarm} (h : a.bit = b.bit) : a = b := by
  cases a <;> cases b <;> simp_all [OvenAlarm.bit]

/-- An alarm held in a set by its condition. -/
def heldIn (set : Word16) (a : OvenAlarm) (on : Bool) : Word16 :=
  if on then set ||| ovenBit a else set &&& ~~~ovenBit a

theorem ovenBit_getLsbD (a b : OvenAlarm) : (ovenBit a).getLsbD b.bit = decide (a = b) := by
  have key : (ovenBit a).getLsbD b.bit = (decide (a.bit < 16) && decide (a.bit = b.bit)) := BitVec.getLsbD_twoPow _ _
  rw [key]
  by_cases h : a = b
  · simp [h, b.bit_lt]
  · simp [h, mt OvenAlarm.bit_injective h]

@[simp] theorem hasOven_or (set : Word16) (a b : OvenAlarm) :
    hasOven (set ||| ovenBit a) b = (hasOven set b || decide (a = b)) := by
  simp [hasOven, BitVec.getLsbD_or, ovenBit_getLsbD]

@[simp] theorem hasOven_heldIn (set : Word16) (a b : OvenAlarm) (on : Bool) :
    hasOven (heldIn set a on) b = if a = b then on else hasOven set b := by
  cases on
  · have hb := b.bit_lt
    simp only [heldIn, hasOven, Bool.false_eq_true, if_false, BitVec.getLsbD_and, BitVec.getLsbD_not, ovenBit_getLsbD]
    by_cases h : a = b <;> simp [h, hb]
  · by_cases h : a = b <;> simp [heldIn, h]

/-! ## What an operation makes of a place -/

/-- A place with another alarm set. -/
def Place.withAlarms (pl : Place) (set : Word16) : Place := { pl with oven := { pl.oven with alarms := set } }

/-- A place with an alarm held by its condition. -/
def Place.held (pl : Place) (a : OvenAlarm) (on : Bool) : Place := pl.withAlarms (heldIn pl.oven.alarms a on)

/-- A place with another offtake record. -/
def Place.withOfftake (pl : Place) (o : Offtake) : Place := { pl with offtake := o }

/-- A place with its oven's hold flag set or cleared. -/
def Place.withHold (hold : Bool) (pl : Place) : Place :=
  { pl with oven := { pl.oven with kept := { pl.oven.kept with hold := hold } } }

/-- A place with a door record stored and RESEAL held by its flag. -/
def Place.doorStored (pl : Place) (side : Side) (d : Door) : Place :=
  (pl.withDoor side d).held (resealAlarm side) d.resealWanted

/-- The conditions of R63 for the place, with the push context given. -/
def Place.ready (c : Configuration) (x : Option Context) (pl : Place) : Bool :=
  match x with
  | none => false
  | some x =>
      (x.stage == .prepare || x.stage == .armed) && x.oven == pl.oven.number
        && pl.offtake.mode == .isolate && pl.offtake.sub == some .reached
        && pl.offtake.pressure.any fun v => decide (v ≤ (c.permitMax : Int))

/-- The permit decision for one door of a place (R63 to R65). -/
def Place.permitOne (c : Configuration) (x : Option Context) (l : SwitchInput → Bool) (side : Side) (pl : Place) : Place :=
  let d := (pl.door side).decide c (pl.ready c x) (l (.leak side))
  if d = pl.door side then pl else pl.doorStored side d

/-- The permit decision for both doors of a place. -/
def Place.permits (c : Configuration) (x : Option Context) (l : SwitchInput → Bool) (pl : Place) : Place :=
  (pl.permitOne c x l .p).permitOne c x l .c

/-- An offtake record stored, with the permit decision. -/
def Place.settled (c : Configuration) (x : Option Context) (l : SwitchInput → Bool) (o : Offtake) (pl : Place) : Place :=
  (pl.withOfftake o).permits c x l

/-- The three offtake levels among the levels of a place. -/
def offtakeLevelsOf (l : SwitchInput → Bool) : OfftakeLevels :=
  { valveClosed := l .valveClosed, capOpen := l .capOpen, capClosed := l .capClosed }

/-- A charge start in flight cancelled as the phase leaves EMPTY (R16). -/
def Oven.leaveEmpty (old : Oven) (o : Oven) : Oven :=
  if old.inFlight = true ∧ old.kept.phase = .empty then { o with inFlight := false } else o

/-- The oven record at another phase (R5, R16, R17, R18). -/
def Oven.entered (new : Phase) (o : Oven) : Oven := o.leaveEmpty (o.withPhase new)

/-- A place with its oven's record at another phase and OVERDUE evaluated. -/
def Place.recordEntered (c : Configuration) (new : Phase) (pl : Place) : Place :=
  let overdue := Retained.isOverdue c { pl.oven.kept with phase := new }
  { pl with oven := { pl.oven.entered new with alarms := heldIn pl.oven.alarms .overdue overdue } }

/-- A place at another phase: the record and OVERDUE, the offtake by R84 and the permit decision. -/
def Place.entered (c : Configuration) (x : Option Context) (l : SwitchInput → Bool) (new : Phase) (pl : Place) : Place :=
  (pl.recordEntered c new).settled c x l (pl.offtake.phaseChange c (offtakeLevelsOf l) pl.oven.kept.phase new)

end Sys2Proof.Machine

namespace Sys2Proof.Machine

open Sys2Proof

/-! ## Fields of a place after each change -/

@[simp] theorem Place.held_oven (pl : Place) (a : OvenAlarm) (on : Bool) :
    (pl.held a on).oven = { pl.oven with alarms := heldIn pl.oven.alarms a on } := rfl
@[simp] theorem Place.held_offtake (pl : Place) (a : OvenAlarm) (on : Bool) : (pl.held a on).offtake = pl.offtake := rfl
@[simp] theorem Place.held_doorP (pl : Place) (a : OvenAlarm) (on : Bool) : (pl.held a on).doorP = pl.doorP := rfl
@[simp] theorem Place.held_doorC (pl : Place) (a : OvenAlarm) (on : Bool) : (pl.held a on).doorC = pl.doorC := rfl
@[simp] theorem Place.held_door (pl : Place) (a : OvenAlarm) (on : Bool) (side : Side) :
    (pl.held a on).door side = pl.door side := by cases side <;> rfl

@[simp] theorem Place.withOfftake_oven (pl : Place) (o : Offtake) : (pl.withOfftake o).oven = pl.oven := rfl
@[simp] theorem Place.withOfftake_offtake (pl : Place) (o : Offtake) : (pl.withOfftake o).offtake = o := rfl
@[simp] theorem Place.withOfftake_doorP (pl : Place) (o : Offtake) : (pl.withOfftake o).doorP = pl.doorP := rfl
@[simp] theorem Place.withOfftake_doorC (pl : Place) (o : Offtake) : (pl.withOfftake o).doorC = pl.doorC := rfl
@[simp] theorem Place.withOfftake_door (pl : Place) (o : Offtake) (side : Side) :
    (pl.withOfftake o).door side = pl.door side := by cases side <;> rfl

@[simp] theorem Place.withDoor_door (pl : Place) (side : Side) (d : Door) : (pl.withDoor side d).door side = d := by
  cases side <;> rfl
theorem Place.withDoor_door_other (pl : Place) {side other : Side} (d : Door) (h : other ≠ side) :
    (pl.withDoor side d).door other = pl.door other := by
  cases side <;> cases other <;> simp_all [Place.withDoor, Place.door]
@[simp] theorem Place.withDoor_oven (pl : Place) (side : Side) (d : Door) : (pl.withDoor side d).oven = pl.oven := by
  cases side <;> rfl
@[simp] theorem Place.withDoor_offtake (pl : Place) (side : Side) (d : Door) :
    (pl.withDoor side d).offtake = pl.offtake := by cases side <;> rfl

@[simp] theorem Place.doorStored_oven (pl : Place) (side : Side) (d : Door) :
    (pl.doorStored side d).oven = { pl.oven with alarms := heldIn pl.oven.alarms (resealAlarm side) d.resealWanted } := by
  simp [Place.doorStored]
@[simp] theorem Place.doorStored_offtake (pl : Place) (side : Side) (d : Door) :
    (pl.doorStored side d).offtake = pl.offtake := by simp [Place.doorStored]
@[simp] theorem Place.doorStored_door (pl : Place) (side : Side) (d : Door) : (pl.doorStored side d).door side = d := by
  simp [Place.doorStored]
theorem Place.doorStored_door_other (pl : Place) {side other : Side} (d : Door) (h : other ≠ side) :
    (pl.doorStored side d).door other = pl.door other := by
  simp [Place.doorStored, Place.withDoor_door_other pl d h]

/-! ## The permit decision at a place (R63 to R65) -/

section
variable (c : Configuration) (x : Option Context) (l : SwitchInput → Bool) (side : Side) (pl : Place)

theorem Place.ready_congr {pl pl' : Place} (hn : pl'.oven.number = pl.oven.number) (ho : pl'.offtake = pl.offtake) :
    pl'.ready c x = pl.ready c x := by
  simp [Place.ready, hn, ho]

@[simp] theorem Place.permitOne_offtake : (pl.permitOne c x l side).offtake = pl.offtake := by
  unfold Place.permitOne; dsimp only; split <;> simp
@[simp] theorem Place.permitOne_number : (pl.permitOne c x l side).oven.number = pl.oven.number := by
  unfold Place.permitOne; dsimp only; split <;> simp

@[simp] theorem Place.permitOne_door :
    (pl.permitOne c x l side).door side = (pl.door side).decide c (pl.ready c x) (l (.leak side)) := by
  unfold Place.permitOne
  dsimp only
  split
  · next h => exact h.symm
  · simp

theorem Place.permitOne_door_other {other : Side} (h : other ≠ side) :
    (pl.permitOne c x l side).door other = pl.door other := by
  unfold Place.permitOne
  dsimp only
  split
  · rfl
  · exact Place.doorStored_door_other _ _ h

@[simp] theorem Place.permitOne_ready : (pl.permitOne c x l side).ready c x = pl.ready c x :=
  Place.ready_congr c x (by simp) (by simp)

end

/-- Two oven records that differ in the RESEAL alarms alone. -/
structure Oven.ResealOnly (o o' : Oven) : Prop where
  rest : o' = { o with alarms := o'.alarms }
  alarm : ∀ a, a ≠ .resealP → a ≠ .resealC → hasOven o'.alarms a = hasOven o.alarms a

namespace Oven.ResealOnly

variable {o o' o'' : Oven}

theorem refl (o : Oven) : o.ResealOnly o := ⟨rfl, fun _ _ _ => rfl⟩

theorem trans (h : o.ResealOnly o') (k : o'.ResealOnly o'') : o.ResealOnly o'' where
  rest := by rw [k.rest]; rw [h.rest]
  alarm a hp hc := (k.alarm a hp hc).trans (h.alarm a hp hc)

theorem number (h : o.ResealOnly o') : o'.number = o.number := by rw [h.rest]
theorem kept (h : o.ResealOnly o') : o'.kept = o.kept := by rw [h.rest]
theorem inFlight (h : o.ResealOnly o') : o'.inFlight = o.inFlight := by rw [h.rest]
theorem chpPending (h : o.ResealOnly o') : o'.chpPending = o.chpPending := by rw [h.rest]
theorem chargeLimit (h : o.ResealOnly o') : o'.chargeLimit = o.chargeLimit := by rw [h.rest]

end Oven.ResealOnly

theorem Place.permitOne_resealOnly (c : Configuration) (x : Option Context) (l : SwitchInput → Bool) (side : Side)
    (pl : Place) : pl.oven.ResealOnly (pl.permitOne c x l side).oven := by
  unfold Place.permitOne
  dsimp only
  split
  · exact .refl _
  · refine ⟨by simp, fun a hp hc => ?_⟩
    have : resealAlarm side ≠ a := by cases side <;> simp [resealAlarm, Ne.symm hp, Ne.symm hc]
    simp [this]

section
variable (c : Configuration) (x : Option Context) (l : SwitchInput → Bool) (pl : Place)

theorem Place.permits_resealOnly : pl.oven.ResealOnly (pl.permits c x l).oven :=
  (Place.permitOne_resealOnly c x l .p pl).trans (Place.permitOne_resealOnly c x l .c _)

@[simp] theorem Place.permits_offtake : (pl.permits c x l).offtake = pl.offtake := by simp [Place.permits]

@[simp] theorem Place.permits_door (side : Side) :
    (pl.permits c x l).door side = (pl.door side).decide c (pl.ready c x) (l (.leak side)) := by
  cases side
  · rw [Place.permits, Place.permitOne_door_other _ _ _ _ _ (by decide), Place.permitOne_door]
  · rw [Place.permits, Place.permitOne_door, Place.permitOne_ready,
      Place.permitOne_door_other _ _ _ _ _ (by decide)]

@[simp] theorem Place.permits_kept : (pl.permits c x l).oven.kept = pl.oven.kept :=
  (pl.permits_resealOnly c x l).kept
@[simp] theorem Place.permits_number : (pl.permits c x l).oven.number = pl.oven.number :=
  (pl.permits_resealOnly c x l).number
@[simp] theorem Place.permits_inFlight : (pl.permits c x l).oven.inFlight = pl.oven.inFlight :=
  (pl.permits_resealOnly c x l).inFlight
@[simp] theorem Place.permits_chpPending : (pl.permits c x l).oven.chpPending = pl.oven.chpPending :=
  (pl.permits_resealOnly c x l).chpPending
@[simp] theorem Place.permits_chargeLimit : (pl.permits c x l).oven.chargeLimit = pl.oven.chargeLimit :=
  (pl.permits_resealOnly c x l).chargeLimit

/-- A decision that changes neither door leaves the place. -/
theorem Place.permits_of_decide
    (h : ∀ side, (pl.door side).decide c (pl.ready c x) (l (.leak side)) = pl.door side) : pl.permits c x l = pl := by
  have one (side : Side) : pl.permitOne c x l side = pl := by simp [Place.permitOne, h side]
  rw [Place.permits, one, one]

end

/-! ## The permit decision on a door -/

theorem Door.decide_kept {c : Configuration} {leak : Bool} {d : Door} (h : d.state ≠ .released) :
    d.decide c false leak = d := by simp [Door.decide, h]

/-- A door away from SEALED, LEAKING and RELEASED is not the decision's. -/
theorem Door.decide_away {c : Configuration} {ready leak : Bool} {d : Door} (h : Claims.away d) :
    d.decide c ready leak = d := by
  rcases h with h | h | h <;> simp [Door.decide, h, DoorState.isLatched]

/-- Without the conditions no door stays RELEASED. -/
theorem Door.decide_not_released (c : Configuration) (leak : Bool) (d : Door) :
    (d.decide c false leak).state ≠ .released := by
  by_cases h : d.state = .released <;> simp [Door.decide, h, Door.enterSealed]

/-- A permit line active just in RELEASED stays so. -/
theorem Door.decide_honest {c : Configuration} {ready leak : Bool} {d : Door}
    (h : d.permit = true → d.state = .released) :
    (d.decide c ready leak).permit = true → (d.decide c ready leak).state = .released := by
  unfold Door.decide
  split
  · split
    · exact fun _ => rfl
    · exact h
  · split
    · exact fun hp => by simp [Door.enterSealed] at hp
    · exact h

/-- Without the conditions and with no door RELEASED the place is left as it is. -/
theorem Place.permits_kept_of_not_ready {c : Configuration} {x : Option Context} {l : SwitchInput → Bool} {pl : Place}
    (hr : pl.ready c x = false) (hp : pl.doorP.state ≠ .released) (hc : pl.doorC.state ≠ .released) :
    pl.permits c x l = pl := by
  refine Place.permits_of_decide c x l pl fun side => ?_
  rw [hr]
  cases side
  · exact Door.decide_kept hp
  · exact Door.decide_kept hc

/-- The conditions fail for an oven that is not the push context's. -/
theorem Place.not_ready_of_no_push {c : Configuration} {x : Option Context} {pl : Place}
    (h : ∀ y, x = some y → y.oven ≠ pl.oven.number) : pl.ready c x = false := by
  cases x with
  | none => rfl
  | some y => simp [Place.ready, h y rfl]

/-- They fail in PUSHING, CLOSING and RETURN. -/
theorem Place.not_ready_of_stage {c : Configuration} {x : Option Context} {pl : Place}
    (h : ∀ y, x = some y → y.stage ≠ .prepare ∧ y.stage ≠ .armed) : pl.ready c x = false := by
  cases x with
  | none => rfl
  | some y => simp [Place.ready, h y rfl]

/-! ## An offtake stored, and a phase entered, at a place -/

section
variable (c : Configuration) (x : Option Context) (l : SwitchInput → Bool) (o : Offtake) (pl : Place)

@[simp] theorem Place.settled_offtake : (pl.settled c x l o).offtake = o := by simp [Place.settled]
@[simp] theorem Place.settled_kept : (pl.settled c x l o).oven.kept = pl.oven.kept := by simp [Place.settled]
@[simp] theorem Place.settled_number : (pl.settled c x l o).oven.number = pl.oven.number := by simp [Place.settled]
@[simp] theorem Place.settled_inFlight : (pl.settled c x l o).oven.inFlight = pl.oven.inFlight := by simp [Place.settled]
@[simp] theorem Place.settled_chpPending : (pl.settled c x l o).oven.chpPending = pl.oven.chpPending := by
  simp [Place.settled]
@[simp] theorem Place.settled_chargeLimit : (pl.settled c x l o).oven.chargeLimit = pl.oven.chargeLimit := by
  simp [Place.settled]
theorem Place.settled_resealOnly : pl.oven.ResealOnly (pl.settled c x l o).oven :=
  Place.permits_resealOnly c x l (pl.withOfftake o)
@[simp] theorem Place.settled_door (side : Side) : (pl.settled c x l o).door side
    = (pl.door side).decide c ((pl.withOfftake o).ready c x) (l (.leak side)) := by
  simp [Place.settled]

end

@[simp] theorem Oven.entered_number (o : Oven) (new : Phase) : (o.entered new).number = o.number := by
  simp only [Oven.entered, Oven.leaveEmpty]; split <;> rfl
@[simp] theorem Oven.entered_kept (o : Oven) (new : Phase) : (o.entered new).kept = { o.kept with phase := new } := by
  simp only [Oven.entered, Oven.leaveEmpty]; split <;> rfl
@[simp] theorem Oven.entered_alarms (o : Oven) (new : Phase) : (o.entered new).alarms = o.alarms := by
  simp only [Oven.entered, Oven.leaveEmpty]; split <;> rfl
@[simp] theorem Oven.entered_inFlight (o : Oven) (new : Phase) :
    (o.entered new).inFlight = (o.inFlight && o.kept.phase != .empty) := by
  simp only [Oven.entered, Oven.leaveEmpty]
  split
  · next h => simp [h]
  · next h => simp only [Oven.withPhase]; cases hf : o.inFlight <;> simp_all
@[simp] theorem Oven.entered_chpPending (o : Oven) (new : Phase) :
    (o.entered new).chpPending = (o.chpPending && o.kept.phase != .charging) := by
  simp only [Oven.entered, Oven.leaveEmpty]
  split <;> simp [Oven.withPhase, Bool.and_comm, bne, beq_eq_decide]
@[simp] theorem Oven.entered_chargeLimit (o : Oven) (new : Phase) :
    (o.entered new).chargeLimit = if o.kept.phase = .charging then .stopped else o.chargeLimit := by
  simp only [Oven.entered, Oven.leaveEmpty]; split <;> rfl

section
variable (c : Configuration) (x : Option Context) (l : SwitchInput → Bool) (new : Phase) (pl : Place)

@[simp] theorem Place.recordEntered_oven : (pl.recordEntered c new).oven = { pl.oven.entered new with
    alarms := heldIn pl.oven.alarms .overdue (Retained.isOverdue c { pl.oven.kept with phase := new }) } := rfl
@[simp] theorem Place.recordEntered_door (side : Side) : (pl.recordEntered c new).door side = pl.door side := by
  cases side <;> rfl

@[simp] theorem Place.entered_kept : (pl.entered c x l new).oven.kept = { pl.oven.kept with phase := new } := by
  simp [Place.entered]
@[simp] theorem Place.entered_number : (pl.entered c x l new).oven.number = pl.oven.number := by simp [Place.entered]
@[simp] theorem Place.entered_inFlight :
    (pl.entered c x l new).oven.inFlight = (pl.oven.inFlight && pl.oven.kept.phase != .empty) := by
  simp [Place.entered]
@[simp] theorem Place.entered_chpPending :
    (pl.entered c x l new).oven.chpPending = (pl.oven.chpPending && pl.oven.kept.phase != .charging) := by
  simp [Place.entered]
@[simp] theorem Place.entered_chargeLimit : (pl.entered c x l new).oven.chargeLimit
    = if pl.oven.kept.phase = .charging then .stopped else pl.oven.chargeLimit := by
  simp [Place.entered]
@[simp] theorem Place.entered_offtake : (pl.entered c x l new).offtake
    = pl.offtake.phaseChange c (offtakeLevelsOf l) pl.oven.kept.phase new := by
  simp [Place.entered]
/-- OVERDUE follows the phase entered; every other alarm but RESEAL stands. -/
theorem Place.entered_alarm (a : OvenAlarm) (hp : a ≠ .resealP) (hc : a ≠ .resealC) :
    hasOven (pl.entered c x l new).oven.alarms a
      = if OvenAlarm.overdue = a then Retained.isOverdue c { pl.oven.kept with phase := new }
        else hasOven pl.oven.alarms a := by
  rw [Place.entered, (Place.settled_resealOnly c x l _ _).alarm a hp hc]
  simp
theorem Place.entered_door (side : Side) : (pl.entered c x l new).door side
    = (pl.door side).decide c ((pl.entered c x l new).ready c x) (l (.leak side)) := by
  have key : (pl.entered c x l new).ready c x = ((pl.recordEntered c new).withOfftake
      (pl.offtake.phaseChange c (offtakeLevelsOf l) pl.oven.kept.phase new)).ready c x :=
    Place.ready_congr c x (by simp) (by simp)
  rw [key, Place.entered, Place.settled_door, Place.recordEntered_door]

end

end Sys2Proof.Machine

namespace Sys2Proof.Machine

open Sys2Proof

/-! ## What a part shows of the oven at a place -/

/-- At place `i` the part holds the records `pl`; the push context is `x` and the debounced levels of the place are `l`. -/
structure Part.Shows (p : Part) (i : Nat) (pl : Place) (x : Option Context) (l : SwitchInput → Bool) : Prop where
  place : p.places[i]? = some pl
  context : p.psq.context = x
  level : ∀ input, p.level i input = l input

theorem Part.shows_self {p : Part} {i : Nat} {pl : Place} (h : p.places[i]? = some pl) :
    p.Shows i pl p.psq.context (p.level i) := ⟨h, rfl, fun _ => rfl⟩

namespace Part.Shows

variable {p q : Part} {i : Nat} {pl pl' : Place} {x : Option Context} {l : SwitchInput → Bool}

theorem of_ovenOnly (h : p.Shows i pl x l) (k : OvenOnly i p q) (hq : q.places[i]? = some pl') : q.Shows i pl' x l :=
  ⟨hq, by rw [k.psq_eq, h.context], fun input => by rw [k.level_eq, h.level]⟩

theorem offtakeLevels (h : p.Shows i pl x l) : p.offtakeLevels i = offtakeLevelsOf l := by
  simp [Part.offtakeLevels, offtakeLevelsOf, h.level]

theorem permitReady (h : p.Shows i pl x l) (c : Configuration) : permitReady c p i = pl.ready c x := by
  cases x with
  | none => simp [Machine.permitReady, Place.ready, h.context]
  | some y => cases hv : pl.offtake.pressure <;> simp [Machine.permitReady, Place.ready, h.place, h.context, hv]

/-! ### One rule for each operation -/

theorem modifyPlace (h : p.Shows i pl x l) (f : Place → Place) : (p.modifyPlace i f).Shows i (f pl) x l :=
  ⟨by simp [h.place], h.context, h.level⟩

theorem modifyOven (h : p.Shows i pl x l) (f : Oven → Oven) :
    (p.modifyOven i f).Shows i { pl with oven := f pl.oven } x l := h.modifyPlace _

theorem offer (h : p.Shows i pl x l) (k : Kind) (sub : Subject) (b : List Byte) : (p.offer k sub b).Shows i pl x l :=
  ⟨h.place, h.context, h.level⟩

theorem offerOvs (h : p.Shows i pl x l) : (p.offerOvs i).Shows i pl x l :=
  h.of_ovenOnly (.offerOvs i p) (by simp [h.place])

theorem setAlarms (h : p.Shows i pl x l) (c : Configuration) (set : Word16) :
    (setOvenAlarms c i set p).Shows i (pl.withAlarms set) x l := by
  refine h.of_ovenOnly (.setAlarms c i set p) ?_
  simp only [setOvenAlarms, h.place]
  split
  · next e => rw [h.place]; subst e; rfl
  · simp [Part.modifyOven, h.place, Place.withAlarms]

theorem hold (h : p.Shows i pl x l) (c : Configuration) (a : OvenAlarm) (on : Bool) :
    (holdOven c i a on p).Shows i (pl.held a on) x l := by
  cases on <;> simpa [holdOven, raiseOven, removeOven, h.place, Place.held, heldIn] using h.setAlarms c _

theorem raise (h : p.Shows i pl x l) (c : Configuration) (a : OvenAlarm) :
    (raiseOven c i a p).Shows i (pl.held a true) x l := h.hold c a true

theorem evalOverdue (h : p.Shows i pl x l) (c : Configuration) :
    (evalOverdue c i p).Shows i (pl.held .overdue (pl.oven.kept.isOverdue c)) x l := by
  simpa [Machine.evalOverdue, h.place] using h.hold c _ _

theorem commitDoor (h : p.Shows i pl x l) (c : Configuration) (side : Side) (d : Door) :
    (commitDoor c i side d p).Shows i (pl.doorStored side d) x l := by
  have stored : (p.setDoor i side d).Shows i (pl.withDoor side d) x l := h.modifyPlace _
  simp only [Machine.commitDoor, h.place]
  split
  · exact stored.hold c _ _
  · exact stored.offerOvs.hold c _ _

theorem permitDecide (h : p.Shows i pl x l) (c : Configuration) (side : Side) :
    (permitDecide c i side p).Shows i (pl.permitOne c x l side) x l := by
  simp only [Machine.permitDecide, h.place, h.permitReady c, h.level, Place.permitOne]
  split
  · exact h
  · exact h.commitDoor c side _

theorem permitPass (h : p.Shows i pl x l) (c : Configuration) : (permitPass c i p).Shows i (pl.permits c x l) x l :=
  (h.permitDecide c .p).permitDecide c .c

theorem commitOfftake (h : p.Shows i pl x l) (o : Offtake) : (commitOfftake i o p).Shows i (pl.withOfftake o) x l := by
  have stored : ((p.setOfftake i o).writeValve i o.valve).Shows i (pl.withOfftake o) x l :=
    (h.modifyPlace fun y => { y with offtake := o }).of_ovenOnly (.writeValve i _ _)
      (by simp [Part.writeValve, Part.setOfftake, h.place, Place.withOfftake])
  simp only [Machine.commitOfftake, h.place]
  split
  · exact stored
  · exact stored.offerOvs

theorem settle (h : p.Shows i pl x l) (c : Configuration) (o : Offtake) :
    (settleOfftake c i o p).Shows i (pl.settled c x l o) x l := (h.commitOfftake o).permitPass c

theorem setHold (h : p.Shows i pl x l) (hold : Bool) : (setHold i hold p).Shows i (pl.withHold hold) x l := by
  simp only [Machine.setHold, h.place]
  split
  · next e => subst e; exact h
  · exact (h.modifyOven _).offerOvs

theorem cancelOnPhase (h : p.Shows i pl x l) (o : Oven) :
    (cancelOnPhase i o p).Shows i { pl with oven := o.leaveEmpty pl.oven } x l := by
  simp only [Machine.cancelOnPhase, Oven.leaveEmpty]
  split
  · exact (h.modifyOven _).offer _ _ _
  · exact h

theorem setPhase (h : p.Shows i pl x l) (c : Configuration) {new : Phase} (hne : pl.oven.kept.phase ≠ new) :
    (setPhase c i new p).Shows i (pl.entered c x l new) x l := by
  have recorded := (((h.modifyOven fun o => o.withPhase new).offerOvs).evalOverdue c).cancelOnPhase pl.oven
  simp only [Machine.setPhase, h.place, hne, if_false, ocuPhaseChange, recorded.place, recorded.offtakeLevels]
  have same : ({ (({ pl with oven := pl.oven.withPhase new } : Place).held .overdue
        ((pl.oven.withPhase new).kept.isOverdue c)) with
      oven := pl.oven.leaveEmpty (({ pl with oven := pl.oven.withPhase new } : Place).held .overdue
        ((pl.oven.withPhase new).kept.isOverdue c)).oven } : Place) = pl.recordEntered c new := by
    simp only [Place.recordEntered, Oven.entered, Oven.leaveEmpty, Place.held_oven]
    split <;> rfl
  have settled := recorded.settle c (pl.offtake.phaseChange c (offtakeLevelsOf l) pl.oven.kept.phase new)
  rw [same] at settled
  exact settled

/-- A phase the oven has already changes nothing. -/
theorem setPhase_self (h : p.Shows i pl x l) (c : Configuration) : Machine.setPhase c i pl.oven.kept.phase p = p := by
  simp [Machine.setPhase, h.place]

end Part.Shows

end Sys2Proof.Machine

/-! SUPPORT. The rules of the push: what an operation on the push context and the car orders leaves alone, and what it makes of
the oven at the context's place. -/

namespace Sys2Proof.Machine

open Sys2Proof

/-! ## OVS offers of one oven -/

/-- The transmit unit after some OVS offers of oven `n`. -/
inductive OvsOffers (n : Nat) : Bli → Bli → Prop
  | refl (b : Bli) : OvsOffers n b b
  | offer {b b' : Bli} (payload : List Byte) : OvsOffers n b b' → OvsOffers n b (b'.offer .ovs (.oven n) payload).1

theorem OvsOffers.trans {n : Nat} {a b d : Bli} (h : OvsOffers n a b) (k : OvsOffers n b d) : OvsOffers n a d := by
  induction k with
  | refl => exact h
  | offer payload _ ih => exact .offer payload ih

/-- Only the oven at the place differs, and to the queue there were OVS offers of it alone. -/
structure OvsOnly (i : Nat) (p q : Part) : Prop where
  frame : OvenOnly i p q
  line : ∀ n, p.numberAt i = some n → OvsOffers n p.bli q.bli

namespace OvsOnly

variable {i : Nat} {p q r : Part}

theorem refl (i : Nat) (p : Part) : OvsOnly i p p := ⟨.refl i p, fun _ _ => .refl _⟩

theorem trans (h : OvsOnly i p q) (k : OvsOnly i q r) : OvsOnly i p r :=
  ⟨h.frame.trans k.frame, fun n hn => (h.line n hn).trans (k.line n (h.frame.number.trans hn))⟩

theorem of_bli_eq (h : OvenOnly i p q) (hb : q.bli = p.bli) : OvsOnly i p q := ⟨h, fun _ _ => hb ▸ .refl _⟩

theorem offerOvs (i : Nat) (p : Part) : OvsOnly i p (p.offerOvs i) where
  frame := .offerOvs i p
  line n hn := by
    unfold Part.offerOvs
    split
    · exact .refl _
    · next pl hpl =>
      rw [numberAt_some hpl] at hn
      cases hn
      exact .offer _ (.refl _)

theorem setAlarms (c : Configuration) (i : Nat) (set : Word16) (p : Part) : OvsOnly i p (setOvenAlarms c i set p) := by
  unfold setOvenAlarms
  split
  · exact .refl i p
  · split
    · exact .refl i p
    · have stored : OvenOnly i p (p.modifyOven i fun o => { o with alarms := set }) := .modifyOven i p _ fun _ => rfl
      exact (of_bli_eq (stored.trans (.decideRelay c i _)) rfl).trans (.offerOvs i _)

theorem hold (c : Configuration) (i : Nat) (a : OvenAlarm) (on : Bool) (p : Part) : OvsOnly i p (holdOven c i a on p) := by
  unfold holdOven raiseOven removeOven
  split <;> split
  · exact .refl i p
  · exact .setAlarms c i _ p
  · exact .refl i p
  · exact .setAlarms c i _ p

theorem raise (c : Configuration) (i : Nat) (a : OvenAlarm) (p : Part) : OvsOnly i p (raiseOven c i a p) :=
  .hold c i a true p

theorem evalOverdue (c : Configuration) (i : Nat) (p : Part) : OvsOnly i p (evalOverdue c i p) := by
  unfold Machine.evalOverdue
  split
  · exact .refl i p
  · exact .hold c i _ _ p

theorem commitDoor (c : Configuration) (i : Nat) (side : Side) (d : Door) (p : Part) :
    OvsOnly i p (commitDoor c i side d p) := by
  unfold Machine.commitDoor
  split
  · exact .refl i p
  · have stored : OvsOnly i p (p.setDoor i side d) :=
      .of_bli_eq (.modify i p _ fun pl => withDoor_number pl side d) rfl
    refine .trans ?_ (.hold c i _ _ _)
    split
    · exact stored
    · exact stored.trans (.offerOvs i _)

theorem permitDecide (c : Configuration) (i : Nat) (side : Side) (p : Part) : OvsOnly i p (permitDecide c i side p) := by
  unfold Machine.permitDecide
  split
  · exact .refl i p
  · dsimp only
    split
    · exact .refl i p
    · exact .commitDoor c i side _ p

theorem permitPass (c : Configuration) (i : Nat) (p : Part) : OvsOnly i p (permitPass c i p) :=
  (OvsOnly.permitDecide c i .p p).trans (.permitDecide c i .c _)

theorem commitOfftake (i : Nat) (o : Offtake) (p : Part) : OvsOnly i p (commitOfftake i o p) := by
  unfold Machine.commitOfftake
  split
  · exact .refl i p
  · have stored : OvsOnly i p ((p.setOfftake i o).writeValve i o.valve) :=
      .of_bli_eq (OvenOnly.trans (.modify i p _ (by intro _; rfl)) (.writeValve i _ _)) rfl
    dsimp only
    split
    · exact stored
    · exact stored.trans (.offerOvs i _)

theorem settle (c : Configuration) (i : Nat) (o : Offtake) (p : Part) : OvsOnly i p (settleOfftake c i o p) :=
  (OvsOnly.commitOfftake i o p).trans (.permitPass c i _)

theorem ocuPhaseChange (c : Configuration) (i : Nat) (old new : Phase) (p : Part) :
    OvsOnly i p (ocuPhaseChange c i old new p) := by
  unfold Machine.ocuPhaseChange
  split
  · exact .refl i p
  · exact .settle c i _ p

/-- A change of phase with no charge start in flight. -/
theorem setPhase (c : Configuration) {i : Nat} (new : Phase) {p : Part} {pl : Place} (h : p.places[i]? = some pl)
    (hf : pl.oven.inFlight = false) : OvsOnly i p (setPhase c i new p) := by
  simp only [Machine.setPhase, h, cancelOnPhase, hf]
  split
  · exact .refl i p
  · have recorded : OvsOnly i p (p.modifyOven i fun o => o.withPhase new) :=
      .of_bli_eq (.modifyOven i p _ fun _ => rfl) rfl
    simpa using ((recorded.trans (.offerOvs i _)).trans (.evalOverdue c i _)).trans (.ocuPhaseChange c i _ _ _)

end OvsOnly

/-! ## The push context besides the oven -/

/-- Only the oven at the place and the push unit may differ. -/
def OvenAndPush (i : Nat) (p q : Part) : Prop := OvenOnly i { p with psq := q.psq } q

theorem OvenOnly.andPush {i : Nat} {p q : Part} (h : OvenOnly i p q) : OvenAndPush i p q := by
  unfold OvenAndPush
  rw [h.psq_eq]
  exact h

theorem OvenAndPush.trans {i : Nat} {p q r : Part} (h : OvenAndPush i p q) (k : OvenAndPush i q r) : OvenAndPush i p r :=
  (OvenOnly.withPsq h r.psq).trans k

theorem OvenAndPush.modifyContext (i : Nat) (f : Context → Context) (p : Part) : OvenAndPush i p (modifyContext f p) :=
  OvenOnly.refl i _

@[simp] theorem modifyContext_psq (f : Context → Context) (p : Part) :
    (modifyContext f p).psq = { p.psq with context := p.psq.context.map f } := rfl

theorem setContext_frame (c : Configuration) (i : Nat) (x : Option Context) (p : Part) :
    OvenOnly i { p with psq := { p.psq with context := x } } (setContext c i x p) := OvenOnly.permitPass c i _

@[simp] theorem setContext_psq (c : Configuration) (i : Nat) (x : Option Context) (p : Part) :
    (setContext c i x p).psq = { p.psq with context := x } := (setContext_frame c i x p).psq_eq

theorem OvenAndPush.setContext (c : Configuration) (i : Nat) (x : Option Context) (p : Part) :
    OvenAndPush i p (setContext c i x p) := by
  unfold OvenAndPush
  rw [setContext_psq]
  exact setContext_frame c i x p

namespace Part.Shows

variable {p : Part} {i : Nat} {pl : Place} {x : Option Context} {l : SwitchInput → Bool}

theorem modifyContext (h : p.Shows i pl x l) (f : Context → Context) : (modifyContext f p).Shows i pl (x.map f) l :=
  ⟨h.place, by simp [h.context], h.level⟩

theorem setContext (h : p.Shows i pl x l) (c : Configuration) (y : Option Context) :
    (setContext c i y p).Shows i (pl.permits c y l) y l :=
  permitPass (p := { p with psq := { p.psq with context := y } }) ⟨h.place, rfl, h.level⟩ c

end Part.Shows

/-! ## The car orders -/

/-- Only the car orders and the transmit queue differ. -/
def OrdersOnly (p q : Part) : Prop :=
  q = { p with
    qou := q.qou
    bli := { p.bli with queue := q.bli.queue, attempt := q.bli.attempt, offerClock := q.bli.offerClock } }

namespace OrdersOnly

variable {p q r : Part}

theorem refl (p : Part) : OrdersOnly p p := rfl

theorem trans (h : OrdersOnly p q) (k : OrdersOnly q r) : OrdersOnly p r := by
  unfold OrdersOnly at *
  rw [k]
  rw [h]

theorem offer (p : Part) (k : Kind) (sub : Subject) (b : List Byte) : OrdersOnly p (p.offer k sub b) := by
  unfold OrdersOnly Part.offer
  rcases offer_cases p.bli k sub b with ⟨-, -, h⟩ | ⟨-, -, -, h⟩ | ⟨-, -, -, h⟩ <;> simp [h]

theorem withQou (p : Part) (q : Qou) : OrdersOnly p { p with qou := q } := rfl

theorem offerHead (p : Part) : OrdersOnly p (qouOfferHead p) := by
  unfold qouOfferHead
  split
  · exact .refl p
  · split
    · split
      · exact (OrdersOnly.offer p _ _ _).trans (.withQou _ _)
      · exact .refl p
    · exact .refl p

theorem append (kind : OrderKind) (p : Part) : OrdersOnly p (qouAppend kind p) := by
  unfold qouAppend
  dsimp only
  split
  · exact (OrdersOnly.withQou p _).trans (.offerHead _)
  · exact .withQou p _

theorem withdraw (p : Part) : OrdersOnly p (qouWithdraw p) := (OrdersOnly.withQou p _).trans (.append _ _)

theorem places_eq (h : OrdersOnly p q) : q.places = p.places := by rw [h]
theorem config_eq (h : OrdersOnly p q) : q.config = p.config := by rw [h]; rfl
theorem retained_eq (h : OrdersOnly p q) : q.retained = p.retained := by rw [h]
theorem psq_eq (h : OrdersOnly p q) : q.psq = p.psq := by rw [h]
theorem fls_eq (h : OrdersOnly p q) : q.fls = p.fls := by rw [h]
theorem bsu_eq (h : OrdersOnly p q) : q.bsu = p.bsu := by rw [h]

theorem shows {i : Nat} {pl : Place} {x : Option Context} {l : SwitchInput → Bool} (h : OrdersOnly p q)
    (hp : p.Shows i pl x l) : q.Shows i pl x l :=
  ⟨by rw [h.places_eq, hp.place], by rw [h.psq_eq, hp.context], fun input => by
    simp only [Part.level, h.fls_eq]; exact hp.level input⟩

end OrdersOnly

/-! ## What a push leaves alone -/

namespace PushOnly

variable {i : Nat} {p q r : Part}

theorem of_ovenAndPush (h : OvenAndPush i p q) : PushOnly i p q where
  number := h.number
  places := h.places
  channels := h.channels
  rest := by rw [h.rest]

theorem of_ovenOnly (h : OvenOnly i p q) : PushOnly i p q := .of_ovenAndPush h.andPush

theorem refl (i : Nat) (p : Part) : PushOnly i p p := .of_ovenOnly (.refl i p)

theorem of_ordersOnly (h : OrdersOnly p q) : PushOnly i p q where
  number := by simp [Part.numberAt, h.places_eq]
  places _ _ := by rw [h.places_eq]
  channels _ _ := by rw [h.fls_eq]
  rest := by rw [h]

theorem trans (h : PushOnly i p q) (k : PushOnly i q r) : PushOnly i p r where
  number := k.number.trans h.number
  places j hj := (k.places j hj).trans (h.places j hj)
  channels j hj := (k.channels j hj).trans (h.channels j hj)
  rest := by rw [k.rest]; rw [h.rest]

theorem bsu_eq (h : PushOnly i p q) : q.bsu = p.bsu := by rw [h.rest]

end PushOnly

end Sys2Proof.Machine

/-! SUPPORT. The rules of the reactions: the ISOLATE and PI requests, the end of RETURN and the abort of a push. -/

namespace Sys2Proof.Machine

open Sys2Proof

/-! ## Doors when no permit stands -/

/-- Each door is as it was, or has gone from RELEASED to SEALED with its permit line dropped. -/
def Place.DropsPermits (pl pl' : Place) : Prop :=
  ∀ side, pl'.door side = pl.door side
    ∨ ((pl.door side).state = .released ∧ (pl'.door side).state = .sealed ∧ (pl'.door side).permit = false)

def Place.NoneReleased (pl : Place) : Prop := ∀ side, (pl.door side).state ≠ .released

namespace Place.DropsPermits

variable {pl pl' pl'' : Place}

theorem of_doors_eq (h : ∀ side, pl'.door side = pl.door side) : pl.DropsPermits pl' := fun side => .inl (h side)

theorem trans (h : pl.DropsPermits pl') (k : pl'.DropsPermits pl'') : pl.DropsPermits pl'' := fun side => by
  rcases h side with e | ⟨hr, hs, hp⟩
  · simpa [e] using k side
  · rcases k side with e' | ⟨hr', -, -⟩
    · exact .inr ⟨hr, by rw [e', hs], by rw [e', hp]⟩
    · simp [hs] at hr'

theorem noneReleased (h : pl.DropsPermits pl') (hn : pl.NoneReleased) : pl'.NoneReleased := fun side => by
  rcases h side with e | ⟨-, hs, -⟩
  · rw [e]; exact hn side
  · simp [hs]

/-- Doors none of which was RELEASED are as they were. -/
theorem door_eq (h : pl.DropsPermits pl') {side : Side} (hn : (pl.door side).state ≠ .released) :
    pl'.door side = pl.door side := (h side).resolve_right fun k => hn k.1

theorem keepsDoors (h : pl.DropsPermits pl') : pl.KeepsDoors pl' :=
  fun hp hc => ⟨h.door_eq (side := .p) hp, h.door_eq (side := .c) hc⟩

/-- Doors of which none is RELEASED after have dropped their permit lines. -/
theorem permitsDrop (h : pl.DropsPermits pl') (hn : pl'.NoneReleased) : Claims.permitsDrop pl pl' := by
  intro side honest
  rcases h side with e | ⟨-, -, hp⟩
  · rw [e]
    refine Bool.eq_false_iff.mpr fun on => hn side ?_
    rw [e, honest on]
  · exact hp

theorem permits {c : Configuration} {x : Option Context} {l : SwitchInput → Bool} (h : pl.ready c x = false) :
    pl.DropsPermits (pl.permits c x l) := fun side => by
  rw [Place.permits_door, h]
  by_cases hr : (pl.door side).state = .released
  · exact .inr ⟨hr, by simp [Door.decide, hr, Door.enterSealed], by simp [Door.decide, hr, Door.enterSealed]⟩
  · exact .inl (Door.decide_kept hr)

end Place.DropsPermits

theorem Place.permits_noneReleased {c : Configuration} {x : Option Context} {l : SwitchInput → Bool} {pl : Place}
    (h : pl.ready c x = false) : (pl.permits c x l).NoneReleased := fun side => by
  rw [Place.permits_door, h]
  exact Door.decide_not_released c _ _

/-- A context that gives no permit to any oven: none, or in PUSHING, CLOSING or RETURN. -/
def givesNoPermit (x : Option Context) : Prop := ∀ y, x = some y → y.stage ≠ .prepare ∧ y.stage ≠ .armed

theorem givesNoPermit_none : givesNoPermit none := fun _ h => nomatch h

theorem givesNoPermit.not_ready {x : Option Context} (h : givesNoPermit x) (c : Configuration) (pl : Place) :
    pl.ready c x = false := Place.not_ready_of_stage h

/-- A permit decision that changes neither door does nothing. -/
theorem permitPass_inert {p : Part} {i : Nat} {pl : Place} {x : Option Context} {l : SwitchInput → Bool}
    (h : p.Shows i pl x l) {c : Configuration}
    (hd : ∀ side, (pl.door side).decide c (pl.ready c x) (l (.leak side)) = pl.door side) : permitPass c i p = p := by
  have one (side : Side) : permitDecide c i side p = p := by
    simp [permitDecide, h.place, h.permitReady c, h.level, hd side]
  rw [permitPass, one, one]

/-- Nor does one without the conditions, with no door RELEASED. -/
theorem permitPass_of_noneReleased {p : Part} {i : Nat} {pl : Place} {x : Option Context} {l : SwitchInput → Bool}
    (h : p.Shows i pl x l) {c : Configuration} (hr : pl.ready c x = false) (hn : pl.NoneReleased) :
    permitPass c i p = p :=
  permitPass_inert h fun side => by rw [hr]; exact Door.decide_kept (hn side)

/-! ## A phase set, changed or not -/

/-- A place with its oven's phase set. -/
def Place.phaseSet (c : Configuration) (x : Option Context) (l : SwitchInput → Bool) (new : Phase) (pl : Place) : Place :=
  if pl.oven.kept.phase = new then pl else pl.entered c x l new

theorem Part.Shows.phaseSet {p : Part} {i : Nat} {pl : Place} {x : Option Context} {l : SwitchInput → Bool}
    (h : p.Shows i pl x l) (c : Configuration) (new : Phase) :
    (Machine.setPhase c i new p).Shows i (pl.phaseSet c x l new) x l := by
  unfold Place.phaseSet
  split
  · next e => subst e; rw [h.setPhase_self]; exact h
  · next hne => exact h.setPhase c hne

section
variable {c : Configuration} {x : Option Context} {l : SwitchInput → Bool} {new : Phase} {pl : Place}

@[simp] theorem Place.phaseSet_kept : (pl.phaseSet c x l new).oven.kept = { pl.oven.kept with phase := new } := by
  unfold Place.phaseSet
  split
  · next e => subst e; rfl
  · simp

@[simp] theorem Place.phaseSet_number : (pl.phaseSet c x l new).oven.number = pl.oven.number := by
  unfold Place.phaseSet; split <;> simp

theorem Place.phaseSet_alarm {a : OvenAlarm} (hp : a ≠ .resealP) (hc : a ≠ .resealC) (ho : a ≠ .overdue) :
    hasOven (pl.phaseSet c x l new).oven.alarms a = hasOven pl.oven.alarms a := by
  unfold Place.phaseSet
  split
  · rfl
  · rw [Place.entered_alarm c x l new pl a hp hc, if_neg (Ne.symm ho)]

theorem Place.DropsPermits.entered (h : (pl.entered c x l new).ready c x = false) :
    pl.DropsPermits (pl.entered c x l new) := fun side => by
  rw [Place.entered_door, h]
  by_cases hr : (pl.door side).state = .released
  · exact .inr ⟨hr, by simp [Door.decide, hr, Door.enterSealed], by simp [Door.decide, hr, Door.enterSealed]⟩
  · exact .inl (Door.decide_kept hr)

theorem Place.DropsPermits.phaseSet (h : (pl.entered c x l new).ready c x = false) :
    pl.DropsPermits (pl.phaseSet c x l new) := by
  unfold Place.phaseSet
  split
  · exact .of_doors_eq fun _ => rfl
  · exact .entered h

end

theorem byAge_eq (c : Configuration) (r : Retained) :
    (if r.atThreshold c then Phase.ready else .coking) = Claims.byAge c r := by
  simp [Retained.atThreshold, Claims.byAge]

theorem setByAge_eq {c : Configuration} {i : Nat} {p : Part} {pl : Place} (h : p.places[i]? = some pl) :
    setByAge c i p = setPhase c i (Claims.byAge c pl.oven.kept) p := by
  simp only [setByAge, h, byAge_eq]

theorem Claims.byAge_cases (c : Configuration) (r : Retained) :
    Claims.byAge c r = .ready ∨ Claims.byAge c r = .coking := by
  unfold Claims.byAge; split <;> simp

/-! ## Arming and asking for ISOLATE -/

theorem withLocal_some {c : Configuration} {n i : Nat} (h : placeOf c n = some i) (p : Part) (f : Nat → Part) :
    withLocal c n p f = f i := by simp [withLocal, h]

/-- Only the context's oven, in PREPARE, is armed. -/
theorem testArmed_inert {c : Configuration} {n : Nat} {p : Part}
    (h : ∀ y, p.psq.context = some y → y.oven ≠ n ∨ y.stage ≠ .prepare) : testArmed c n p = p := by
  unfold testArmed
  split
  · rfl
  · next y hy =>
    unfold withLocal
    split
    · rfl
    · dsimp only
      split
      · rfl
      · refine if_neg fun k => ?_
        exact (h y hy).elim (fun hne => hne k.1) fun hne => hne k.2.1

theorem testArmed_eq {c : Configuration} {i : Nat} {p : Part} {pl : Place} {y : Context} {l : SwitchInput → Bool}
    (h : p.Shows i pl (some y) l) (hi : placeOf c y.oven = some i) :
    testArmed c y.oven p
      = if y.stage = .prepare ∧ readyToArm pl y = true then setContext c i (some y.arm) p else p := by
  simp [testArmed, h.context, withLocal_some hi, h.place]

theorem reportOf_self (o : Offtake) : reportOf o o = none := by simp [reportOf]

/-- A request for ISOLATE that arms nothing stores the record the OCU answers with. -/
theorem askIsolate_eq {c : Configuration} {i : Nat} {p : Part} {pl : Place} (h : p.places[i]? = some pl)
    (hx : ∀ y, p.psq.context = some y → y.oven ≠ pl.oven.number ∨ y.stage ≠ .prepare) :
    askIsolate c i p = settleOfftake c i (pl.offtake.callMode c (p.offtakeLevels i) .isolate) p := by
  simp only [askIsolate, h]
  split
  · refine testArmed_inert fun y hy => hx y ?_
    rw [← hy, (OvenOnly.settle c i _ p).psq_eq]
  · rfl

/-- A request for ISOLATE that the offtake answers by going on. -/
theorem askIsolate_of_call_self {c : Configuration} {i : Nat} {p : Part} {pl : Place} (h : p.places[i]? = some pl)
    (ho : pl.offtake.callMode c (p.offtakeLevels i) .isolate = pl.offtake) :
    askIsolate c i p = settleOfftake c i pl.offtake p := by
  simp [askIsolate, h, ho, reportOf_self]

/-! ## Mode calls (R84, R85, R90) -/

theorem Offtake.startIsolate_mode (lv : OfftakeLevels) (o : Offtake) : (o.startIsolate lv).mode = .isolate := by
  simp only [Offtake.startIsolate, Offtake.isolateValveClosed, Offtake.isolateReached]
  split <;> (try split) <;> rfl

theorem Offtake.startIsolate_next (lv : OfftakeLevels) (o : Offtake) : (o.startIsolate lv).next = none := by
  simp only [Offtake.startIsolate, Offtake.isolateValveClosed, Offtake.isolateReached]
  split <;> (try split) <;> rfl

theorem Offtake.startIsolate_sub (lv : OfftakeLevels) (o : Offtake) : (o.startIsolate lv).sub ≠ some .failed := by
  simp only [Offtake.startIsolate, Offtake.isolateValveClosed, Offtake.isolateReached]
  split <;> (try split) <;> simp [Offtake.awaitValveClosed]

/-- A call for ISOLATE leaves the record in ISOLATE, toward no other mode and not FAILED. -/
theorem Offtake.callIsolate (c : Configuration) (lv : OfftakeLevels) (o : Offtake) :
    (o.callMode c lv .isolate).mode = .isolate ∧ (o.callMode c lv .isolate).next = none
      ∧ (o.callMode c lv .isolate).sub ≠ some .failed := by
  unfold Offtake.callMode
  split
  · next h =>
    simp only [Offtake.towardMode, Bool.and_eq_true, beq_iff_eq, bne_iff_ne] at h
    exact ⟨h.1.1, h.1.2, h.2⟩
  · exact ⟨o.startIsolate_mode lv, o.startIsolate_next lv, o.startIsolate_sub lv⟩

/-- A record in ISOLATE, toward no other mode and not FAILED, answers a call for ISOLATE by going on. -/
theorem Offtake.callIsolate_self {c : Configuration} {lv : OfftakeLevels} {o : Offtake} (hm : o.mode = .isolate)
    (hn : o.next = none) (hs : o.sub ≠ some .failed) : o.callMode c lv .isolate = o := by
  simp [Offtake.callMode, Offtake.towardMode, hm, hn, hs]

/-- From ISOLATE toward no other mode a call for PI closes the cap, or is answered at once (R87). -/
theorem Offtake.callControl_of_isolate {c : Configuration} {lv : OfftakeLevels} {o : Offtake} (hm : o.mode = .isolate)
    (hn : o.next = none) : o.callMode c lv .control
      = if lv.capClosed then (o.closeCapToward .pi).enterControl c else o.closeCapToward .pi := by
  simp [Offtake.callMode, Offtake.towardMode, Offtake.startMode, Offtake.startReturn, hm, hn]

/-- Out of any phase but CHARGING a phase set by age calls for PI. -/
theorem Offtake.phaseChange_byAge_call (c : Configuration) (lv : OfftakeLevels) (o : Offtake) {old : Phase} (r : Retained)
    (ho : old ≠ .charging) : ∃ t, o.phaseChange c lv old (Claims.byAge c r)
      = ({ o with aspirateTimer := t } : Offtake).callMode c lv .control := by
  rcases Claims.byAge_cases c r with h | h <;> rw [h] <;> simp only [Offtake.phaseChange, ho, false_and, if_false]
  · exact ⟨_, rfl⟩
  · exact ⟨_, rfl⟩

/-- A record in PI or HOLD, or moving there, goes on when its oven leaves PUSHING by its age. -/
theorem Offtake.phaseChange_byAge {c : Configuration} {lv : OfftakeLevels} {o : Offtake} {old : Phase} (r : Retained)
    (ho : old ≠ .charging) (ht : o.towardMode .control = true) (hs : o.sub ≠ some .failed) :
    ∃ t, o.phaseChange c lv old (Claims.byAge c r) = { o with aspirateTimer := t } := by
  obtain ⟨t, e⟩ := o.phaseChange_byAge_call c lv r ho
  have toward : ({ o with aspirateTimer := t } : Offtake).towardMode .control = true := ht
  exact ⟨t, by simp [e, Offtake.callMode, toward, hs]⟩

/-- One FAILED on its way to PI begins again, its cap not confirmed closed (R87). -/
theorem Offtake.phaseChange_byAge_failed {c : Configuration} {lv : OfftakeLevels} {o : Offtake} {old : Phase} (r : Retained)
    (ho : old ≠ .charging) (hm : o.mode = .isolate) (hs : o.sub = some .failed) (hl : lv.capClosed = false) :
    ∃ t, o.phaseChange c lv old (Claims.byAge c r) = ({ o with aspirateTimer := t } : Offtake).closeCapToward .pi := by
  obtain ⟨t, e⟩ := o.phaseChange_byAge_call c lv r ho
  exact ⟨t, by simp [e, Offtake.callMode, Offtake.startMode, Offtake.startReturn, hm, hs, hl]⟩

end Sys2Proof.Machine

namespace Sys2Proof.Machine

open Sys2Proof

/-! ## The end of RETURN (R55) -/

/-- A place whose return has ended: held, out of the push, set by its age. -/
def Place.returned (c : Configuration) (l : SwitchInput → Bool) (pl : Place) : Place :=
  ((pl.withHold true).permits c none l).phaseSet c none l (Claims.byAge c pl.oven.kept)

theorem Part.Shows.endReturn {p : Part} {i : Nat} {pl : Place} {x : Option Context} {l : SwitchInput → Bool}
    (h : p.Shows i pl x l) (c : Configuration) : (endReturn c i p).Shows i (pl.returned c l) none l := by
  have out := (h.setHold true).setContext c none
  have age : Claims.byAge c ((pl.withHold true).permits c none l).oven.kept = Claims.byAge c pl.oven.kept := by
    rw [Place.permits_kept]; rfl
  have aged := out.phaseSet c (Claims.byAge c ((pl.withHold true).permits c none l).oven.kept)
  rw [Machine.endReturn, setByAge_eq out.place]
  rw [age] at aged ⊢
  exact aged

theorem OvenAndPush.endReturn (c : Configuration) (i : Nat) (p : Part) : OvenAndPush i p (endReturn c i p) :=
  ((OvenOnly.setHold i true p).andPush.trans (.setContext c i none _)).trans (OvenOnly.setByAge c i _).andPush

theorem endReturn_psq (c : Configuration) (i : Nat) (p : Part) :
    (endReturn c i p).psq = { p.psq with context := none } := by
  rw [endReturn, (OvenOnly.setByAge c i _).psq_eq, setContext_psq, (OvenOnly.setHold i true p).psq_eq]

section
variable (c : Configuration) (l : SwitchInput → Bool) (pl : Place)

theorem Place.returned_kept : (pl.returned c l).oven.kept
    = { pl.oven.kept with hold := true, phase := Claims.byAge c pl.oven.kept } := by
  rw [Place.returned, Place.phaseSet_kept, Place.permits_kept]; rfl

theorem Place.returned_alarm {a : OvenAlarm} (hp : a ≠ .resealP) (hc : a ≠ .resealC) (ho : a ≠ .overdue) :
    hasOven (pl.returned c l).oven.alarms a = hasOven pl.oven.alarms a := by
  rw [Place.returned, Place.phaseSet_alarm hp hc ho, (Place.permits_resealOnly c none l _).alarm a hp hc]; rfl

theorem Place.returned_dropsPermits : pl.DropsPermits (pl.returned c l) := by
  have held : pl.DropsPermits (pl.withHold true) := .of_doors_eq fun side => by cases side <;> rfl
  exact (held.trans (.permits (givesNoPermit_none.not_ready c _))).trans
    (.phaseSet (givesNoPermit_none.not_ready c _))

theorem Place.returned_offtake_eq (hph : pl.oven.kept.phase = .pushing) : (pl.returned c l).offtake
    = pl.offtake.phaseChange c (offtakeLevelsOf l) .pushing (Claims.byAge c pl.oven.kept) := by
  have held : ((pl.withHold true).permits c none l).oven.kept.phase = .pushing := by rw [Place.permits_kept]; exact hph
  have hne : ((pl.withHold true).permits c none l).oven.kept.phase ≠ Claims.byAge c pl.oven.kept := by
    rw [held]
    rcases Claims.byAge_cases c pl.oven.kept with h | h <;> simp [h]
  rw [Place.returned, Place.phaseSet, if_neg hne, Place.entered_offtake, Place.permits_offtake, held]
  rfl

/-- A PUSHING oven's offtake in PI or HOLD, or moving there, goes on at the end of RETURN. -/
theorem Place.returned_offtake (hph : pl.oven.kept.phase = .pushing) (ht : pl.offtake.towardMode .control = true)
    (hs : pl.offtake.sub ≠ some .failed) : ∃ t, (pl.returned c l).offtake = { pl.offtake with aspirateTimer := t } := by
  rw [Place.returned_offtake_eq c l pl hph]
  exact Offtake.phaseChange_byAge _ (by decide) ht hs

end

/-! ## The request for PI (R55, R87) -/

/-- The record the OCU answers a request for PI with is stored; a return that is over at once ends RETURN. -/
theorem askPi_eq {c : Configuration} {i : Nat} {p : Part} {pl : Place} (h : p.places[i]? = some pl) :
    askPi c i p =
      if reportOf pl.offtake (pl.offtake.callMode c (p.offtakeLevels i) .control) = some .piEntered then
        endReturn c i (settleOfftake c i (pl.offtake.callMode c (p.offtakeLevels i) .control)
          (modifyContext (fun x => { x with piRequested := true }) p))
      else settleOfftake c i (pl.offtake.callMode c (p.offtakeLevels i) .control)
        (modifyContext (fun x => { x with piRequested := true }) p) := by
  simp [askPi, h]

/-- From ISOLATE toward no other mode the return is over at once just when cap-closed is confirmed. -/
theorem callControl_report {c : Configuration} {lv : OfftakeLevels} {o : Offtake} (hm : o.mode = .isolate)
    (hn : o.next = none) : reportOf o (o.callMode c lv .control) = some .piEntered ↔ lv.capClosed = true := by
  rw [Offtake.callControl_of_isolate hm hn]
  cases lv.capClosed
  · simp only [Bool.false_eq_true, if_false, iff_false]
    unfold reportOf; split <;> simp [Offtake.closeCapToward]
  · simp only [if_true, iff_true, Offtake.enterControl]
    split <;> simp [reportOf, hm, Offtake.enterHold, Offtake.enterPi]

theorem clampBand_eq (c : Configuration) (u : Nat) : clampBand c (u : Int) = max c.uMin (min c.uMax u) := by
  simp only [clampBand, clampInt]; omega

/-- PI or HOLD entered (R81, R87, R92). -/
theorem Offtake.enterControl_fields (c : Configuration) (o : Offtake) :
    (o.enterControl c).mode = (if o.sensorFailed then .hold else .pi)
      ∧ (o.enterControl c).sub = none ∧ (o.enterControl c).next = none
      ∧ (o.enterControl c).valve = (if o.sensorFailed then c.uFail else max c.uMin (min c.uMax o.valve))
      ∧ (o.enterControl c).capOpen = false ∧ (o.enterControl c).entryPending = !o.sensorFailed := by
  simp only [Offtake.enterControl]
  split
  · next h => simp [Offtake.enterHold, h]
  · next h => simp [Offtake.enterPi, clampBand_eq, h]

theorem Offtake.enterControl_toward (c : Configuration) (o : Offtake) :
    (o.enterControl c).towardMode .control = true ∧ (o.enterControl c).sub ≠ some .failed := by
  obtain ⟨hm, hs, -⟩ := o.enterControl_fields c
  refine ⟨?_, by simp [hs]⟩
  rw [Offtake.towardMode, hm]
  split <;> rfl

/-- What a request for PI makes of a push and of its oven's place. -/
structure PiAsked (c : Configuration) (i : Nat) (pl : Place) (x : Context) (p q : Part) : Prop where
  frame : OvenAndPush i p q
  pending : q.psq.pendingPdn = p.psq.pendingPdn
  noPermit : givesNoPermit q.psq.context
  place : ∃ pl', q.places[i]? = some pl' ∧ pl.DropsPermits pl'
    ∧ (∀ a, a ≠ .resealP → a ≠ .resealC → a ≠ .overdue → hasOven pl'.oven.alarms a = hasOven pl.oven.alarms a)
    ∧ (pl.offtake.mode = .isolate → pl.offtake.next = none →
        Claims.piAsked c i pl pl' { x with piRequested := true } p q)

theorem askPi_piAsked {c : Configuration} {i : Nat} {p : Part} {pl : Place} {x : Context} {l : SwitchInput → Bool}
    (h : p.Shows i pl (some x) l) (hx : givesNoPermit (some x)) : PiAsked c i pl x p (askPi c i p) := by
  let new := pl.offtake.callMode c (p.offtakeLevels i) .control
  let x' := { x with piRequested := true }
  let asked := modifyContext (fun x => { x with piRequested := true }) p
  have hx' : givesNoPermit (some x') := fun y hy => by cases hy; exact hx x rfl
  have settled : (settleOfftake c i new asked).Shows i (pl.settled c (some x') l new) (some x') l :=
    Part.Shows.settle (h.modifyContext _) c new
  have psq : (settleOfftake c i new asked).psq = asked.psq := (OvenOnly.settle c i new asked).psq_eq
  have frame : OvenAndPush i p (settleOfftake c i new asked) :=
    (OvenAndPush.modifyContext i _ p).trans (OvenOnly.settle c i new _).andPush
  have drops : pl.DropsPermits (pl.settled c (some x') l new) :=
    (Place.DropsPermits.of_doors_eq fun side => Place.withOfftake_door pl new side).trans
      (.permits (hx'.not_ready c _))
  have alarm := (Place.settled_resealOnly c (some x') l new pl).alarm
  rw [askPi_eq h.place]
  split
  · next ends =>
    have ended := settled.endReturn c
    refine ⟨frame.trans (.endReturn c i _), ?_, ended.context ▸ givesNoPermit_none, _, ended.place, drops.trans (Place.returned_dropsPermits c l _),
      fun a hp hc ho => by rw [Place.returned_alarm c l _ hp hc ho, alarm a hp hc], fun hm hn => ?_⟩
    · rw [endReturn_psq, psq]; rfl
    · have hl : p.level i .capClosed = true := (callControl_report hm hn).mp ends
      have hnew : new = (pl.offtake.closeCapToward .pi).enterControl c :=
        (Offtake.callControl_of_isolate hm hn).trans (if_pos hl)
      refine ⟨fun e => by simp [hl] at e, fun _ hph => ⟨ended.context, ?_, ?_⟩⟩
      · simp [Place.returned_kept, Claims.byAge]
      · obtain ⟨ht, hs⟩ := (pl.offtake.closeCapToward .pi).enterControl_toward c
        obtain ⟨t, e⟩ := Place.returned_offtake c l (pl.settled c (some x') l new) (by simpa using hph)
          (by rw [Place.settled_offtake, hnew]; exact ht) (by rw [Place.settled_offtake, hnew]; exact hs)
        rw [e, Place.settled_offtake, hnew]
        exact (pl.offtake.closeCapToward .pi).enterControl_fields c
  · next goesOn =>
    refine ⟨frame, by rw [psq]; rfl, settled.context ▸ hx', _, settled.place, drops, fun a hp hc _ => alarm a hp hc, fun hm hn => ?_⟩
    have hl : ¬p.level i .capClosed = true := fun e => goesOn ((callControl_report hm hn).mpr e)
    have hnew : new = pl.offtake.closeCapToward .pi := (Offtake.callControl_of_isolate hm hn).trans (if_neg hl)
    refine ⟨fun _ => ⟨settled.context, Place.settled_kept .., ?_⟩, fun e => absurd e hl⟩
    rw [Place.settled_offtake, hnew]
    simp [Offtake.closeCapToward, hm, capMotionMs, seconds]

/-! ## The abort of a push (R51, R52, R106) -/

theorem bothLatched_iff (pl : Place) :
    pl.bothLatched = true ↔ pl.doorP.state.isLatched = true ∧ pl.doorC.state.isLatched = true := by
  simp [Place.bothLatched]

theorem away_not_latched {d : Door} (h : Claims.away d) : d.state.isLatched = false := by
  rcases h with h | h | h <;> simp [h, DoorState.isLatched]

/-- A door that is neither away nor RELEASED is latched. -/
theorem latched_of_not_away {d : Door} (h : ¬Claims.away d) (hr : d.state ≠ .released) : d.state.isLatched = true := by
  unfold Claims.away at h
  cases hs : d.state <;> simp_all [DoorState.isLatched]

theorem isLatched_iff (s : DoorState) : s.isLatched = true ↔ s = .sealed ∨ s = .leaking := by
  cases s <;> simp [DoorState.isLatched]

end Sys2Proof.Machine

namespace Sys2Proof.Machine

open Sys2Proof

/-! ## Withdrawal of the orders (R96, R97, R106) -/

theorem nextOrderId_eq (n : Nat) : nextOrderId n = if n < 255 then n + 1 else 1 := by
  unfold nextOrderId; split <;> split <;> omega

/-- An offer of the head changes its offered flag at most. -/
theorem qouOfferHead_qou (p : Part) : (qouOfferHead p).qou = p.qou
    ∨ ∃ head rest, p.qou.orders = head :: rest
        ∧ (qouOfferHead p).qou = { p.qou with orders := { head with offered := true } :: rest } := by
  unfold qouOfferHead
  split
  · exact .inl rfl
  · next head rest e =>
    split
    · split
      · exact .inr ⟨head, rest, e, rfl⟩
      · exact .inl rfl
    · exact .inl rfl

/-- The order that an offer creates (R95, R97). -/
def newOrder (kind : OrderKind) (id : Nat) : Order :=
  { id := id, kind := kind, state := .queued, offered := false, owed := kind.owesOutcome, deadline := .stopped }

/-- An order appended stands last, offered or not, and takes the next id. -/
theorem qouAppend_qou (kind : OrderKind) (p : Part) : ∃ offered,
    (qouAppend kind p).qou = { orders := p.qou.orders ++ [{ newOrder kind p.qou.nextId with offered := offered }]
                               nextId := nextOrderId p.qou.nextId } := by
  unfold qouAppend
  dsimp only
  split
  · next hempty =>
    have e : p.qou.orders = [] := by simpa using hempty
    have created : (qouCreate kind p).qou
        = { orders := [newOrder kind p.qou.nextId], nextId := nextOrderId p.qou.nextId } := by
      simp [qouCreate, newOrder, e]
    rcases qouOfferHead_qou (qouCreate kind p) with h | ⟨head, rest, ho, h⟩
    · exact ⟨false, by rw [h, created, e]; rfl⟩
    · rw [created] at ho h
      cases ho
      exact ⟨true, by rw [h, e]; rfl⟩
  · exact ⟨false, rfl⟩

theorem inFlight_iff (o : Order) : o.inFlight = true ↔ o.state ≠ .queued ∨ o.offered = true := by
  unfold Order.inFlight
  cases o.state <;> simp

theorem qouWithdraw_withdrawn (p : Part) : Claims.withdrawn p.qou (qouWithdraw p).qou := by
  obtain ⟨offered, h⟩ := qouAppend_qou .release { p with qou := { p.qou with orders := keptByWithdrawal p.qou.orders } }
  refine ⟨{ newOrder .release p.qou.nextId with offered := offered }, ?_, rfl, rfl, rfl, rfl, rfl, ?_⟩
  · rw [qouWithdraw, h]
    cases p.qou.orders with
    | nil => rfl
    | cons head rest => simp only [keptByWithdrawal, inFlight_iff]
  · rw [qouWithdraw, h, ← nextOrderId_eq]

/-! ## The abort -/

theorem returnDoorsTest_eq {c : Configuration} {i : Nat} {p : Part} {pl : Place} {y : Context} {l : SwitchInput → Bool}
    (h : p.Shows i pl (some y) l) : returnDoorsTest c i p
      = if y.stage = .returning ∧ y.piRequested = false ∧ pl.bothLatched = true then askPi c i p else p := by
  simp [returnDoorsTest, h.context, h.place]

/-- The part of an aborted push before the doors are looked at (R52, steps 1 to 7). -/
def abortBegun (c : Configuration) (r : AbortReason) (i : Nat) (p : Part) : Part :=
  permitPass c i (qouWithdraw (raiseOven c i .pushAborted (modifyContext (·.aborted r) p)))

theorem abort_eq {c : Configuration} {i : Nat} {p : Part} {x : Context} (r : AbortReason) (hx : p.psq.context = some x)
    (hi : placeOf c x.oven = some i) : abort c r p = returnDoorsTest c i (abortBegun c r i p) := by
  simp [abort, hx, withLocal_some hi, abortBegun]

/-- The place of an aborted push before the doors are looked at: PUSH_ABORTED raised, the permits dropped. -/
def Place.abortBegun (c : Configuration) (l : SwitchInput → Bool) (x : Context) (r : AbortReason) (pl : Place) : Place :=
  (pl.held .pushAborted true).permits c (some (x.aborted r)) l

theorem aborted_givesNoPermit (x : Context) (r : AbortReason) : givesNoPermit (some (x.aborted r)) := fun y hy => by
  cases hy; simp [Context.aborted]

section
variable (c : Configuration) (l : SwitchInput → Bool) (x : Context) (r : AbortReason) (pl : Place)

@[simp] theorem Place.abortBegun_offtake : (pl.abortBegun c l x r).offtake = pl.offtake := by simp [Place.abortBegun]
@[simp] theorem Place.abortBegun_kept : (pl.abortBegun c l x r).oven.kept = pl.oven.kept := by simp [Place.abortBegun]

theorem Place.abortBegun_dropsPermits : pl.DropsPermits (pl.abortBegun c l x r) :=
  (Place.DropsPermits.of_doors_eq fun side => Place.held_door pl _ _ side).trans
    (.permits ((aborted_givesNoPermit x r).not_ready c _))

theorem Place.abortBegun_noneReleased : (pl.abortBegun c l x r).NoneReleased :=
  Place.permits_noneReleased ((aborted_givesNoPermit x r).not_ready c _)

theorem Place.abortBegun_alarm (a : OvenAlarm) (hp : a ≠ .resealP) (hc : a ≠ .resealC) :
    hasOven (pl.abortBegun c l x r).oven.alarms a = if .pushAborted = a then true else hasOven pl.oven.alarms a := by
  rw [Place.abortBegun, (Place.permits_resealOnly c _ l _).alarm a hp hc]; simp

/-- A door away keeps both doors from being latched; the permits dropped, both are when neither is away. -/
theorem Place.abortBegun_bothLatched : (pl.abortBegun c l x r).bothLatched = true
    ↔ ¬Claims.away pl.doorP ∧ ¬Claims.away pl.doorC := by
  have one (side : Side) : ((pl.abortBegun c l x r).door side).state.isLatched = true
      ↔ ¬Claims.away (pl.door side) := by
    have none := pl.abortBegun_noneReleased c l x r side
    rcases pl.abortBegun_dropsPermits c l x r side with e | ⟨hr, hs, -⟩
    · rw [e] at none ⊢
      exact ⟨fun hl ha => by simp [away_not_latched ha] at hl, fun ha => latched_of_not_away ha none⟩
    · simp [hs, hr, Claims.away, DoorState.isLatched]
  rw [bothLatched_iff]
  exact and_congr (one .p) (one .c)

end

theorem piAsked_congr {c : Configuration} {i : Nat} {pl₁ pl pl' : Place} {x : Context} {p₁ p q : Part}
    (hk : pl₁.oven.kept = pl.oven.kept) (ho : pl₁.offtake = pl.offtake)
    (hl : p₁.level i .capClosed = p.level i .capClosed) (h : Claims.piAsked c i pl₁ pl' x p₁ q) :
    Claims.piAsked c i pl pl' x p q := by
  unfold Claims.piAsked at *
  rw [hk, ho, hl] at h
  exact h

section
variable {c : Configuration} {i : Nat} {p : Part} {pl : Place} {x : Context} {l : SwitchInput → Bool}

theorem Part.Shows.abortBegun (h : p.Shows i pl (some x) l) (r : AbortReason) :
    (abortBegun c r i p).Shows i (pl.abortBegun c l x r) (some (x.aborted r)) l :=
  ((OrdersOnly.withdraw _).shows ((h.modifyContext (·.aborted r)).raise c .pushAborted)).permitPass c

theorem abortBegun_frame (c : Configuration) (r : AbortReason) (i : Nat) (p : Part) :
    PushOnly i p (abortBegun c r i p) := by
  have alarmed : PushOnly i p (raiseOven c i .pushAborted (modifyContext (·.aborted r) p)) :=
    .of_ovenAndPush ((OvenAndPush.modifyContext i _ p).trans (OvenOnly.raise c i _ _).andPush)
  exact (alarmed.trans (.of_ordersOnly (.withdraw _))).trans (.of_ovenOnly (.permitPass c i _))

theorem abortBegun_withdrawn (c : Configuration) (r : AbortReason) (i : Nat) (p : Part) :
    Claims.withdrawn p.qou (abortBegun c r i p).qou := by
  have same : (raiseOven c i .pushAborted (modifyContext (·.aborted r) p)).qou = p.qou :=
    (OvenOnly.raise c i _ _).qou_eq
  rw [abortBegun, (OvenOnly.permitPass c i _).qou_eq, ← same]
  exact qouWithdraw_withdrawn _

theorem abortBegun_pendingPdn (c : Configuration) (r : AbortReason) (i : Nat) (p : Part) :
    (abortBegun c r i p).psq.pendingPdn = p.psq.pendingPdn := by
  rw [abortBegun, (OvenOnly.permitPass c i _).psq_eq, (OrdersOnly.withdraw _).psq_eq, (OvenOnly.raise c i _ _).psq_eq]
  rfl

/-- What an abort makes of the push and of its oven's place; no alarm but RESEAL and OVERDUE is lost, and nothing is left for
the permit decision. -/
structure Aborts (c : Configuration) (i : Nat) (pl : Place) (x : Context) (r : AbortReason) (p q : Part) : Prop where
  claim : Claims.aborts c i pl x r p q
  alarms : ∀ pl', q.places[i]? = some pl' → ∀ a, a ≠ .resealP → a ≠ .resealC → a ≠ .overdue →
    hasOven pl.oven.alarms a = true → hasOven pl'.oven.alarms a = true
  decided : permitPass c i q = q

/-- With a door away the abort waits in RETURN. -/
theorem abort_of_away (h : p.Shows i pl (some x) l) (hi : placeOf c x.oven = some i) (hpi : x.piRequested = false)
    (r : AbortReason) (ha : Claims.away pl.doorP ∨ Claims.away pl.doorC) : Aborts c i pl x r p (abort c r p) := by
  have begun := h.abortBegun (c := c) r
  have open_ : ¬(pl.abortBegun c l x r).bothLatched = true := by
    rw [Place.abortBegun_bothLatched]
    exact fun k => ha.elim k.1 k.2
  rw [abort_eq r h.context hi, returnDoorsTest_eq begun, if_neg fun k => open_ k.2.2]
  refine ⟨⟨_, begun.place, ?_, ?_, abortBegun_withdrawn c r i p, abortBegun_pendingPdn c r i p,
    abortBegun_frame c r i p, fun _ => ⟨?_, by simp, by simp⟩, fun hp hc => absurd ha (by simp [hp, hc])⟩, ?_,
    permitPass_of_noneReleased begun ((aborted_givesNoPermit x r).not_ready c _) (pl.abortBegun_noneReleased c l x r)⟩
  · simp [Place.abortBegun_alarm]
  · exact (pl.abortBegun_dropsPermits c l x r).permitsDrop (pl.abortBegun_noneReleased c l x r)
  · rw [begun.context, Context.aborted, hpi]; rfl
  · intro pl' e a hp hc ho hold
    rw [begun.place] at e
    cases e
    rw [pl.abortBegun_alarm c l x r a hp hc]
    split
    · rfl
    · exact hold

/-- With both doors on the abort asks for PI. -/
theorem abort_of_on (h : p.Shows i pl (some x) l) (hi : placeOf c x.oven = some i) (hpi : x.piRequested = false)
    (r : AbortReason) (hp : ¬Claims.away pl.doorP) (hc : ¬Claims.away pl.doorC) : Aborts c i pl x r p (abort c r p) := by
  have begun := h.abortBegun (c := c) r
  rw [abort_eq r h.context hi, returnDoorsTest_eq begun,
    if_pos ⟨rfl, hpi, (pl.abortBegun_bothLatched c l x r).mpr ⟨hp, hc⟩⟩]
  obtain ⟨frame, pending, noPermit, pl', place, drops, alarm, asked⟩ := askPi_piAsked begun (c := c) (aborted_givesNoPermit x r)
  have alarm' (a : OvenAlarm) (h1 : a ≠ .resealP) (h2 : a ≠ .resealC) (h3 : a ≠ .overdue) :
      hasOven pl'.oven.alarms a = if .pushAborted = a then true else hasOven pl.oven.alarms a := by
    rw [alarm a h1 h2 h3, pl.abortBegun_alarm c l x r a h1 h2]
  have none := drops.noneReleased (pl.abortBegun_noneReleased c l x r)
  have all := (pl.abortBegun_dropsPermits c l x r).trans drops
  refine ⟨⟨pl', place, by simp [alarm'], all.permitsDrop none, ?_,
    pending.trans (abortBegun_pendingPdn c r i p), (abortBegun_frame c r i p).trans (.of_ovenAndPush frame),
    fun ha => (ha.elim hp hc).elim, fun _ _ hm hn => ?_⟩, ?_,
    permitPass_of_noneReleased (Part.shows_self place) (noPermit.not_ready c _) none⟩
  · rw [OvenOnly.qou_eq frame]
    exact abortBegun_withdrawn c r i p
  · exact piAsked_congr (by simp) (by simp) (by rw [begun.level, h.level]) (asked (by simpa using hm) (by simpa using hn))
  · intro y e a h1 h2 h3 hold
    rw [place] at e
    cases e
    rw [alarm' a h1 h2 h3]
    split
    · rfl
    · exact hold

theorem abort_aborts (h : p.Shows i pl (some x) l) (hi : placeOf c x.oven = some i) (hpi : x.piRequested = false)
    (r : AbortReason) : Aborts c i pl x r p (abort c r p) := by
  by_cases ha : Claims.away pl.doorP ∨ Claims.away pl.doorC
  · exact abort_of_away h hi hpi r ha
  · rw [not_or] at ha
    exact abort_of_on h hi hpi r ha.1 ha.2

end

/-! ### The surroundings of an abort -/

/-- A place whose record, offtake and doors away are those of another, and whose permits are as honest. -/
structure Place.LeadsTo (pl pl₁ : Place) : Prop where
  kept : pl₁.oven.kept = pl.oven.kept
  offtake : pl₁.offtake = pl.offtake
  away : ∀ side, Claims.away (pl₁.door side) ↔ Claims.away (pl.door side)
  honest : ∀ side, ((pl.door side).permit = true → (pl.door side).state = .released) →
    (pl₁.door side).permit = true → (pl₁.door side).state = .released

theorem Place.LeadsTo.refl (pl : Place) : pl.LeadsTo pl := ⟨rfl, rfl, fun _ => .rfl, fun _ h => h⟩

theorem Place.LeadsTo.trans {pl pl₁ pl₂ : Place} (h : pl.LeadsTo pl₁) (k : pl₁.LeadsTo pl₂) : pl.LeadsTo pl₂ :=
  ⟨k.kept.trans h.kept, k.offtake.trans h.offtake, fun side => (k.away side).trans (h.away side),
    fun side hs => k.honest side (h.honest side hs)⟩

theorem Place.LeadsTo.held (pl : Place) (a : OvenAlarm) (on : Bool) : pl.LeadsTo (pl.held a on) :=
  ⟨rfl, rfl, fun side => by simp, fun side h => by simpa using h⟩

theorem Place.LeadsTo.permits (c : Configuration) (x : Option Context) (l : SwitchInput → Bool) (pl : Place) :
    pl.LeadsTo (pl.permits c x l) where
  kept := by simp
  offtake := by simp
  away side := by
    rw [Place.permits_door]
    generalize pl.ready c x = ready, l (.leak side) = leak, pl.door side = d
    cases hs : d.state <;> cases ready <;>
      simp [Door.decide, hs, DoorState.isLatched, Claims.away, Door.enterReleased, Door.enterSealed]
  honest side h := by
    rw [Place.permits_door]
    exact Door.decide_honest h

/-- An abort that begins after other effects of the same step. -/
theorem Aborts.before {c : Configuration} {i : Nat} {pl pl₁ : Place} {x x₁ : Context} {r : AbortReason} {p p₁ q : Part}
    (h : Aborts c i pl₁ x₁ r p₁ q) (hpl : pl.LeadsTo pl₁) (hp : PushOnly i p p₁) (hq : p₁.qou = p.qou)
    (hpdn : p₁.psq.pendingPdn = p.psq.pendingPdn) (hl : p₁.level i .capClosed = p.level i .capClosed)
    (hx : x₁.aborted r = x.aborted r) : Claims.aborts c i pl x r p q := by
  obtain ⟨pl', place, alarm, drop, orders, pdn, frame, away, on⟩ := h.claim
  have context (asked : Bool) : ({ x₁ with
      stage := .returning, reason := some r, permit := .stopped, prepareLimit := .stopped, armedLimit := .stopped
      spotAwaited := false, doorLimit := .running 900000, piRequested := asked } : Context) = { x with
      stage := .returning, reason := some r, permit := .stopped, prepareLimit := .stopped, armedLimit := .stopped
      spotAwaited := false, doorLimit := .running 900000, piRequested := asked } :=
    congrArg (fun y : Context => { y with piRequested := asked }) hx
  simp only [context] at away on
  refine ⟨pl', place, alarm, fun side hs => drop side (hpl.honest side hs), hq ▸ orders, pdn.trans hpdn, hp.trans frame,
    fun ha => ?_, fun hP hC hm hn => ?_⟩
  · obtain ⟨hcontext, hofftake, hkept⟩ := away (ha.imp (hpl.away .p).mpr (hpl.away .c).mpr)
    exact ⟨hcontext, hofftake.trans hpl.offtake, hkept.trans hpl.kept⟩
  · exact piAsked_congr hpl.kept hpl.offtake hl (on (fun k => hP ((hpl.away .p).mp k)) (fun k => hC ((hpl.away .c).mp k))
      (by rw [hpl.offtake, hm]) (by rw [hpl.offtake, hn]))

end Sys2Proof.Machine

/-! SUPPORT. The oven cycle of a part: the configuration, the retained domain, the oven records without their alarms, and the
oven of the push. The promises about places, ages and phases speak of it alone, and most operations leave it as it is. -/

namespace Sys2Proof.Machine

open Sys2Proof

/-! ## The abstraction -/

/-- An oven record without its alarms. -/
def Oven.silent (o : Oven) : Oven := { o with alarms := 0 }

/-- What the promises of R1 and R5 speak of. -/
structure OvenCycle where
  config : Option Configuration
  retained : RetainedDomain
  ovens : List Oven
  pushOven : Option Nat

def Part.cycle (p : Part) : OvenCycle :=
  { config := p.config, retained := p.retained, ovens := p.places.map fun pl => pl.oven.silent
    pushOven := p.psq.context.map fun x => x.oven }

def OvenCycle.modify (a : OvenCycle) (i : Nat) (f : Oven → Oven) : OvenCycle := { a with ovens := a.ovens.modify i f }

def OvenCycle.withPush (a : OvenCycle) (x : Option Nat) : OvenCycle := { a with pushOven := x }

theorem OvenCycle.modify_modify (a : OvenCycle) (i : Nat) (f g : Oven → Oven) :
    (a.modify i f).modify i g = a.modify i (g ∘ f) := by
  simp [OvenCycle.modify, List.modify_modify_eq]

theorem OvenCycle.modify_id (a : OvenCycle) (i : Nat) : a.modify i (fun o => o) = a := by
  have : a.ovens.modify i (fun o => o) = a.ovens := List.modify_id i a.ovens
  simp [OvenCycle.modify, this]

@[simp] theorem OvenCycle.withPush_modify (a : OvenCycle) (x : Option Nat) (i : Nat) (f : Oven → Oven) :
    (a.withPush x).modify i f = (a.modify i f).withPush x := rfl

theorem cycle_oven {p : Part} {i : Nat} : p.cycle.ovens[i]? = p.places[i]?.map fun pl => pl.oven.silent := by
  simp [Part.cycle]

/-! ## The cycle after each operation -/

/-- An operation on one oven changes that oven's record alone. -/
theorem OvenOnly.cycle_modify {i : Nat} {p q : Part} (h : OvenOnly i p q) (f : Oven → Oven)
    (hi : ∀ pl, p.places[i]? = some pl → ∃ pl', q.places[i]? = some pl' ∧ pl'.oven.silent = f pl.oven.silent) :
    q.cycle = p.cycle.modify i f := by
  have ovens : (q.places.map fun pl => pl.oven.silent) = (p.places.map fun pl => pl.oven.silent).modify i f := by
    refine List.ext_getElem? fun j => ?_
    by_cases hj : j = i
    · subst hj
      cases hp : p.places[j]? with
      | none => simp [hp, h.get_none hp]
      | some pl =>
        obtain ⟨pl', hq, hs⟩ := hi pl hp
        simp [hp, hq, hs]
    · simp [h.places j hj, Ne.symm hj]
  simp only [Part.cycle, OvenCycle.modify, h.config_eq, h.retained_eq, h.psq_eq, ovens]

/-- An operation on one oven that keeps its record's fields but the alarms. -/
theorem OvenOnly.cycle_eq {i : Nat} {p q : Part} (h : OvenOnly i p q)
    (hi : ∀ pl, p.places[i]? = some pl → ∃ pl', q.places[i]? = some pl' ∧ pl'.oven.silent = pl.oven.silent) :
    q.cycle = p.cycle := by
  rw [h.cycle_modify (fun o => o) hi, OvenCycle.modify_id]

theorem Oven.ResealOnly.silent_eq {o o' : Oven} (h : o.ResealOnly o') : o'.silent = o.silent := by
  rw [h.rest]; rfl

@[simp] theorem cycle_offer (p : Part) (k : Kind) (sub : Subject) (b : List Byte) : (p.offer k sub b).cycle = p.cycle := rfl

@[simp] theorem cycle_offerOvs (p : Part) (i : Nat) : (p.offerOvs i).cycle = p.cycle :=
  (OvenOnly.offerOvs i p).cycle_eq fun pl h => ⟨pl, by simp [h], rfl⟩

@[simp] theorem cycle_hold (c : Configuration) (i : Nat) (a : OvenAlarm) (on : Bool) (p : Part) :
    (holdOven c i a on p).cycle = p.cycle :=
  (OvenOnly.hold c i a on p).cycle_eq fun _ h => ⟨_, ((Part.shows_self h).hold c a on).place, rfl⟩

@[simp] theorem cycle_raise (c : Configuration) (i : Nat) (a : OvenAlarm) (p : Part) :
    (raiseOven c i a p).cycle = p.cycle := cycle_hold c i a true p

@[simp] theorem cycle_remove (c : Configuration) (i : Nat) (a : OvenAlarm) (p : Part) :
    (removeOven c i a p).cycle = p.cycle := cycle_hold c i a false p

@[simp] theorem cycle_setAlarms (c : Configuration) (i : Nat) (set : Word16) (p : Part) :
    (setOvenAlarms c i set p).cycle = p.cycle :=
  (OvenOnly.setAlarms c i set p).cycle_eq fun _ h => ⟨_, ((Part.shows_self h).setAlarms c set).place, rfl⟩

@[simp] theorem cycle_evalOverdue (c : Configuration) (i : Nat) (p : Part) : (evalOverdue c i p).cycle = p.cycle :=
  (OvenOnly.evalOverdue c i p).cycle_eq fun _ h => ⟨_, ((Part.shows_self h).evalOverdue c).place, rfl⟩

@[simp] theorem cycle_commitDoor (c : Configuration) (i : Nat) (side : Side) (d : Door) (p : Part) :
    (commitDoor c i side d p).cycle = p.cycle :=
  (OvenOnly.commitDoor c i side d p).cycle_eq fun _ h =>
    ⟨_, ((Part.shows_self h).commitDoor c side d).place, by simp [Oven.silent]⟩

@[simp] theorem cycle_permitPass (c : Configuration) (i : Nat) (p : Part) : (permitPass c i p).cycle = p.cycle :=
  (OvenOnly.permitPass c i p).cycle_eq fun pl h =>
    ⟨_, ((Part.shows_self h).permitPass c).place, (pl.permits_resealOnly c _ _).silent_eq⟩

@[simp] theorem cycle_commitOfftake (i : Nat) (o : Offtake) (p : Part) : (commitOfftake i o p).cycle = p.cycle :=
  (OvenOnly.commitOfftake i o p).cycle_eq fun _ h => ⟨_, ((Part.shows_self h).commitOfftake o).place, rfl⟩

@[simp] theorem cycle_settle (c : Configuration) (i : Nat) (o : Offtake) (p : Part) :
    (settleOfftake c i o p).cycle = p.cycle := by simp [settleOfftake]

theorem OrdersOnly.cycle_eq {p q : Part} (h : OrdersOnly p q) : q.cycle = p.cycle := by
  simp only [Part.cycle, h.config_eq, h.retained_eq, h.places_eq, h.psq_eq]

theorem cycle_modifyContext (f : Context → Context) (p : Part) (hf : ∀ x, (f x).oven = x.oven) :
    (modifyContext f p).cycle = p.cycle := by
  have same : (fun x => (f x).oven) = fun x : Context => x.oven := funext hf
  have push : ((p.psq.context.map f).map fun x => x.oven) = p.psq.context.map fun x => x.oven := by
    rw [Option.map_map, Function.comp_def, same]
  exact congrArg (fun x => p.cycle.withPush x) push

@[simp] theorem cycle_setContext (c : Configuration) (i : Nat) (x : Option Context) (p : Part) :
    (setContext c i x p).cycle = p.cycle.withPush (x.map fun x => x.oven) := by
  rw [setContext, cycle_permitPass]; rfl

/-- The oven record with its phase set (R5). -/
def Oven.phased (new : Phase) (o : Oven) : Oven := if o.kept.phase = new then o else o.entered new

theorem Oven.silent_entered (new : Phase) (o : Oven) : (o.entered new).silent = o.silent.entered new := by
  have same : (o.silent.inFlight = true ∧ o.silent.kept.phase = .empty) = (o.inFlight = true ∧ o.kept.phase = .empty) := rfl
  simp only [Oven.entered, Oven.leaveEmpty, same]
  split <;> rfl

@[simp] theorem cycle_setPhase (c : Configuration) (i : Nat) (new : Phase) (p : Part) :
    (setPhase c i new p).cycle = p.cycle.modify i (Oven.phased new) := by
  refine (OvenOnly.setPhase c i new p).cycle_modify _ fun pl h => ?_
  refine ⟨_, ((Part.shows_self h).phaseSet c new).place, ?_⟩
  have phase : pl.oven.silent.kept.phase = pl.oven.kept.phase := rfl
  unfold Place.phaseSet Oven.phased
  rw [phase]
  split
  · rfl
  · rw [← Oven.silent_entered, Place.entered, (Place.settled_resealOnly c _ _ _ _).silent_eq]; rfl

theorem cycle_modifyOven (p : Part) (i : Nat) (f : Oven → Oven) (hf : ∀ o, (f o).silent = f o.silent)
    (hn : ∀ o, (f o).number = o.number) : (p.modifyOven i f).cycle = p.cycle.modify i f :=
  (OvenOnly.modifyOven i p f hn).cycle_modify _ fun _ h => ⟨_, ((Part.shows_self h).modifyOven f).place, hf _⟩

/-- The oven record with its hold flag set or cleared. -/
def Oven.withHold (hold : Bool) (o : Oven) : Oven := { o with kept := { o.kept with hold := hold } }

@[simp] theorem cycle_setHold (i : Nat) (hold : Bool) (p : Part) :
    (setHold i hold p).cycle = p.cycle.modify i (Oven.withHold hold) :=
  (OvenOnly.setHold i hold p).cycle_modify _ fun _ h => ⟨_, ((Part.shows_self h).setHold hold).place, rfl⟩

/-- The oven record with its phase set by its age (R3). -/
def Oven.phasedByAge (c : Configuration) (o : Oven) : Oven := o.phased (Claims.byAge c o.kept)

@[simp] theorem cycle_setByAge (c : Configuration) (i : Nat) (p : Part) :
    (setByAge c i p).cycle = p.cycle.modify i (Oven.phasedByAge c) := by
  cases h : p.places[i]? with
  | none =>
    have absent : p.cycle.ovens[i]? = none := by simp [cycle_oven, h]
    have : setByAge c i p = p := by simp [setByAge, h]
    rw [this]
    simp only [OvenCycle.modify, List.modify_eq_self (by simpa using absent)]
  | some pl =>
    have here : p.cycle.ovens[i]? = some pl.oven.silent := by simp [cycle_oven, h]
    rw [setByAge_eq h, cycle_setPhase]
    simp only [OvenCycle.modify]
    congr 1
    refine List.ext_getElem? fun j => ?_
    by_cases hj : i = j
    · subst hj; simp [here, Oven.phasedByAge, Oven.silent]
    · simp [hj]

@[simp] theorem cycle_testArmed (c : Configuration) (n : Nat) (p : Part) : (testArmed c n p).cycle = p.cycle := by
  unfold testArmed
  split
  · rfl
  · next x hx =>
    unfold withLocal
    split
    · rfl
    · dsimp only
      split
      · rfl
      · split
        · rw [cycle_setContext]
          simp [OvenCycle.withPush, Part.cycle, hx, Context.arm]
        · rfl

@[simp] theorem cycle_askIsolate (c : Configuration) (i : Nat) (p : Part) : (askIsolate c i p).cycle = p.cycle := by
  unfold askIsolate
  split
  · rfl
  · dsimp only
    split <;> simp

theorem cycle_endReturn (c : Configuration) (i : Nat) (p : Part) : (endReturn c i p).cycle
    = (p.cycle.modify i (Oven.phasedByAge c ∘ Oven.withHold true)).withPush none := by
  simp [endReturn, OvenCycle.modify_modify]

end Sys2Proof.Machine

namespace Sys2Proof.Machine

open Sys2Proof

/-! ## The promises about the cycle -/

/-- R1, R148: one record per local oven in rising number. -/
structure OvenCycle.PlacesSound (a : OvenCycle) : Prop where
  unloaded : a.config = none → a.ovens = []
  config : ∀ c, a.config = some c → configInRange c
  length : ∀ c, a.config = some c → a.ovens.length = c.ovenCount
  number : ∀ c, a.config = some c → ∀ (i : Nat) (o : Oven), a.ovens[i]? = some o → o.number = c.firstOven + i

/-- R1. -/
structure OvenCycle.AgesSound (a : OvenCycle) : Prop where
  ovens : ∀ (i : Nat) (o : Oven), a.ovens[i]? = some o → o.kept.InRange
  copy : ∀ r ∈ a.retained.records, r.InRange

/-- R13, R14, R18: a charge start in flight is of an EMPTY oven, CHP-pending and the charge limit are of a CHARGING one. -/
structure Oven.FlagsSound (o : Oven) : Prop where
  inFlight : o.inFlight = true → o.kept.phase = .empty
  chpPending : o.chpPending = true → o.kept.phase = .charging
  chargeLimit : o.chargeLimit.active = true → o.kept.phase = .charging

/-- R5, R13, R14, R18, R38. -/
structure OvenCycle.PhasesSound (a : OvenCycle) : Prop where
  neighbours : ∀ (i : Nat) (o u : Oven), a.ovens[i]? = some o → a.ovens[i + 1]? = some u →
    o.kept.phase.isOpen = true → u.kept.phase.isOpen = false
  copy : noOpenNeighbours a.retained.phases = true
  push : ∀ (i : Nat) (o : Oven), a.ovens[i]? = some o → (o.kept.phase = .pushing ↔ a.pushOven = some o.number)
  pushLocal : ∀ n, a.pushOven = some n → ∃ (i : Nat) (o : Oven), a.ovens[i]? = some o ∧ o.number = n
  flags : ∀ (i : Nat) (o : Oven), a.ovens[i]? = some o → o.FlagsSound

theorem noOpenNeighbours_iff (phases : List Phase) : noOpenNeighbours phases = true
    ↔ ∀ (i : Nat) (a b : Phase), phases[i]? = some a → phases[i + 1]? = some b → a.isOpen = true → b.isOpen = false := by
  induction phases with
  | nil => simp [noOpenNeighbours]
  | cons a rest ih =>
    cases rest with
    | nil => simp [noOpenNeighbours]
    | cons b rest =>
      simp only [noOpenNeighbours, Bool.and_eq_true, ih]
      constructor
      · rintro ⟨hab, hrest⟩ i x y hx hy
        cases i with
        | zero =>
          cases hx; cases hy
          intro ha
          simpa [ha] using hab
        | succ i => exact hrest i x y hx hy
      · intro h
        refine ⟨?_, fun i x y hx hy => h (i + 1) x y hx hy⟩
        have hab := h 0 a b rfl rfl
        cases ha : a.isOpen <;> simp_all

/-! ### They are the model's promises -/

@[simp] theorem Oven.silent_number (o : Oven) : o.silent.number = o.number := rfl
@[simp] theorem Oven.silent_kept (o : Oven) : o.silent.kept = o.kept := rfl

theorem cycle_oven_some {p : Part} {i : Nat} {o : Oven} :
    p.cycle.ovens[i]? = some o ↔ ∃ pl, p.places[i]? = some pl ∧ pl.oven.silent = o := by
  simp [cycle_oven]

theorem placesSound_iff (p : Part) : p.PlacesSound ↔ p.cycle.PlacesSound := by
  constructor
  · rintro ⟨unloaded, loaded⟩
    have loaded' (c : Configuration) (hc : p.config = some c) := loaded c (by simp [hc])
    refine ⟨fun hc => ?_, fun c hc => (loaded' c hc).1, fun c hc => ?_, fun c hc i o ho => ?_⟩
    · simp [Part.cycle, unloaded hc]
    · simpa [Part.cycle] using (loaded' c hc).2.1
    · obtain ⟨pl, hpl, rfl⟩ := cycle_oven_some.mp ho
      have hi : i < p.places.length := (List.getElem?_eq_some_iff.mp hpl).1
      simpa [hpl] using (loaded' c hc).2.2 i hi
  · rintro ⟨unloaded, config, length, number⟩
    refine ⟨fun hc => ?_, fun c hc => ?_⟩
    · simpa [Part.cycle] using unloaded hc
    · have hc' : p.config = some c := by simpa using hc
      refine ⟨config c hc', by simpa [Part.cycle] using length c hc', fun i hi => ?_⟩
      have hpl : p.places[i]? = some p.places[i] := List.getElem?_eq_getElem hi
      have := number c hc' i _ (cycle_oven_some.mpr ⟨_, hpl, rfl⟩)
      simpa [hpl] using this

theorem agesSound_iff (p : Part) : p.AgesSound ↔ p.cycle.AgesSound := by
  constructor
  · rintro ⟨places, copy⟩
    refine ⟨fun i o ho => ?_, copy⟩
    obtain ⟨pl, hpl, rfl⟩ := cycle_oven_some.mp ho
    exact places pl (List.mem_of_getElem? hpl)
  · rintro ⟨ovens, copy⟩
    refine ⟨fun pl hpl => ?_, copy⟩
    obtain ⟨i, hi⟩ := List.getElem?_of_mem hpl
    exact ovens i pl.oven.silent (cycle_oven_some.mpr ⟨pl, hi, rfl⟩)

theorem isContextOven_iff (p : Part) (n : Nat) : isContextOven p n = true ↔ p.cycle.pushOven = some n := by
  unfold isContextOven
  cases h : p.psq.context <;> simp [Part.cycle, h]

theorem phasesSound_iff (p : Part) : p.PhasesSound ↔ p.cycle.PhasesSound := by
  have phase (i : Nat) (ph : Phase) : p.phases[i]? = some ph ↔ ∃ o, p.cycle.ovens[i]? = some o ∧ o.kept.phase = ph := by
    simp [Part.phases, cycle_oven, Oven.silent]
  constructor
  · rintro ⟨neighbours, copy, push, pushLocal, inFlight, chpPending, chargeLimit⟩
    refine ⟨fun i o u ho hu => ?_, copy, fun i o ho => ?_, fun n hn => ?_, fun i o ho => ?_⟩
    · exact (noOpenNeighbours_iff _).mp neighbours i _ _ ((phase i _).mpr ⟨o, ho, rfl⟩) ((phase (i + 1) _).mpr ⟨u, hu, rfl⟩)
    · obtain ⟨pl, hpl, rfl⟩ := cycle_oven_some.mp ho
      rw [← isContextOven_iff]
      exact push pl (List.mem_of_getElem? hpl)
    · obtain ⟨x, hx, rfl⟩ := Option.map_eq_some_iff.mp hn
      obtain ⟨pl, hpl, hnum⟩ := pushLocal x (by simp [hx])
      obtain ⟨i, hi⟩ := List.getElem?_of_mem hpl
      exact ⟨i, _, cycle_oven_some.mpr ⟨pl, hi, rfl⟩, hnum⟩
    · obtain ⟨pl, hpl, rfl⟩ := cycle_oven_some.mp ho
      have mem := List.mem_of_getElem? hpl
      exact ⟨inFlight pl mem, chpPending pl mem, chargeLimit pl mem⟩
  · rintro ⟨neighbours, copy, push, pushLocal, flags⟩
    have here (pl : Place) (hpl : pl ∈ p.places) : ∃ i : Nat, p.cycle.ovens[i]? = some pl.oven.silent := by
      obtain ⟨i, hi⟩ := List.getElem?_of_mem hpl
      exact ⟨i, cycle_oven_some.mpr ⟨pl, hi, rfl⟩⟩
    refine ⟨(noOpenNeighbours_iff _).mpr fun i a b ha hb => ?_, copy, fun pl hpl => ?_, fun x hx => ?_, ?_⟩
    · obtain ⟨o, ho, rfl⟩ := (phase i a).mp ha
      obtain ⟨u, hu, rfl⟩ := (phase (i + 1) b).mp hb
      exact neighbours i o u ho hu
    · obtain ⟨i, hi⟩ := here pl hpl
      rw [isContextOven_iff]
      exact push i pl.oven.silent hi
    · have hx' : p.psq.context = some x := by simpa using hx
      obtain ⟨i, o, ho, hn⟩ := pushLocal x.oven (by simp [Part.cycle, hx'])
      obtain ⟨pl, hpl, rfl⟩ := cycle_oven_some.mp ho
      exact ⟨pl, List.mem_of_getElem? hpl, hn⟩
    · refine ⟨fun pl hpl => ?_, fun pl hpl => ?_, fun pl hpl => ?_⟩ <;> obtain ⟨i, hi⟩ := here pl hpl
      · exact (flags i pl.oven.silent hi).inFlight
      · exact (flags i pl.oven.silent hi).chpPending
      · exact (flags i pl.oven.silent hi).chargeLimit

/-! ## Keeping the promises -/

/-- `q` keeps the promises about places, ages and phases that `p` kept. -/
structure OvenCycle.Keeps (a b : OvenCycle) : Prop where
  places : a.PlacesSound → b.PlacesSound
  ages : a.PlacesSound → a.AgesSound → b.AgesSound
  phases : a.PlacesSound → a.PhasesSound → b.PhasesSound

theorem OvenCycle.Keeps.refl (a : OvenCycle) : a.Keeps a := ⟨id, fun _ => id, fun _ => id⟩

theorem OvenCycle.Keeps.trans {a b d : OvenCycle} (h : a.Keeps b) (k : b.Keeps d) : a.Keeps d :=
  ⟨fun hs => k.places (h.places hs), fun hs ha => k.ages (h.places hs) (h.ages hs ha),
    fun hs hp => k.phases (h.places hs) (h.phases hs hp)⟩

/-- The promises about the places may be used in proving that they are kept. -/
theorem OvenCycle.Keeps.of_placesSound {a b : OvenCycle} (h : a.PlacesSound → a.Keeps b) : a.Keeps b :=
  ⟨fun hs => (h hs).places hs, fun hs => (h hs).ages hs, fun hs => (h hs).phases hs⟩

/-- A change of one oven's record, of `o` to `o'`, with the push then of `x`, breaks no promise about phases. -/
structure OvenCycle.Allows (a : OvenCycle) (i : Nat) (o o' : Oven) (x : Option Nat) : Prop where
  opens : o'.kept.phase.isOpen = true → o.kept.phase.isOpen = true
    ∨ ∀ (j : Nat) (u : Oven), j + 1 = i ∨ j = i + 1 → a.ovens[j]? = some u → u.kept.phase.isOpen = false
  push : o'.kept.phase = .pushing ↔ x = some o.number
  others : ∀ n, n ≠ o.number → (x = some n ↔ a.pushOven = some n)
  flags : o'.FlagsSound

theorem OvenCycle.modify_get {a : OvenCycle} {i : Nat} {f : Oven → Oven} {x : Option Nat} {j : Nat} {u : Oven}
    (hu : ((a.modify i f).withPush x).ovens[j]? = some u) :
    ∃ o, a.ovens[j]? = some o ∧ u = if j = i then f o else o := by
  have hu' : (a.ovens.modify i f)[j]? = some u := hu
  rw [List.getElem?_modify] at hu'
  obtain ⟨o, ho, rfl⟩ := Option.map_eq_some_iff.mp hu'
  exact ⟨o, ho, by simp only [eq_comm]⟩

/-- Two local ovens have two numbers. -/
theorem OvenCycle.PlacesSound.index_eq {a : OvenCycle} (hs : a.PlacesSound) {i j : Nat} {o u : Oven}
    (ho : a.ovens[i]? = some o) (hu : a.ovens[j]? = some u) (hn : o.number = u.number) : i = j := by
  cases hc : a.config with
  | none => simp [hs.unloaded hc] at ho
  | some c =>
    have ho' := hs.number c hc i o ho
    have hu' := hs.number c hc j u hu
    omega

theorem OvenCycle.PlacesSound.phases_modify {a : OvenCycle} {i : Nat} {f : Oven → Oven} {x : Option Nat} {o : Oven}
    (hs : a.PlacesSound) (hp : a.PhasesSound) (hi : a.ovens[i]? = some o) (hn : (f o).number = o.number)
    (h : a.Allows i o (f o) x) : ((a.modify i f).withPush x).PhasesSound where
  copy := hp.copy
  neighbours j u v mu mv := by
    obtain ⟨u, hu, rfl⟩ := modify_get mu
    obtain ⟨v, hv, rfl⟩ := modify_get mv
    by_cases hj : j = i
    · subst hj
      cases hi.symm.trans hu
      rw [if_pos rfl, if_neg (by omega)]
      intro opened
      rcases h.opens opened with was | closed
      · exact hp.neighbours j o v hi hv was
      · exact closed (j + 1) v (.inr rfl) hv
    · rw [if_neg hj]
      intro opened
      split
      · next e =>
        subst e
        cases hi.symm.trans hv
        refine Bool.eq_false_iff.mpr fun opens => ?_
        rcases h.opens opens with was | closed
        · simp [hp.neighbours j u o hu hi opened] at was
        · simp [closed j u (.inl rfl) hu] at opened
      · exact hp.neighbours j u v hu hv opened
  push j u mu := by
    obtain ⟨u, hu, rfl⟩ := modify_get mu
    by_cases hj : j = i
    · subst hj
      cases hi.symm.trans hu
      rw [if_pos rfl, hn]
      exact h.push
    · rw [if_neg hj, hp.push j u hu]
      exact (h.others _ fun e => hj (hs.index_eq hu hi e)).symm
  pushLocal n hx := by
    by_cases hno : n = o.number
    · exact ⟨i, f o, by simp [withPush, modify, hi], hn.trans hno.symm⟩
    · obtain ⟨j, u, hu, rfl⟩ := hp.pushLocal n ((h.others n hno).mp hx)
      have hj : i ≠ j := fun e => by subst e; cases hi.symm.trans hu; exact hno rfl
      exact ⟨j, u, by simp [withPush, modify, hj, hu], rfl⟩
  flags j u mu := by
    obtain ⟨u, hu, rfl⟩ := modify_get mu
    by_cases hj : j = i
    · subst hj
      cases hi.symm.trans hu
      rw [if_pos rfl]
      exact h.flags
    · rw [if_neg hj]
      exact hp.flags j u hu

/-- A change of one oven's record and of the push that is allowed keeps every promise. -/
theorem OvenCycle.keeps_modify {a : OvenCycle} {i : Nat} {f : Oven → Oven} {x : Option Nat}
    (h : ∀ o, a.PlacesSound → a.ovens[i]? = some o → (f o).number = o.number
      ∧ (o.kept.InRange → (f o).kept.InRange) ∧ (a.PhasesSound → a.Allows i o (f o) x))
    (absent : a.PlacesSound → a.ovens[i]? = none → x = a.pushOven) : a.Keeps ((a.modify i f).withPush x) := by
  refine ⟨fun hs => ⟨fun hc => ?_, hs.config, fun c hc => ?_, fun c hc j u hu => ?_⟩,
    fun hs ha => ⟨fun j u hu => ?_, ha.copy⟩, fun hs hp => ?_⟩
  · simp [OvenCycle.withPush, OvenCycle.modify, hs.unloaded hc]
  · simpa [OvenCycle.withPush, OvenCycle.modify] using hs.length c hc
  · obtain ⟨o, ho, rfl⟩ := modify_get hu
    have hn := hs.number c hc j o ho
    split
    · next e => subst e; rw [(h o hs ho).1, hn]
    · exact hn
  · obtain ⟨o, ho, rfl⟩ := modify_get hu
    have hr := ha.ovens j o ho
    split
    · next e => subst e; exact (h o hs ho).2.1 hr
    · exact hr
  · cases hi : a.ovens[i]? with
    | none =>
      have same : (a.modify i f).withPush x = a := by
        have keep : a.ovens.modify i f = a.ovens := List.modify_eq_self (by simpa using hi)
        rw [absent hs hi]
        simp [OvenCycle.withPush, OvenCycle.modify, keep]
      rw [same]
      exact hp
    | some o =>
      obtain ⟨-, -, allowed⟩ := h o hs hi
      exact hs.phases_modify hp hi (h o hs hi).1 (allowed hp)


end Sys2Proof.Machine

namespace Sys2Proof.Machine

open Sys2Proof

/-! ## Single changes that keep the promises -/

/-- The part `q` keeps the promises of the oven cycle that `p` kept. -/
abbrev Part.Keeps (p q : Part) : Prop := p.cycle.Keeps q.cycle

theorem Part.Keeps.of_eq {p q : Part} (h : q.cycle = p.cycle) : p.Keeps q := by
  unfold Part.Keeps
  rw [h]
  exact .refl _

/-- What the promises need of the place of the push: the oven there is the push's. -/
def OvenCycle.PushAt (a : OvenCycle) (i : Nat) : Prop :=
  a.PlacesSound → ∃ o, a.ovens[i]? = some o ∧ a.pushOven = some o.number

theorem placeOf_eq {c : Configuration} {n i : Nat} (h : placeOf c n = some i) :
    n = c.firstOven + i ∧ i < c.ovenCount := by
  unfold placeOf at h
  split at h
  · cases h; omega
  · cases h

/-- A local oven's record stands at its place. -/
theorem OvenCycle.PlacesSound.oven {a : OvenCycle} (hs : a.PlacesSound) {c : Configuration} (hc : a.config = some c)
    {n i : Nat} (hi : placeOf c n = some i) : ∃ o, a.ovens[i]? = some o ∧ o.number = n := by
  obtain ⟨rfl, hlt⟩ := placeOf_eq hi
  have hlen : i < a.ovens.length := by rw [hs.length c hc]; exact hlt
  exact ⟨a.ovens[i], List.getElem?_eq_getElem hlen, hs.number c hc i _ (List.getElem?_eq_getElem hlen)⟩

theorem pushAt_of_placeOf {p : Part} {c : Configuration} (hc : p.cycle.config = some c) {x : Context}
    (hx : p.psq.context = some x) {i : Nat} (hi : placeOf c x.oven = some i) : p.cycle.PushAt i := fun hs => by
  obtain ⟨o, ho, hn⟩ := hs.oven hc hi
  exact ⟨o, ho, by simp [Part.cycle, hx, hn]⟩

theorem pushAt_of_number {p : Part} {i : Nat} {pl : Place} (h : p.places[i]? = some pl) {x : Context}
    (hx : p.psq.context = some x) (hn : x.oven = pl.oven.number) : p.cycle.PushAt i := fun _ =>
  ⟨pl.oven.silent, cycle_oven_some.mpr ⟨pl, h, rfl⟩, by simp [Part.cycle, hx, hn]⟩

@[simp] theorem Oven.phased_number (new : Phase) (o : Oven) : (o.phased new).number = o.number := by
  unfold Oven.phased; split <;> simp

@[simp] theorem Oven.phased_kept (new : Phase) (o : Oven) : (o.phased new).kept = { o.kept with phase := new } := by
  unfold Oven.phased
  split
  · next e => subst e; rfl
  · simp

/-- A phase set leaves no charge field standing that the phase does not have (R13, R14, R18). -/
theorem Oven.phased_flagsSound {o : Oven} (h : o.FlagsSound) (new : Phase) : (o.phased new).FlagsSound := by
  unfold Oven.phased
  split
  · exact h
  · refine ⟨fun hf => ?_, fun hc => ?_, fun hl => ?_⟩
    · simp only [Oven.entered_inFlight, Bool.and_eq_true, bne_iff_ne] at hf
      exact absurd (h.inFlight hf.1) hf.2
    · simp only [Oven.entered_chpPending, Bool.and_eq_true, bne_iff_ne] at hc
      exact absurd (h.chpPending hc.1) hc.2
    · rw [Oven.entered_chargeLimit] at hl
      split at hl
      · simp [Timer.active] at hl
      · next hne => exact absurd (h.chargeLimit hl) hne

/-- A change of one oven's record that keeps its phase, and its charge fields to the phases that have them. -/
theorem Part.Keeps.record {p q : Part} {i : Nat} {f : Oven → Oven} (hq : q.cycle = p.cycle.modify i f)
    (hn : ∀ o, (f o).number = o.number) (hr : ∀ o, o.kept.InRange → (f o).kept.InRange)
    (hph : ∀ o, (f o).kept.phase = o.kept.phase)
    (hf : ∀ o, p.cycle.ovens[i]? = some o → o.FlagsSound → (f o).FlagsSound) : p.Keeps q := by
  unfold Part.Keeps
  rw [hq]
  refine OvenCycle.keeps_modify (x := p.cycle.pushOven) (fun o hs ho => ⟨hn o, hr o, fun hp => ?_⟩) fun _ _ => rfl
  exact ⟨fun opened => .inl (by rwa [hph] at opened), by rw [hph]; exact hp.push i o ho, fun _ _ => .rfl,
    hf o ho (hp.flags i o ho)⟩

/-- A change of phase outside the push that opens no oven beside an open one. -/
theorem Part.Keeps.phase {p q : Part} {i : Nat} {f : Oven → Phase} (hq : q.cycle = p.cycle.modify i fun o => o.phased (f o))
    (hne : ∀ o, f o ≠ .pushing)
    (hpush : ∀ o, p.cycle.ovens[i]? = some o → p.cycle.PhasesSound → o.kept.phase ≠ .pushing)
    (hopen : ∀ o, p.cycle.PlacesSound → p.cycle.ovens[i]? = some o → (f o).isOpen = true → o.kept.phase.isOpen = true
      ∨ ∀ (j : Nat) (u : Oven), j + 1 = i ∨ j = i + 1 → p.cycle.ovens[j]? = some u → u.kept.phase.isOpen = false) :
    p.Keeps q := by
  unfold Part.Keeps
  rw [hq]
  refine OvenCycle.keeps_modify (x := p.cycle.pushOven) (fun o hs ho => ⟨by simp, fun hr => ?_, fun hp => ?_⟩)
    fun _ _ => rfl
  · rw [Oven.phased_kept]; exact hr
  · have closed := hpush o ho hp
    refine ⟨fun opened => hopen o hs ho (by simpa using opened), ?_, fun _ _ => .rfl, Oven.phased_flagsSound (hp.flags i o ho) _⟩
    rw [Oven.phased_kept, ← hp.push i o ho]
    exact iff_of_false (hne o) closed

/-- The push ends at its oven (R5, R50, R55). -/
theorem Part.Keeps.pushEnds {p q : Part} {i : Nat} {f : Oven → Oven} (hq : q.cycle = (p.cycle.modify i f).withPush none)
    (hat : p.cycle.PushAt i) (hn : ∀ o, (f o).number = o.number) (hr : ∀ o, o.kept.InRange → (f o).kept.InRange)
    (hne : ∀ o, (f o).kept.phase ≠ .pushing) (hf : ∀ o, o.FlagsSound → (f o).FlagsSound) : p.Keeps q := by
  unfold Part.Keeps
  rw [hq]
  refine OvenCycle.keeps_modify (fun o hs ho => ⟨hn o, hr o, fun hp => ?_⟩) fun hs absent => ?_
  · obtain ⟨o', ho', hx⟩ := hat hs
    cases ho.symm.trans ho'
    have was : o.kept.phase = .pushing := (hp.push i o ho).mpr hx
    refine ⟨fun _ => .inl (by simp [was, Phase.isOpen]), ?_, fun n hno => ?_, hf o (hp.flags i o ho)⟩
    · exact iff_of_false (hne o) nofun
    · rw [hx]
      exact iff_of_false nofun fun e => hno (Option.some.inj e).symm
  · obtain ⟨o', ho', -⟩ := hat hs
    simp [absent] at ho'

/-- The push begins at an oven no neighbour of which is open (R5, R39, R45). -/
theorem Part.Keeps.pushBegins {p q : Part} {i n : Nat} {c : Configuration} (hc : p.cycle.config = some c)
    (hi : placeOf c n = some i) (hq : q.cycle = (p.cycle.modify i (Oven.phased .pushing)).withPush (some n))
    (hx : p.cycle.pushOven = none)
    (hclear : ∀ (j : Nat) (u : Oven), j + 1 = i ∨ j = i + 1 → p.cycle.ovens[j]? = some u →
      u.kept.phase.isOpen = false) : p.Keeps q := by
  unfold Part.Keeps
  rw [hq]
  refine OvenCycle.keeps_modify (fun o hs ho => ⟨by simp, fun hr => ?_, fun hp => ?_⟩) fun hs absent => ?_
  · rw [Oven.phased_kept]; exact hr
  · obtain ⟨o', ho', hn⟩ := hs.oven hc hi
    cases ho.symm.trans ho'
    refine ⟨fun _ => .inr hclear, by simp [hn], fun m hm => ?_, Oven.phased_flagsSound (hp.flags i o ho) _⟩
    rw [hx]
    exact iff_of_false (fun e => hm (by rw [hn]; exact (Option.some.inj e).symm)) nofun
  · obtain ⟨o', ho', -⟩ := hs.oven hc hi
    simp [absent] at ho'

theorem mayEnterPushing_clear {p : Part} {i : Nat} (h : mayEnterPushing p i = true) (j : Nat) (u : Oven)
    (hj : j + 1 = i ∨ j = i + 1) (hu : p.cycle.ovens[j]? = some u) : u.kept.phase.isOpen = false := by
  obtain ⟨pl, hpl, rfl⟩ := cycle_oven_some.mp hu
  have hph : p.phaseAt j = some pl.oven.kept.phase := by simp [Part.phaseAt, hpl]
  simp only [mayEnterPushing, Bool.and_eq_true, Bool.or_eq_true, decide_eq_true_eq] at h
  rcases hj with rfl | rfl
  · simpa [hph] using h.1
  · simpa [hph] using h.2

end Sys2Proof.Machine

namespace Sys2Proof.Machine

open Sys2Proof

/-! ## The push keeps the promises -/

theorem endReturn_keeps {p : Part} {i : Nat} (c : Configuration) (h : p.cycle.PushAt i) : p.Keeps (endReturn c i p) := by
  refine .pushEnds (cycle_endReturn c i p) h (fun o => ?_) (fun o hr => ?_) (fun o => ?_) fun o hf => ?_
  · simp [Oven.phasedByAge, Oven.withHold]
  · simpa [Oven.phasedByAge, Oven.withHold] using hr
  · simp only [Function.comp_apply, Oven.phasedByAge, Oven.phased_kept]
    rcases Claims.byAge_cases c (o.withHold true).kept with h | h <;> simp [h]
  · exact Oven.phased_flagsSound (o := o.withHold true) ⟨hf.inFlight, hf.chpPending, hf.chargeLimit⟩ _

theorem askPi_keeps {p : Part} {i : Nat} (c : Configuration) (h : p.cycle.PushAt i) : p.Keeps (askPi c i p) := by
  unfold askPi
  split
  · exact .refl _
  · next pl hpl =>
    have asked : (modifyContext (fun x => { x with piRequested := true }) p).cycle = p.cycle :=
      cycle_modifyContext _ p fun _ => rfl
    dsimp only
    split
    · refine (Part.Keeps.of_eq ((cycle_settle c i _ _).trans asked)).trans (endReturn_keeps c ?_)
      rw [cycle_settle, asked]
      exact h
    · exact .of_eq ((cycle_settle c i _ _).trans asked)

theorem returnDoorsTest_keeps {p : Part} {i : Nat} (c : Configuration) (h : p.cycle.PushAt i) :
    p.Keeps (returnDoorsTest c i p) := by
  unfold returnDoorsTest
  split
  · split
    · exact askPi_keeps c h
    · exact .refl _
  · exact .refl _

theorem abort_keeps {p : Part} {c : Configuration} (hc : p.cycle.config = some c) (r : AbortReason) :
    p.Keeps (abort c r p) := by
  unfold abort
  split
  · exact .refl _
  · next x hx =>
    unfold withLocal
    split
    · exact .refl _
    · next i hi =>
      have quiet : (permitPass c i (qouWithdraw (raiseOven c i .pushAborted (modifyContext (·.aborted r) p)))).cycle
          = p.cycle := by
        rw [cycle_permitPass, (OrdersOnly.withdraw _).cycle_eq, cycle_raise]
        exact cycle_modifyContext _ p fun _ => rfl
      refine (Part.Keeps.of_eq quiet).trans (returnDoorsTest_keeps c ?_)
      rw [quiet]
      exact pushAt_of_placeOf hc hx hi

theorem abortIfOpen_keeps {p : Part} {c : Configuration} (hc : p.cycle.config = some c) (n : Nat) (r : AbortReason) :
    p.Keeps (abortIfOpen c n r p) := by
  unfold abortIfOpen
  split
  · exact .refl _
  · split
    · exact abort_keeps hc r
    · exact .refl _

theorem closingDoorsTest_keeps {p : Part} {i : Nat} (c : Configuration) (h : p.cycle.PushAt i) :
    p.Keeps (closingDoorsTest c i p) := by
  unfold closingDoorsTest
  split
  · split
    · exact .pushEnds (f := Oven.phased .empty) (by simp) h (by simp)
        (fun o hr => by rw [Oven.phased_kept]; exact hr) (fun o => by simp) fun o hf => Oven.phased_flagsSound hf _
    · exact .refl _
  · exact .refl _

theorem returnAnswered_keeps {p : Part} {i : Nat} {pl : Place} (c : Configuration) (h : p.places[i]? = some pl) :
    p.Keeps (returnAnswered c i pl.oven.number p) := by
  unfold returnAnswered
  split
  · exact .refl _
  · next x hx =>
    split
    · next hon => exact endReturn_keeps c (pushAt_of_number h hx hon.1)
    · exact .refl _

theorem returnToPrepare_keeps {p : Part} {c : Configuration} (hc : p.cycle.config = some c) (i : Nat) {x : Context}
    (hx : p.psq.context = some x) : p.Keeps (returnToPrepare c i x p) := by
  have quiet : (setContext c i (some { x with stage := .prepare, armedLimit := .stopped, permit := .stopped }) p).cycle
      = p.cycle := by
    rw [cycle_setContext]
    simp [OvenCycle.withPush, Part.cycle, hx]
  unfold returnToPrepare
  dsimp only
  split
  · refine (Part.Keeps.of_eq quiet).trans (abort_keeps ?_ _)
    rw [quiet, hc]
  · exact .of_eq quiet

theorem takeOutcome_keeps {p : Part} {c : Configuration} (hc : p.cycle.config = some c) (r : Outcome) :
    p.Keeps (takeOutcome c r p) := by
  have heard : (modifyContext (fun x => { x with spotAwaited := false }) p).cycle = p.cycle :=
    cycle_modifyContext _ p fun _ => rfl
  have hc' : (modifyContext (fun x => { x with spotAwaited := false }) p).cycle.config = some c := by rw [heard, hc]
  unfold takeOutcome
  split
  · exact .refl _
  · split
    · refine (Part.Keeps.of_eq heard).trans ?_
      cases r
      case done =>
        exact Part.Keeps.of_eq ((cycle_testArmed ..).trans (cycle_modifyContext _ _ (by intro _; rfl)))
      all_goals
        dsimp only
        split
        · exact abort_keeps hc' _
        · exact .refl _
    · exact .refl _

theorem loseOven_keeps {p : Part} {i : Nat} {pl : Place} (c : Configuration) (h : p.places[i]? = some pl)
    (hx : p.cycle.pushOven ≠ some pl.oven.number) : p.Keeps (loseOven c i p) := by
  refine .phase (i := i) (f := fun _ => .unknown) (by simp [loseOven]) (by simp) (fun o ho hp => ?_) fun o _ _ opens => by
    simp [Phase.isOpen] at opens
  rw [ne_eq, hp.push i o ho]
  obtain ⟨pl', hpl', rfl⟩ := cycle_oven_some.mp ho
  cases h.symm.trans hpl'
  exact hx

/-! ### A push won, or begun by a ram start -/

theorem orderSpot_keeps {p : Part} {c : Configuration} (hc : p.cycle.config = some c) (n : Nat) :
    p.Keeps (orderSpot c n p) := by
  unfold orderSpot
  split
  · exact .of_eq ((cycle_modifyContext _ _ (by intro _; rfl)).trans (OrdersOnly.append _ _).cycle_eq)
  · exact abort_keeps hc _

theorem takeWin_keeps {p : Part} {c : Configuration} (hc : p.cycle.config = some c) (hx : p.psq.context = none) (n : Nat) :
    p.Keeps (takeWin c n p) := by
  unfold takeWin withLocal
  split
  · exact .refl _
  · next i hi =>
    dsimp only
    split
    · next hmay =>
      have cycle : (askIsolate c i (setContext c i (some (Context.won n)) (setPhase c i .pushing p))).cycle
          = (p.cycle.modify i (Oven.phased .pushing)).withPush (some n) := by
        simp [Context.won, Context.fresh]
      refine (Part.Keeps.pushBegins hc hi cycle (by simp [Part.cycle, hx]) (mayEnterPushing_clear hmay)).trans
        (orderSpot_keeps ?_ n)
      rw [cycle]
      exact hc
    · exact .refl _

theorem ramStarts_keeps {p : Part} {c : Configuration} (hc : p.cycle.config = some c) {n i : Nat}
    (hi : placeOf c n = some i) : p.Keeps (ramStarts c i n p) := by
  refine OvenCycle.Keeps.of_placesSound fun hs => ?_
  obtain ⟨o, ho, hn⟩ := hs.oven hc hi
  obtain ⟨pl, hpl, rfl⟩ := cycle_oven_some.mp ho
  have started (x : Context) (hx : p.psq.context = some x) (u : Bool) : (startRam c i x u p).cycle = p.cycle := by
    rw [startRam, cycle_setContext]
    simp [OvenCycle.withPush, Part.cycle, hx, Context.ramStart]
  unfold ramStarts
  split
  · next hx =>
    unfold ramOutside
    split
    · next hmay =>
      exact Part.Keeps.pushBegins hc hi (by simp [Context.unannounced, Context.fresh]) (by simp [Part.cycle, hx])
        (mayEnterPushing_clear hmay)
    · exact loseOven_keeps c hpl (by simp [Part.cycle, hx])
  · next x hx =>
    split
    · refine Part.Keeps.of_eq ?_
      unfold ramInContext
      cases x.stage <;> dsimp only
      · rw [cycle_raise, started x hx]
      · split
        · exact started x hx _
        · rw [cycle_raise, started x hx]
      · exact cycle_raise ..
      · rw [cycle_askIsolate, cycle_raise, started x hx]
    · next hne =>
      refine loseOven_keeps c hpl ?_
      simp only [Part.cycle, hx, Option.map_some, ne_eq, Option.some.injEq]
      exact fun e => hne (e.trans hn)

end Sys2Proof.Machine

namespace Sys2Proof.Machine

open Sys2Proof

/-! ## Charges keep the promises -/

theorem Oven.flagsSound_notInFlight {o : Oven} (h : o.FlagsSound) : ({ o with inFlight := false } : Oven).FlagsSound :=
  ⟨nofun, h.chpPending, h.chargeLimit⟩

theorem cancelled_keeps (p : Part) (i : Nat) : p.Keeps (p.modifyOven i fun o => { o with inFlight := false }) :=
  .record (cycle_modifyOven p i _ (fun _ => rfl) fun _ => rfl) (fun _ => rfl) (fun _ h => h) (fun _ => rfl)
    fun _ _ h => Oven.flagsSound_notInFlight h

/-- The charge begun at an EMPTY oven with a charge start in flight (R14). -/
def Oven.chargeBegun (pending : Bool) (o : Oven) : Oven :=
  { ({ o with inFlight := false } : Oven).phased .charging with
    chargeLimit := .running chargeLimitMs
    chpPending := if pending then true else (({ o with inFlight := false } : Oven).phased .charging).chpPending }

theorem chargeBegins_cycle {c : Configuration} {i : Nat} {p : Part} {pl : Place} (h : p.places[i]? = some pl)
    (hf : pl.oven.inFlight = true) :
    ∃ pending, (chargeBegins c i p).cycle = p.cycle.modify i (Oven.chargeBegun pending) := by
  let timed := (setPhase c i .charging (p.modifyOven i fun o => { o with inFlight := false })).modifyOven i
    fun o => { o with chargeLimit := .running chargeLimitMs }
  have cycle : timed.cycle = p.cycle.modify i (Oven.chargeBegun false) := by
    have timedCycle := cycle_modifyOven (setPhase c i .charging (p.modifyOven i fun o => { o with inFlight := false })) i
      (fun o => { o with chargeLimit := .running chargeLimitMs }) (fun _ => rfl) fun _ => rfl
    rw [timedCycle, cycle_setPhase, cycle_modifyOven _ _ _ (by intro _; rfl) (by intro _; rfl),
      OvenCycle.modify_modify, OvenCycle.modify_modify]
    rfl
  simp only [chargeBegins, h, hf, if_true]
  split
  · exact ⟨false, cycle⟩
  · refine ⟨true, ?_⟩
    have owed := cycle_modifyOven timed i (fun o => { o with chpPending := true }) (fun _ => rfl) fun _ => rfl
    rw [owed, cycle, OvenCycle.modify_modify]
    rfl

theorem chargeBegins_keeps (c : Configuration) (i : Nat) (p : Part) : p.Keeps (chargeBegins c i p) := by
  cases h : p.places[i]? with
  | none => simp [chargeBegins, h, OvenCycle.Keeps.refl]
  | some pl =>
    by_cases hf : pl.oven.inFlight = true
    · obtain ⟨pending, cycle⟩ := chargeBegins_cycle (c := c) h hf
      unfold Part.Keeps
      rw [cycle]
      refine OvenCycle.keeps_modify (x := p.cycle.pushOven) (fun o hs ho => ⟨by simp [Oven.chargeBegun], fun hr => ?_,
        fun hp => ?_⟩) fun _ _ => rfl
      · simpa [Oven.chargeBegun] using hr
      · obtain ⟨pl', hpl', rfl⟩ := cycle_oven_some.mp ho
        cases h.symm.trans hpl'
        have empty : pl.oven.kept.phase = .empty := (hp.flags i _ ho).inFlight hf
        have flags := Oven.phased_flagsSound (Oven.flagsSound_notInFlight (hp.flags i _ ho)) .charging
        have phase : (Oven.chargeBegun pending pl.oven.silent).kept.phase = .charging := by simp [Oven.chargeBegun]
        refine ⟨fun _ => .inl (by simp [empty, Phase.isOpen]), ?_, fun _ _ => .rfl, ?_⟩
        · rw [phase, ← hp.push i _ ho, Oven.silent_kept, empty]
          simp
        · refine ⟨fun k => ?_, fun _ => phase, fun _ => phase⟩
          have := flags.inFlight k
          simp at this
    · simp [chargeBegins, h, hf, OvenCycle.Keeps.refl]

theorem chargeFails_keeps (c : Configuration) (i : Nat) (p : Part) : p.Keeps (chargeFails c i p) := by
  unfold chargeFails
  split
  · exact .refl _
  · split
    · exact (cancelled_keeps p i).trans (Part.Keeps.of_eq (cycle_askIsolate ..))
    · exact .refl _

/-! ## Reports and door changes keep the promises -/

theorem tellReport_keeps {c : Configuration} {i : Nat} {p : Part} {pl : Place} (hc : p.cycle.config = some c)
    (h : p.places[i]? = some pl) (r : Report) : p.Keeps (tellReport c i pl.oven.number r p) := by
  cases r
  case aspirateReached => exact chargeBegins_keeps c i p
  case aspirateFailed => exact chargeFails_keeps c i p
  case isolateReached => exact Part.Keeps.of_eq (cycle_testArmed ..)
  case isolateFailed => exact abortIfOpen_keeps hc _ _
  case piEntered => exact returnAnswered_keeps c h
  case returnFailed => exact returnAnswered_keeps c h

theorem tellOfftake_keeps {c : Configuration} {p : Part} (hc : p.cycle.config = some c) (i : Nat) (new : Offtake)
    (alarm : Option OvenAlarm) : p.Keeps (tellOfftake c i new alarm p) := by
  cases h : p.places[i]? with
  | none => simp [tellOfftake, h, OvenCycle.Keeps.refl]
  | some pl =>
    let alarmed := match alarm with
      | none => commitOfftake i new p
      | some a => raiseOven c i a (commitOfftake i new p)
    have cycle : alarmed.cycle = p.cycle := by cases alarm <;> simp [alarmed]
    have shown : ∃ pl', alarmed.places[i]? = some pl' ∧ pl'.oven.number = pl.oven.number := by
      have stored := (Part.shows_self h).commitOfftake new
      cases alarm with
      | none => exact ⟨_, stored.place, rfl⟩
      | some a => exact ⟨_, (stored.raise c a).place, rfl⟩
    obtain ⟨pl', hpl', hn⟩ := shown
    have told : tellOfftake c i new alarm p = permitPass c i (match reportOf pl.offtake new with
      | none => alarmed
      | some r => tellReport c i pl.oven.number r alarmed) := by
      simp only [tellOfftake, h]
      rfl
    rw [told]
    refine (Part.Keeps.of_eq cycle).trans (OvenCycle.Keeps.trans ?_ (Part.Keeps.of_eq (cycle_permitPass ..)))
    cases reportOf pl.offtake new with
    | none => exact .refl _
    | some r =>
      rw [← hn]
      exact tellReport_keeps (by rw [cycle, hc]) hpl' r

theorem cancelOnDoor_keeps (c : Configuration) (i : Nat) (new : DoorState) (p : Part) :
    p.Keeps (cancelOnDoor c i new p) := by
  unfold cancelOnDoor
  split
  · exact .refl _
  · split
    · exact (cancelled_keeps p i).trans (Part.Keeps.of_eq (cycle_askIsolate ..))
    · exact .refl _

theorem psqDoorChange_keeps {c : Configuration} {i : Nat} {p : Part} {x : Context} (hc : p.cycle.config = some c)
    (hx : p.psq.context = some x) (hat : p.cycle.PushAt i) (old new : DoorState) :
    p.Keeps (psqDoorChange c i old new x p) := by
  unfold psqDoorChange
  cases x.stage <;> dsimp only
  case prepare =>
    split
    · exact abort_keeps hc _
    · exact .of_eq (cycle_testArmed ..)
  case armed =>
    split
    · exact abort_keeps hc _
    · split
      · exact returnToPrepare_keeps hc i hx
      · exact .refl _
  case pushing => exact .refl _
  case closing => exact closingDoorsTest_keeps c hat
  case returning =>
    split
    · exact .of_eq ((cycle_askIsolate ..).trans (cycle_modifyContext _ p (by intro _; rfl)))
    · exact returnDoorsTest_keeps c hat

theorem cancelOnDoor_number {c : Configuration} {i : Nat} {new : DoorState} {p : Part} {pl : Place}
    (h : p.places[i]? = some pl) : ∃ o, (cancelOnDoor c i new p).cycle.ovens[i]? = some o ∧ o.number = pl.oven.number := by
  have here : p.cycle.ovens[i]? = some pl.oven.silent := cycle_oven_some.mpr ⟨pl, h, rfl⟩
  simp only [cancelOnDoor, h]
  split
  · have cancelled := cycle_modifyOven p i (fun o => { o with inFlight := false }) (fun _ => rfl) fun _ => rfl
    refine ⟨{ pl.oven.silent with inFlight := false }, ?_, rfl⟩
    rw [cycle_askIsolate, offerChr, cycle_offer, cancelled]
    simp [OvenCycle.modify, here]
  · exact ⟨_, here, rfl⟩

theorem cancelOnDoor_config (c : Configuration) (i : Nat) (new : DoorState) (p : Part) :
    (cancelOnDoor c i new p).cycle.config = p.cycle.config := by
  unfold cancelOnDoor
  split
  · rfl
  · split
    · rw [cycle_askIsolate]; rfl
    · rfl

theorem tellDoor_keeps {c : Configuration} {p : Part} (hc : p.cycle.config = some c) (i : Nat) (old new : DoorState) :
    p.Keeps (tellDoor c i old new p) := by
  unfold tellDoor
  split
  · exact .refl _
  · split
    · exact .refl _
    · next pl hpl =>
      have cancelled := cancelOnDoor_keeps c i new p
      dsimp only
      split
      · exact cancelled
      · next x hx =>
        split
        · next hn =>
          obtain ⟨o, ho, hon⟩ := cancelOnDoor_number (c := c) (new := new) hpl
          refine cancelled.trans (psqDoorChange_keeps ((cancelOnDoor_config c i new p).trans hc) hx (fun _ => ⟨o, ho, ?_⟩)
            old new)
          simp [Part.cycle, hx, hn, hon]
        · exact cancelled

theorem foldl_raise_cycle (c : Configuration) (i : Nat) (alarms : List OvenAlarm) (p : Part) :
    (alarms.foldl (fun p a => raiseOven c i a p) p).cycle = p.cycle := by
  induction alarms generalizing p with
  | nil => rfl
  | cons a rest ih => rw [List.foldl_cons, ih, cycle_raise]

theorem changeDoor_keeps {c : Configuration} {p : Part} (hc : p.cycle.config = some c) (i : Nat) (side : Side) (d : Door) :
    p.Keeps (changeDoor c i side d p) := by
  unfold changeDoor
  split
  · exact .refl _
  · next pl _ =>
    have cycle : ((doorChangeAlarms (pl.oven.kept.phase == .charging) side (pl.door side).state d.state).foldl
        (fun p a => raiseOven c i a p) (commitDoor c i side d p)).cycle = p.cycle := by
      rw [foldl_raise_cycle, cycle_commitDoor]
    exact (Part.Keeps.of_eq cycle).trans (tellDoor_keeps (by rw [cycle, hc]) i _ _)

end Sys2Proof.Machine

namespace Sys2Proof.Machine

open Sys2Proof

/-! ## The panel commands and the minute keep the promises -/

theorem Part.foldl_keeps {α : Type} {f : Part → α → Part} (h : ∀ (p : Part) (a : α), p.Keeps (f p a)) (l : List α) (p : Part) :
    p.Keeps (l.foldl f p) := by
  induction l generalizing p with
  | nil => exact .refl _
  | cons a rest ih => exact (h p a).trans (ih _)

theorem setHold_keeps (i : Nat) (hold : Bool) (p : Part) : p.Keeps (setHold i hold p) :=
  .record (cycle_setHold i hold p) (fun _ => rfl) (fun _ h => h) (fun _ => rfl)
    fun _ _ h => ⟨h.inFlight, h.chpPending, h.chargeLimit⟩

theorem phaseAt_some {p : Part} {i : Nat} {ph : Phase} (h : p.phaseAt i = some ph) {o : Oven}
    (ho : p.cycle.ovens[i]? = some o) : o.kept.phase = ph := by
  obtain ⟨pl, hpl, rfl⟩ := cycle_oven_some.mp ho
  simpa [Part.phaseAt, hpl] using h

theorem takeOut_keeps {p : Part} {i : Nat} (c : Configuration) {ph : Phase} (h : p.phaseAt i = some ph)
    (hne : ph ≠ .pushing) : p.Keeps (takeOut c i p) := by
  have out : p.Keeps (setPhase c i .out p) :=
    .phase (f := fun _ => .out) (cycle_setPhase ..) (by simp) (fun o ho _ => by rw [phaseAt_some h ho]; exact hne)
      fun _ _ _ opens => by simp [Phase.isOpen] at opens
  exact (out.trans (setHold_keeps i false _)).trans (Part.Keeps.of_eq (cycle_askIsolate ..))

theorem panelOut_keeps (c : Configuration) (i : Nat) (p : Part) : p.Keeps (panelOut c i p) := by
  unfold panelOut
  split
  · next h => exact takeOut_keeps c h (by decide)
  · next h => exact takeOut_keeps c h (by decide)
  · exact .refl _

/-- The local neighbours of an oven that passes R9 are closed. -/
theorem neighbours_clear {p : Part} {c : Configuration} (hc : p.cycle.config = some c) (hs : p.cycle.PlacesSound) {i : Nat}
    (hb : clearBelow c p i = true) (ha : clearAbove c p i = true) (j : Nat) (u : Oven) (hj : j + 1 = i ∨ j = i + 1)
    (hu : p.cycle.ovens[j]? = some u) : u.kept.phase.isOpen = false := by
  have hlt : j < c.ovenCount := by
    rw [← hs.length c hc]
    exact (List.getElem?_eq_some_iff.mp hu).1
  obtain ⟨pl, hpl, rfl⟩ := cycle_oven_some.mp hu
  have hph : p.phaseAt j = some pl.oven.kept.phase := by simp [Part.phaseAt, hpl]
  rcases hj with rfl | rfl
  · simpa [clearBelow, hph] using hb
  · have : i + 1 ≠ c.ovenCount := by omega
    simpa [clearAbove, hph, this] using ha

theorem panelIn_keeps {p : Part} {c : Configuration} (hc : p.cycle.config = some c) (i : Nat) : p.Keeps (panelIn c i p) := by
  unfold panelIn
  split
  · next h =>
    obtain ⟨hout, hb, ha⟩ := h
    exact .phase (f := fun _ => .empty) (cycle_setPhase ..) (by simp)
      (fun o ho _ => by rw [phaseAt_some hout ho]; decide)
      fun _ hs _ _ => .inr fun j u hj hu => neighbours_clear hc hs hb ha j u hj hu
  · exact .refl _

/-- A phase set by age, at an oven outside the push. -/
theorem setByAge_keeps {p : Part} {i : Nat} (c : Configuration)
    (h : ∀ o, p.cycle.ovens[i]? = some o → o.kept.phase ≠ .pushing) : p.Keeps (setByAge c i p) := by
  refine .phase (f := fun o => Claims.byAge c o.kept) (cycle_setByAge c i p) (fun o => ?_) (fun o ho _ => h o ho)
    fun o _ _ opens => ?_
  · rcases Claims.byAge_cases c o.kept with e | e <;> simp [e]
  · rcases Claims.byAge_cases c o.kept with e | e <;> simp [e, Phase.isOpen] at opens

/-- A change of an oven's age and target, within their ranges. -/
theorem modifyKept_keeps (p : Part) (i : Nat) (f : Retained → Retained) (hph : ∀ r, (f r).phase = r.phase)
    (hr : ∀ r, r.InRange → (f r).InRange) : p.Keeps (p.modifyOven i fun o => { o with kept := f o.kept }) :=
  .record (cycle_modifyOven p i _ (fun _ => rfl) fun _ => rfl) (fun _ => rfl) (fun o h => hr o.kept h) (fun o => hph o.kept)
    fun o _ h => ⟨fun k => by rw [hph]; exact h.inFlight k, fun k => by rw [hph]; exact h.chpPending k,
      fun k => by rw [hph]; exact h.chargeLimit k⟩

theorem modifyKept_oven {p : Part} {i : Nat} {pl : Place} (h : p.places[i]? = some pl) (f : Retained → Retained) {o : Oven}
    (ho : (p.modifyOven i fun o => { o with kept := f o.kept }).cycle.ovens[i]? = some o) : o.kept = f pl.oven.kept := by
  obtain ⟨pl', hpl', rfl⟩ := cycle_oven_some.mp ho
  rw [((Part.shows_self h).modifyOven fun o => { o with kept := f o.kept }).place] at hpl'
  cases hpl'
  rfl

theorem panelTarget_keeps (value : Word16) (c : Configuration) (i : Nat) (p : Part) : p.Keeps (panelTarget value c i p) := by
  unfold panelTarget
  split
  · exact .refl _
  · next pl hpl =>
    have target : p.Keeps (p.modifyOven i fun o => { o with kept := { o.kept with target := clampTarget value.toNat } }) :=
      modifyKept_keeps p i (fun r => { r with target := clampTarget value.toNat }) (fun _ => rfl) fun r hr => by
        refine ⟨hr.1, ?_⟩
        simp only [clampTarget]
        omega
    refine .trans ?_ (Part.Keeps.of_eq (cycle_evalOverdue ..))
    split
    · next hages =>
      refine target.trans (setByAge_keeps c fun o ho => ?_)
      rw [modifyKept_oven hpl (fun r => { r with target := clampTarget value.toNat }) ho]
      intro e
      have : pl.oven.kept.phase = .pushing := e
      simp [this, Phase.ages] at hages
    · exact target

theorem panelDeclare_keeps (value : Word16) (phase : Byte) (c : Configuration) (i : Nat) (p : Part) :
    p.Keeps (panelDeclare value phase c i p) := by
  unfold panelDeclare
  split
  · next hun =>
    split
    · unfold declareCoking
      have aged : p.Keeps (p.modifyOven i fun o => { o with kept := { o.kept with age := min maxAge value.toNat } }) :=
        modifyKept_keeps p i (fun r => { r with age := min maxAge value.toNat }) (fun _ => rfl) fun r hr =>
          ⟨Nat.min_le_left .., hr.2⟩
      refine (aged.trans (setByAge_keeps c fun o ho => ?_)).trans (Part.Keeps.of_eq (cycle_evalOverdue ..))
      cases hpl : p.places[i]? with
      | none => simp [Part.phaseAt, hpl] at hun
      | some pl =>
        have was : pl.oven.kept.phase = .unknown := by simpa [Part.phaseAt, hpl] using hun
        rw [modifyKept_oven hpl (fun r => { r with age := min maxAge value.toNat }) ho]
        exact fun e => by simp [was] at e
    · exact takeOut_keeps c hun (by decide)
    · exact .refl _
  · exact .refl _

theorem Retained.older_phase (r : Retained) : r.older.phase = r.phase := by
  unfold Retained.older; split <;> rfl

theorem Retained.older_inRange {r : Retained} (h : r.InRange) : r.older.InRange := by
  unfold Retained.older
  split
  · exact ⟨Nat.min_le_left .., h.2⟩
  · exact h

theorem minuteAt_keeps (c : Configuration) (p : Part) (i : Nat) : p.Keeps (minuteAt c p i) := by
  unfold minuteAt
  split
  · exact .refl _
  · next pl hpl =>
    have aged : p.Keeps (p.modifyOven i fun o => { o with kept := o.kept.older }) :=
      modifyKept_keeps p i Retained.older Retained.older_phase fun _ => Retained.older_inRange
    refine .trans ?_ (Part.Keeps.of_eq (cycle_evalOverdue ..))
    split
    · next hcoking =>
      refine aged.trans (Part.Keeps.phase (f := fun _ => .ready) (cycle_setPhase ..) (by simp) (fun o ho _ => ?_)
        fun _ _ _ opens => by simp [Phase.isOpen] at opens)
      rw [modifyKept_oven hpl Retained.older ho, Retained.older_phase, hcoking.1]
      decide
    · exact aged

theorem minute_keeps (p : Part) : p.Keeps (minute p) := by
  unfold minute
  split
  · next hc =>
    have older (r : Retained) : r.older.phase = r.phase := Retained.older_phase r
    refine ⟨fun hs => ⟨hs.unloaded, hs.config, hs.length, hs.number⟩, fun _ ha => ⟨ha.ovens, fun r hr => ?_⟩,
      fun _ hp => ⟨hp.neighbours, ?_, hp.push, hp.pushLocal, hp.flags⟩⟩
    · obtain ⟨r', hr', rfl⟩ := List.mem_map.mp hr
      exact Retained.older_inRange (ha.copy r' hr')
    · have phases : RetainedDomain.phases { p.retained with records := p.retained.records.map (·.older) }
          = p.retained.phases := by simp [RetainedDomain.phases, older]
      exact (congrArg noOpenNeighbours phases).trans hp.copy
  · next c _ => exact Part.foldl_keeps (minuteAt_keeps c) _ p

/-! ## The charge protocol keeps the promises -/

theorem chargeAsk_keeps {c : Configuration} {p : Part} (hc : p.cycle.config = some c) (i : Nat) :
    p.Keeps (chargeAsk c i p) := by
  unfold chargeAsk
  split
  · exact .refl _
  · next pl hpl =>
    split
    · exact .refl _
    · split
      · exact .refl _
      · next hempty =>
        split
        · exact .refl _
        · have inFlight : p.Keeps (p.modifyOven i fun o => { o with inFlight := true }) :=
            .record (cycle_modifyOven p i _ (fun _ => rfl) fun _ => rfl) (fun _ => rfl) (fun _ h => h) (fun _ => rfl)
              fun o ho h => ⟨fun _ => by
                obtain ⟨pl', hpl', rfl⟩ := cycle_oven_some.mp ho
                cases hpl.symm.trans hpl'
                exact not_not.mp hempty, h.chpPending, h.chargeLimit⟩
          refine inFlight.trans ?_
          unfold askAspirate
          split
          · exact .refl _
          · exact tellOfftake_keeps (p := p.modifyOven i _) hc i _ _

theorem chargeEnd_keeps (c : Configuration) (i : Nat) (p : Part) : p.Keeps (chargeEnd c i p) := by
  unfold chargeEnd
  split
  · next hch =>
    have aged : p.Keeps (p.modifyOven i fun o => { o with kept := { o.kept with age := 0 } }) :=
      modifyKept_keeps p i (fun r => { r with age := 0 }) (fun _ => rfl) fun r hr => ⟨Nat.zero_le _, hr.2⟩
    refine aged.trans (Part.Keeps.phase (f := fun _ => .coking) (cycle_setPhase ..) (by simp) (fun o ho _ => ?_)
      fun _ _ _ opens => by simp [Phase.isOpen] at opens)
    cases hpl : p.places[i]? with
    | none => simp [Part.phaseAt, hpl] at hch
    | some pl =>
      have was : pl.oven.kept.phase = .charging := by simpa [Part.phaseAt, hpl] using hch
      rw [modifyKept_oven hpl (fun r => { r with age := 0 }) ho]
      exact fun e => by simp [was] at e
  · exact .refl _

theorem chargeLimit_keeps (c : Configuration) (i : Nat) (p : Part) : p.Keeps (chargeLimit c i p) := by
  unfold chargeLimit
  split
  · exact .refl _
  · split
    · have stopped : p.Keeps (p.modifyOven i fun o => { o with chargeLimit := .stopped }) :=
        .record (cycle_modifyOven p i _ (fun _ => rfl) fun _ => rfl) (fun _ => rfl) (fun _ h => h) (fun _ => rfl)
          fun _ _ h => ⟨h.inFlight, h.chpPending, fun k => by simp [Timer.active] at k⟩
      exact stopped.trans (Part.Keeps.of_eq (cycle_raise ..))
    · exact .refl _

theorem reofferChp_keeps (p : Part) (i : Nat) : p.Keeps (reofferChp p i) := by
  unfold reofferChp
  split
  · exact .refl _
  · next pl _ =>
    dsimp only
    split
    · split
      · exact .record (i := i) (cycle_modifyOven (p.offer .chp (.oven pl.oven.number) [byteOf pl.oven.number]) i
          (fun o => { o with chpPending := false }) (fun _ => rfl) fun _ => rfl) (fun _ => rfl)
          (fun _ h => h) (fun _ => rfl) fun _ _ h => ⟨h.inFlight, nofun, h.chargeLimit⟩
      · exact .refl _
    · exact .refl _

theorem reofferPdn_cycle (p : Part) (e : PendingPdn) : (reofferPdn p e).cycle = p.cycle := by
  unfold reofferPdn
  split <;> rfl

theorem tellRemoval_keeps (p : Part) : p.Keeps (tellRemoval p) := by
  have orders : p.Keeps (qouOfferHead p) := .of_eq (OrdersOnly.offerHead p).cycle_eq
  have charges : (qouOfferHead p).Keeps (reofferChps (qouOfferHead p)) := Part.foldl_keeps reofferChp_keeps _ _
  exact (orders.trans charges).trans (Part.foldl_keeps (fun p e => .of_eq (reofferPdn_cycle p e)) _ _)

end Sys2Proof.Machine

namespace Sys2Proof.Machine

open Sys2Proof

/-! ## The start and the stop keep the promises -/

theorem isStationNumber_iff (n : Nat) : isStationNumber n = true ↔ 1 ≤ n ∧ n ≤ 63 := by simp [isStationNumber]

/-- What a load accepts is in range (R147). -/
theorem loadBlock_inRange {acked : Bool} {block : List Byte} {c : Configuration} (h : loadBlock acked block = some c) :
    configInRange c := by
  unfold loadBlock at h
  split at h
  · next hb =>
    obtain ⟨-, -, -, -, hs⟩ := hb
    cases h
    simp only [structurePasses, Bool.and_eq_true, decide_eq_true_eq, isStationNumber_iff] at hs
    obtain ⟨⟨⟨⟨⟨⟨⟨⟨⟨station, ovens⟩, first⟩, count⟩, -⟩, -⟩, -⟩, -⟩, -⟩, band⟩ := hs
    have target : 600 ≤ (parseBlock block).targetDefault ∧ (parseBlock block).targetDefault ≤ 2400 := by
      simp only [parseBlock, clampNat]; omega
    have uMax : (parseBlock block).uMax ≤ 1000 := by simp only [parseBlock, clampNat]; omega
    have uFail : (parseBlock block).uFail ≤ 1000 := by simp only [parseBlock, clampNat]; omega
    have quench : 30 ≤ (parseBlock block).quenchTime ∧ (parseBlock block).quenchTime ≤ 180 := by
      simp only [parseBlock, clampNat]; omega
    exact ⟨station.1, station.2, ovens.1, ovens.2, first.1, count.1, count.2.1, count.2.2, target.1, target.2, band, uMax,
      uFail, quench.1, quench.2⟩
  · cases h

/-- The retained record a local oven starts with, initialised or restored (R19). -/
def startKept (c : Configuration) (r : RetainedDomain) (i : Nat) : Retained :=
  if isWarm c r then (r.records.getD i (Retained.cold c)).restored c else Retained.cold c

theorem startPlace_oven (c : Configuration) (r : RetainedDomain) (inputs : List PlaceInputs) (i : Nat) :
    (startPlace c r inputs i).oven.silent = { number := c.firstOven + i, kept := startKept c r i, alarms := 0
                                              inFlight := false, chpPending := false, chargeLimit := .stopped } := by
  unfold startPlace startKept
  dsimp only
  split <;> rfl

theorem Retained.restored_age (c : Configuration) (r : Retained) :
    (r.restored c).age = r.age ∧ (r.restored c).target = r.target := by
  unfold Retained.restored
  split <;> exact ⟨rfl, rfl⟩

/-- A restored oven is open only when EMPTY, and none is PUSHING. -/
theorem Retained.restored_phase (c : Configuration) (r : Retained) :
    ((r.restored c).phase.isOpen = true → r.phase = .empty) ∧ (r.restored c).phase ≠ .pushing := by
  unfold Retained.restored
  split
  case h_1 => simp [Phase.isOpen]
  case h_2 => simp [Phase.isOpen]
  case h_3 => split <;> simp [Phase.isOpen]
  case h_4 => split <;> simp [Phase.isOpen]
  case h_5 h => simp [h, Phase.isOpen]
  case h_6 h => simp [h]
  case h_7 h => simp [h, Phase.isOpen]

theorem Retained.cold_inRange {c : Configuration} (h : configInRange c) : (Retained.cold c).InRange := by
  obtain ⟨-, -, -, -, -, -, -, -, low, high, -⟩ := h
  exact ⟨Nat.zero_le _, low, high⟩

theorem startKept_inRange {c : Configuration} (hc : configInRange c) {r : RetainedDomain}
    (hr : ∀ x ∈ r.records, x.InRange) (i : Nat) : (startKept c r i).InRange := by
  unfold startKept
  split
  · obtain ⟨ha, ht⟩ := Retained.restored_age c (r.records.getD i (Retained.cold c))
    have inRange : (r.records.getD i (Retained.cold c)).InRange := by
      rw [List.getD_eq_getElem?_getD]
      cases h : r.records[i]? with
      | none => exact Retained.cold_inRange hc
      | some x => exact hr x (List.mem_of_getElem? h)
    unfold Retained.InRange
    rw [ha, ht]
    exact inRange
  · exact Retained.cold_inRange hc

theorem startKept_open {c : Configuration} {r : RetainedDomain} {i : Nat} (h : (startKept c r i).phase.isOpen = true) :
    r.phases[i]? = some .empty := by
  unfold startKept at h
  split at h
  · have was := (Retained.restored_phase c _).1 h
    rw [List.getD_eq_getElem?_getD] at was
    cases hr : r.records[i]? with
    | none => simp [hr, Retained.cold] at was
    | some x =>
      rw [hr] at was
      have was' : x.phase = .empty := was
      simp [RetainedDomain.phases, hr, was']
  · simp [Retained.cold, Phase.isOpen] at h

theorem startKept_not_pushing (c : Configuration) (r : RetainedDomain) (i : Nat) : (startKept c r i).phase ≠ .pushing := by
  unfold startKept
  split
  · exact (Retained.restored_phase c _).2
  · simp [Retained.cold]

theorem startPart_oven {c : Configuration} {low : Bool} {p : Part} {i : Nat} {o : Oven}
    (h : (startPart c low p).cycle.ovens[i]? = some o) :
    i < c.ovenCount ∧ o = { number := c.firstOven + i, kept := startKept c p.retained i, alarms := 0
                            inFlight := false, chpPending := false, chargeLimit := .stopped } := by
  obtain ⟨pl, hpl, rfl⟩ := cycle_oven_some.mp h
  have hpl' : ((List.range c.ovenCount).map (startPlace c p.retained (inputsAtLoad c p.fls.inputs)))[i]? = some pl := hpl
  rw [List.getElem?_map] at hpl'
  obtain ⟨j, hj, rfl⟩ := Option.map_eq_some_iff.mp hpl'
  obtain ⟨hlt, hij⟩ := List.getElem?_eq_some_iff.mp hj
  rw [List.getElem_range] at hij
  subst hij
  exact ⟨by simpa using hlt, startPlace_oven ..⟩

theorem startPart_keeps {c : Configuration} (hc : configInRange c) (low : Bool) (p : Part) :
    p.Keeps (startPart c low p) := by
  have config : (startPart c low p).cycle.config = some c := rfl
  have config_eq {c' : Configuration} (h : (startPart c low p).cycle.config = some c') : c' = c :=
    (Option.some.inj (config.symm.trans h)).symm
  refine ⟨fun _ => ⟨fun h => by simp [config] at h, fun c' h => config_eq h ▸ hc, fun c' h => ?_, fun c' h i o ho => ?_⟩,
    fun _ ha => ⟨fun i o ho => ?_, fun r hr => by cases hr⟩, fun _ hp => ⟨fun i o u ho hu opened => ?_, rfl, fun i o ho => ?_,
      fun n hn => by simp [startPart, Part.cycle, Psq.start] at hn, fun i o ho => ?_⟩⟩
  · rw [config_eq h]
    simp [Part.cycle, startPart]
  · rw [config_eq h, (startPart_oven ho).2]
  · rw [(startPart_oven ho).2]
    exact startKept_inRange hc ha.copy i
  · rw [(startPart_oven ho).2] at opened
    rw [(startPart_oven hu).2]
    refine Bool.eq_false_iff.mpr fun opens => ?_
    have := (noOpenNeighbours_iff _).mp hp.copy i _ _ (startKept_open opened) (startKept_open opens) rfl
    simp [Phase.isOpen] at this
  · rw [(startPart_oven ho).2]
    refine iff_of_false (startKept_not_pushing c p.retained i) ?_
    simp [startPart, Part.cycle, Psq.start]
  · rw [(startPart_oven ho).2]
    exact ⟨nofun, nofun, fun h => by simp [Timer.active] at h⟩

/-- The part without records, its copy holding what the records held. -/
theorem stopped_keeps (p : Part) (relay : Bool) : p.Keeps (p.stopped relay) := by
  have ovens : (p.stopped relay).cycle.ovens = [] := rfl
  have config : (p.stopped relay).cycle.config = none := rfl
  have push : (p.stopped relay).cycle.pushOven = none := rfl
  have none_here (i : Nat) (o : Oven) : (p.stopped relay).cycle.ovens[i]? ≠ some o := by simp [ovens]
  refine ⟨fun _ => ⟨fun _ => ovens, fun c h => by simp [config] at h, fun c h => by simp [config] at h,
    fun c h => by simp [config] at h⟩, fun _ ha => ⟨fun i o ho => absurd ho (none_here i o), fun r hr => ?_⟩,
    fun _ hp => ⟨fun i o u ho => absurd ho (none_here i o), ?_, fun i o ho => absurd ho (none_here i o),
      fun n hn => by simp [push] at hn, fun i o ho => absurd ho (none_here i o)⟩⟩
  · have hr' : r ∈ p.retainedCopy.records := hr
    unfold Part.retainedCopy at hr'
    split at hr'
    · exact ha.copy r hr'
    · obtain ⟨pl, hpl, rfl⟩ := List.mem_map.mp hr'
      obtain ⟨i, hi⟩ := List.getElem?_of_mem hpl
      exact ha.ovens i pl.oven.silent (cycle_oven_some.mpr ⟨pl, hi, rfl⟩)
  · change noOpenNeighbours p.retainedCopy.phases = true
    unfold Part.retainedCopy
    split
    · exact hp.copy
    · refine (noOpenNeighbours_iff _).mpr fun i a b ha hb => ?_
      simp only [RetainedDomain.phases, List.map_map, List.getElem?_map, Option.map_eq_some_iff] at ha hb
      obtain ⟨pl, hpl, rfl⟩ := ha
      obtain ⟨pl', hpl', rfl⟩ := hb
      exact hp.neighbours i pl.oven.silent pl'.oven.silent (cycle_oven_some.mpr ⟨pl, hpl, rfl⟩)
        (cycle_oven_some.mpr ⟨pl', hpl', rfl⟩)

theorem forget_keeps (p : Part) : p.Keeps p.forget :=
  ⟨fun hs => ⟨hs.unloaded, hs.config, hs.length, hs.number⟩,
    fun _ ha => ⟨ha.ovens, fun r hr => by cases hr⟩,
    fun _ hp => ⟨hp.neighbours, rfl, hp.push, hp.pushLocal, hp.flags⟩⟩

end Sys2Proof.Machine

namespace Sys2Proof.Machine

open Sys2Proof

/-! ## Every command keeps the promises -/

/-- Whatever next state an answer gives keeps the promises that `s` kept. -/
def State.AnswerKeeps (s : State) (r : Host.Outcome State Fault Refusal) : Prop :=
  ∀ t, r = .next t → s.part.Keeps t.part

theorem State.update_keeps {s : State} {f : Part → Part} (h : s.part.Keeps (f s.part)) : s.AnswerKeeps (s.update f) := by
  intro t e
  cases e
  exact h

theorem State.whenLoaded_keeps {s : State} {f : Configuration → Part → Part}
    (h : ∀ c, s.part.cycle.config = some c → s.part.Keeps (f c s.part)) : s.AnswerKeeps (s.whenLoaded f) := by
  refine State.update_keeps ?_
  cases hc : s.part.config with
  | none => exact .refl _
  | some c => exact h c hc

/-- A command that leaves the oven cycle as it is. -/
theorem State.whenLoaded_quiet {s : State} {f : Configuration → Part → Part} (h : ∀ c p, (f c p).cycle = p.cycle) :
    s.AnswerKeeps (s.whenLoaded f) := State.whenLoaded_keeps fun c _ => .of_eq (h c _)

theorem withLocal_keeps {c : Configuration} {n : Nat} {p : Part} {f : Nat → Part}
    (h : ∀ i, placeOf c n = some i → p.Keeps (f i)) : p.Keeps (withLocal c n p f) := by
  unfold withLocal
  split
  · exact .refl _
  · next i hi => exact h i hi

theorem ite_keeps {b : Prop} [Decidable b] {p q : Part} (h : p.Keeps q) : p.Keeps (if b then q else p) := by
  split
  · exact h
  · exact .refl _

theorem panelAt_keeps {h : Header} {oven : Byte} {f : Configuration → Nat → Part → Part} {s : State}
    (hf : ∀ c i, s.part.cycle.config = some c → s.part.Keeps (f c i s.part)) : s.AnswerKeeps (panelAt h oven f s) :=
  State.whenLoaded_keeps fun c hc => ite_keeps (withLocal_keeps fun i _ => hf c i hc)

theorem timer_keeps {n : Nat} {f : Configuration → Nat → Part → Part} {s : State}
    (hf : ∀ (c : Configuration) (i : Nat) (p : Part), p.cycle.config = some c → p.Keeps (f c i p)) :
    s.AnswerKeeps (s.whenLoaded fun c p => withLocal c n p fun i => f c i p) :=
  State.whenLoaded_keeps fun c hc => withLocal_keeps fun i _ => hf c i _ hc

/-! ### The bid round and the car orders -/

theorem startRound_cycle (key : BidKey) (p : Part) : (startRound key p).cycle = p.cycle := by
  unfold startRound
  dsimp only
  split <;> rfl

theorem evaluateRound_cycle (c : Configuration) (p : Part) : (evaluateRound c p).cycle = p.cycle := by
  unfold evaluateRound
  split
  · split
    · rfl
    · exact startRound_cycle _ p
  · rfl

theorem holdStation_cycle (c : Configuration) (a : StationAlarm) (on : Bool) (p : Part) :
    (holdStation c a on p).cycle = p.cycle := by
  cases on <;> rfl

theorem takeBid_cycle (c : Configuration) (r : Rival) (p : Part) : (takeBid c r p).cycle = p.cycle := by
  unfold takeBid
  split
  · rfl
  · split
    · rfl
    · split
      · unfold answerRival
        dsimp only
        split
        · split
          · rfl
          · split
            · exact startRound_cycle _ p
            · rfl
        · rfl
      · rfl
      · rfl

theorem decideRound_keeps {c : Configuration} {p : Part} (hc : p.cycle.config = some c) : p.Keeps (decideRound c p) := by
  unfold decideRound
  split
  · split
    · split
      · next hwon =>
        have hx : p.psq.context = none := by
          simp only [roundWon, Bool.and_eq_true] at hwon
          simpa using hwon.1.1.1.1
        exact takeWin_keeps (p := { p with bsu := p.bsu.win }) hc hx _
      · exact .refl _
    · exact .refl _
  · exact .refl _

theorem headLeaves_keeps {c : Configuration} {p : Part} (hc : p.cycle.config = some c) (head : Order) (left : List Order)
    (r : Outcome) : p.Keeps (headLeaves c head left r p) := by
  unfold headLeaves
  dsimp only
  split
  · exact (takeOutcome_keeps (p := { p with qou := { p.qou with orders := left } }) hc r).trans
      (Part.Keeps.of_eq (OrdersOnly.offerHead _).cycle_eq)
  · exact Part.Keeps.of_eq (OrdersOnly.offerHead _).cycle_eq

theorem carReply_keeps {c : Configuration} {p : Part} (hc : p.cycle.config = some c) (id verdict : Nat) :
    p.Keeps (carReply c id verdict p) := by
  unfold carReply
  split
  · split
    · unfold headReply
      split
      · split
        · split <;> exact .refl _
        · exact headLeaves_keeps hc ..
        · exact headLeaves_keeps hc ..
      · exact .refl _
    · exact .refl _
  · exact .refl _

theorem deadline_keeps {c : Configuration} {p : Part} (hc : p.cycle.config = some c) : p.Keeps (deadline c p) := by
  unfold deadline
  split
  · exact .refl _
  · split
    · unfold deadlineExpires
      dsimp only
      have alarmed (b : Bool) (q : Part) : (if b = true then raiseStation c .hotCar q else q).cycle = q.cycle := by
        cases b <;> rfl
      split
      · refine (Part.Keeps.of_eq ?_).trans (takeOutcome_keeps ?_ _)
        · exact alarmed ..
        · rw [alarmed]; exact hc
      · exact Part.Keeps.of_eq (alarmed ..)
    · exact .refl _

/-! ### The push -/

theorem pushAsk_cycle (c : Configuration) (i n : Nat) (p : Part) : (pushAsk c i n p).cycle = p.cycle := by
  unfold pushAsk
  split
  · rfl
  · split
    · unfold answerArmed
      split
      · exact cycle_modifyContext _ _ (by intro _; rfl)
      · split
        · exact cycle_modifyContext _ _ (by intro _; rfl)
        · rfl
    · rfl

theorem orderAtHome_cycle (c : Configuration) (kind : OrderKind) (p : Part) : (orderAtHome c kind p).cycle = p.cycle := by
  unfold orderAtHome
  split
  · exact (OrdersOnly.append kind p).cycle_eq
  · rfl

theorem offerPdn_cycle (e : PendingPdn) (p : Part) : (offerPdn e p).cycle = p.cycle := by
  unfold offerPdn
  split <;> rfl

theorem ramHome_keeps {c : Configuration} {p : Part} (hc : p.cycle.config = some c) {x : Context}
    (hx : p.psq.context = some x) {i : Nat} (hi : placeOf c x.oven = some i) (stroke : Nat) :
    p.Keeps (ramHome c i x stroke p) := by
  have ordered : (orderAtHome c .dump (orderAtHome c (.quench c.quenchTime)
      (offerPdn ⟨x.oven, stroke, x.unpermitted⟩ p))).cycle = p.cycle := by
    rw [orderAtHome_cycle, orderAtHome_cycle, offerPdn_cycle]
  have home : (setContext c i (some (x.home stroke)) (orderAtHome c .dump (orderAtHome c (.quench c.quenchTime)
      (offerPdn ⟨x.oven, stroke, x.unpermitted⟩ p)))).cycle = p.cycle := by
    rw [cycle_setContext, ordered]
    simp [OvenCycle.withPush, Part.cycle, hx, Context.home]
  refine (Part.Keeps.of_eq home).trans (closingDoorsTest_keeps c ?_)
  rw [home]
  exact pushAt_of_placeOf hc hx hi

theorem prepareLimit_keeps {c : Configuration} {p : Part} (hc : p.cycle.config = some c) : p.Keeps (prepareLimit c p) := by
  have marked : (modifyContext (fun x => { x with prepareLimit := .expired }) p).cycle = p.cycle :=
    cycle_modifyContext _ p fun _ => rfl
  unfold prepareLimit
  split
  · exact .refl _
  · split
    · refine (Part.Keeps.of_eq marked).trans (ite_keeps (abort_keeps ?_ _))
      rw [marked, hc]
    · exact .refl _

theorem armedLimit_keeps {c : Configuration} {p : Part} (hc : p.cycle.config = some c) : p.Keeps (armedLimit c p) := by
  unfold armedLimit
  split
  · exact .refl _
  · exact ite_keeps (abort_keeps hc _)

theorem panelAbort_keeps {c : Configuration} {p : Part} (hc : p.cycle.config = some c) (n : Nat) :
    p.Keeps (panelAbort c n p) := by
  unfold panelAbort
  split
  · exact .refl _
  · exact ite_keeps (abortIfOpen_keeps hc _ _)

theorem rmhLimit_cycle (c : Configuration) (p : Part) : (rmhLimit c p).cycle = p.cycle := by
  unfold rmhLimit withLocal
  split
  · rfl
  · split
    · split
      · rfl
      · exact (cycle_raise ..).trans (cycle_modifyContext _ p (by intro _; rfl))
    · rfl

theorem doorLimit_cycle (c : Configuration) (p : Part) : (doorLimit c p).cycle = p.cycle := by
  unfold doorLimit withLocal
  split
  · rfl
  · split
    · split
      · rfl
      · exact (cycle_raise ..).trans (cycle_modifyContext _ p (by intro _; rfl))
    · rfl

/-! ### Views and the line -/

theorem takeMst_cycle (c : Configuration) (station : Nat) (position activity load aligned owner : Byte) (p : Part) :
    (takeMst c station position activity load aligned owner p).cycle = p.cycle := by
  unfold takeMst
  split
  · split <;> rfl
  · split
    · split <;> rfl
    · split
      · split <;> rfl
      · rfl

theorem takeOvs_cycle (c : Configuration) (n : Nat) (phase : Phase) (age : Nat) (p : Part) :
    (takeOvs c n phase age p).cycle = p.cycle := by
  unfold takeOvs
  dsimp only
  split
  · rfl
  · split
    · rfl
    · split <;> rfl

theorem takePdn_cycle (c : Configuration) (n : Nat) (p : Part) : (takePdn c n p).cycle = p.cycle := by
  unfold takePdn
  split <;> rfl

theorem takeScs_cycle (station stage : Nat) (p : Part) : (takeScs station stage p).cycle = p.cycle := by
  unfold takeScs peerAdded
  dsimp only
  split
  · rfl
  · split
    · rfl
    · split
      · rfl
      · split <;> rfl

theorem heardBack_cycle (c : Configuration) (k : Kind) (sub : Subject) (p : Part) : (heardBack c k sub p).cycle = p.cycle := by
  unfold heardBack
  split
  · unfold bidHeardBack; split <;> rfl
  · unfold orderHeardBack
    split
    · rfl
    · split <;> rfl
  · rfl

theorem routeEcho_cycle (c : Configuration) (k : Kind) (sub : Subject) (p : Part) : (routeEcho c k sub p).cycle = p.cycle := by
  unfold routeEcho
  split
  · exact takePdn_cycle ..
  · rfl

theorem succeed_keeps (c : Configuration) (p : Part) : p.Keeps (succeed c p) := by
  unfold succeed
  split
  · exact .refl _
  · next a _ =>
    have heard : (heardBack c a.kind a.subject
        (removeStation c .lineSilent { p with bli := { p.bli.endAttempt with failed := 0 } })).cycle = p.cycle :=
      heardBack_cycle ..
    refine .trans ?_ (Part.Keeps.of_eq (routeEcho_cycle ..))
    dsimp only
    split
    · exact Part.Keeps.of_eq heard
    · exact (Part.Keeps.of_eq heard).trans (.trans (Part.Keeps.of_eq (by rfl)) (tellRemoval_keeps _))

theorem fail_keeps (c : Configuration) (p : Part) : p.Keeps (fail c p) := by
  unfold fail
  split
  · exact .refl _
  · dsimp only
    split
    · unfold enterSilence
      exact (Part.Keeps.of_eq (by rfl)).trans (Part.foldl_keeps (fun p _ => tellRemoval_keeps p) _ _)
    · exact .refl _

theorem beginAttempt_cycle (c : Configuration) (p : Part) : (beginAttempt c p).cycle = p.cycle := by
  unfold beginAttempt
  split
  · split <;> rfl
  · rfl

theorem loseContention_cycle (c : Configuration) (urgency station : Nat) (p : Part) :
    (loseContention c urgency station p).cycle = p.cycle := by
  unfold loseContention
  split
  · rfl
  · split <;> rfl

end Sys2Proof.Machine

namespace Sys2Proof.Machine

open Sys2Proof

/-! ### Samples -/

theorem countSample_cycle (c : Configuration) (i : Nat) (x : Int) (p : Part) : (countSample c i x p).cycle = p.cycle := by
  unfold countSample
  split
  · rfl
  · dsimp only
    split <;> simp

theorem timeSample_cycle (c : Configuration) (i : Nat) (x : Int) (p : Part) : (timeSample c i x p).cycle = p.cycle := by
  unfold timeSample
  split
  · rfl
  · dsimp only
    split <;> simp

theorem controlSample_cycle (c : Configuration) (i : Nat) (x : Int) (p : Part) :
    (controlSample c i x p).cycle = p.cycle := by
  unfold controlSample
  split
  · rfl
  · dsimp only
    split
    · simp
    · split <;> simp

theorem validSample_cycle (c : Configuration) (i code : Nat) (p : Part) : (validSample c i code p).cycle = p.cycle := by
  simp [validSample, countSample_cycle, timeSample_cycle, controlSample_cycle]

theorem invalidSample_cycle (c : Configuration) (i : Nat) (p : Part) : (invalidSample c i p).cycle = p.cycle := by
  unfold invalidSample countInvalidSample
  rw [cycle_permitPass]
  split
  · rfl
  · dsimp only
    split
    · split <;> simp
    · simp

theorem failRest_cycle (c : Configuration) (p : Part) : (failRest c p).cycle = p.cycle := by
  have all (places : List Nat) (p : Part) : (places.foldl (fun p i => invalidSample c i p) p).cycle = p.cycle := by
    induction places generalizing p with
    | nil => rfl
    | cons i rest ih => rw [List.foldl_cons, ih, invalidSample_cycle]
  exact all _ p

theorem endScan_cycle (c : Configuration) (early : Bool) (p : Part) : (endScan c early p).cycle = p.cycle := by
  unfold endScan
  dsimp only
  split
  · split <;> rfl
  · split <;> rfl

theorem nextPlace_cycle (c : Configuration) (p : Part) : (nextPlace c p).cycle = p.cycle := by
  unfold nextPlace
  split
  · rfl
  · exact endScan_cycle ..

theorem transactionDone_cycle (c : Configuration) (code : Nat) (p : Part) : (transactionDone c code p).cycle = p.cycle := by
  unfold transactionDone
  split
  · dsimp only
    rw [nextPlace_cycle]
    split
    · exact validSample_cycle ..
    · exact invalidSample_cycle ..
  · rfl

theorem sendStop_cycle (p : Part) : p.sendStop.cycle = p.cycle := rfl

theorem channelNack_cycle (c : Configuration) (p : Part) : (channelNack c p).cycle = p.cycle := by
  unfold channelNack
  split
  · rw [sendStop_cycle, nextPlace_cycle, invalidSample_cycle]
  · rfl

theorem addressFails_cycle (c : Configuration) (p : Part) : (addressFails c p).cycle = p.cycle := by
  unfold addressFails
  split
  · rw [sendStop_cycle, endScan_cycle, failRest_cycle]; rfl
  · rfl

theorem clockFails_cycle (c : Configuration) (p : Part) : (clockFails c p).cycle = p.cycle := by
  unfold clockFails
  split
  · rw [sendStop_cycle, endScan_cycle, failRest_cycle]
  · rfl

theorem quarterSecond_cycle (c : Configuration) (p : Part) : (roundRobinOvs c (startScan c p)).cycle = p.cycle := by
  have scan : (startScan c p).cycle = p.cycle := by
    unfold startScan
    split <;> rfl
  exact (cycle_offerOvs (startScan c p) (startScan c p).asr.roundRobin).trans scan

theorem compareMatch_cycle (i : Nat) (p : Part) : (compareMatch i p).cycle = p.cycle := by
  unfold compareMatch
  split
  · rfl
  · split <;> rfl

theorem millisecond_cycle (pins : Pins) (p : Part) : (millisecond pins p).cycle = p.cycle := by
  unfold millisecond
  split <;> rfl

theorem scsPeriod_cycle (c : Configuration) (p : Part) : (scsPeriod c p).cycle = p.cycle := by
  unfold scsPeriod
  split <;> rfl

theorem panelClear_cycle (c : Configuration) (n : Nat) (p : Part) : (panelClear c n p).cycle = p.cycle := by
  unfold panelClear withLocal clearOvenAlarms
  split
  · rfl
  · split
    · rfl
    · dsimp only
      split
      · rfl
      · exact cycle_setAlarms ..

/-! ### Switches and the timers they start -/

theorem offtakeSwitch_keeps {c : Configuration} {p : Part} (hc : p.cycle.config = some c) (i : Nat) (which : Confirmation)
    (level : Bool) : p.Keeps (offtakeSwitch c i which level p) := by
  unfold offtakeSwitch
  split
  · exact .refl _
  · dsimp only
    split <;> exact tellOfftake_keeps hc ..

theorem doorSwitch_keeps {c : Configuration} {p : Part} (hc : p.cycle.config = some c) (i : Nat) (input : SwitchInput)
    (level : Bool) : p.Keeps (doorSwitch c i input level p) := by
  unfold doorSwitch
  split
  · exact .refl _
  · dsimp only
    split
    · exact changeDoor_keeps hc ..
    · exact changeDoor_keeps hc ..
    · exact changeDoor_keeps hc ..
    · exact .refl _

theorem deliver_keeps {c : Configuration} {p : Part} (hc : p.cycle.config = some c) (i : Nat) (input : SwitchInput)
    (level : Bool) : p.Keeps (deliver c i input level p) := by
  unfold deliver
  split
  · exact offtakeSwitch_keeps hc ..
  · exact doorSwitch_keeps hc ..

theorem debounce_keeps (i : Nat) (input : SwitchInput) (p : Part) : p.Keeps (debounce i input p) := by
  unfold debounce
  split
  · exact .refl _
  · next x _ =>
    split
    · dsimp only
      split
      · next c _ level hc _ _ =>
        refine OvenCycle.Keeps.trans (Part.Keeps.of_eq ?_) (deliver_keeps ?_ i input level)
        · rfl
        · exact hc
      · exact .refl _
    · exact .refl _

theorem leakExpires_keeps {c : Configuration} {p : Part} (hc : p.cycle.config = some c) (side : Side) (i : Nat) :
    p.Keeps (leakExpires c side i p) := by
  unfold leakExpires
  split
  · exact .refl _
  · exact ite_keeps (changeDoor_keeps hc ..)

theorem clearExpires_keeps {c : Configuration} {p : Part} (hc : p.cycle.config = some c) (side : Side) (i : Nat) :
    p.Keeps (clearExpires c side i p) := by
  unfold clearExpires
  split
  · exact .refl _
  · exact ite_keeps (changeDoor_keeps hc ..)

theorem leakingSpellExpires_cycle (c : Configuration) (side : Side) (i : Nat) (p : Part) :
    (leakingSpellExpires c side i p).cycle = p.cycle := by
  unfold leakingSpellExpires
  split
  · rfl
  · dsimp only
    split <;> simp

theorem sealedSpellExpires_cycle (c : Configuration) (side : Side) (i : Nat) (p : Part) :
    (sealedSpellExpires c side i p).cycle = p.cycle := by
  unfold sealedSpellExpires
  split
  · rfl
  · dsimp only
    split <;> simp

theorem valveTimerExpires_keeps {c : Configuration} {p : Part} (hc : p.cycle.config = some c) (i : Nat) :
    p.Keeps (valveTimerExpires c i p) := by
  unfold valveTimerExpires
  split
  · exact .refl _
  · exact ite_keeps (tellOfftake_keeps hc ..)

theorem capTimerExpires_keeps {c : Configuration} {p : Part} (hc : p.cycle.config = some c) (i : Nat) :
    p.Keeps (capTimerExpires c i p) := by
  unfold capTimerExpires
  split
  · exact .refl _
  · exact ite_keeps (tellOfftake_keeps hc ..)

theorem highTimerExpires_cycle (c : Configuration) (i : Nat) (p : Part) : (highTimerExpires c i p).cycle = p.cycle := by
  unfold highTimerExpires
  split
  · rfl
  · split <;> simp

theorem aspirateHoldExpires_cycle (c : Configuration) (i : Nat) (p : Part) :
    (aspirateHoldExpires c i p).cycle = p.cycle := by
  unfold aspirateHoldExpires
  split
  · rfl
  · split <;> simp

/-- The expiry of a local oven's timer that leaves the oven cycle as it is. -/
theorem withLocal_cycle {c : Configuration} {n : Nat} {p : Part} {f : Nat → Part} (h : ∀ i, (f i).cycle = p.cycle) :
    (withLocal c n p f).cycle = p.cycle := by
  unfold withLocal
  split
  · rfl
  · exact h _

theorem ite_cycle {b : Prop} [Decidable b] {p q : Part} (h : q.cycle = p.cycle) : (if b then q else p).cycle = p.cycle := by
  split
  · exact h
  · rfl

/-! ### The load, the supplies and the reset line -/

theorem failLoad_keeps {p : Part} (hc : p.config = none) : p.Keeps (failLoad p) := by
  refine .of_eq ?_
  have config : (failLoad p).config = p.config := hc.symm
  simp only [Part.cycle, config]
  rfl

theorem beginLoad_keeps {p : Part} (hc : p.config = none) : p.Keeps (beginLoad p) := by
  refine .of_eq ?_
  have config : (beginLoad p).config = p.config := hc.symm
  simp only [Part.cycle, config]
  rfl

theorem config_of_reading {p : Part} (h : p.load = .reading) : p.config = none := by simp [Part.config, h]

theorem config_of_failed {p : Part} (h : p.load = .failed) : p.config = none := by simp [Part.config, h]

theorem loadDone_keeps (acked : Bool) (block : List Byte) (low : Bool) (p : Part) : p.Keeps (loadDone acked block low p) := by
  unfold loadDone
  split
  · next hr =>
    split
    · exact failLoad_keeps (config_of_reading hr)
    · next c hb =>
      exact (Part.Keeps.of_eq (by rfl)).trans (startPart_keeps (loadBlock_inRange hb) low (p.hearBackup low))
  · exact .refl _

theorem begin_keeps (p : Part) : p.Keeps p.begin :=
  (stopped_keeps p true).trans ((Part.Keeps.of_eq (by rfl)).trans
    (beginLoad_keeps (p := { p.stopped true with dividers := some 0 }) rfl))

theorem assertReset_keeps (p : Part) : p.Keeps (assertReset p) := by
  unfold assertReset
  split
  · exact .refl _
  · split
    · exact (stopped_keeps p true).trans (Part.Keeps.of_eq (by rfl))
    · exact .of_eq rfl

theorem releaseReset_keeps (p : Part) : p.Keeps (releaseReset p) := by
  unfold releaseReset
  split
  · split
    · exact (Part.Keeps.of_eq (by rfl)).trans (begin_keeps { p with resetHeld := false })
    · exact .of_eq rfl
  · exact .refl _

theorem applyMain_keeps (p : Part) : p.Keeps (applyMain p) := by
  unfold applyMain
  split
  · exact .refl _
  · split
    · exact (stopped_keeps p true).trans (Part.Keeps.of_eq (by rfl))
    · exact (Part.Keeps.of_eq (by rfl)).trans (begin_keeps { p with mainOn := true })

theorem loseMain_keeps (p : Part) : p.Keeps (loseMain p) := by
  unfold loseMain
  split
  · have off : p.Keeps { p.stopped false with mainOn := false } :=
      (stopped_keeps p false).trans (Part.Keeps.of_eq (by rfl))
    dsimp only
    split
    · exact off
    · exact off.trans (forget_keeps _)
  · exact .refl _

theorem loseBackup_keeps (p : Part) : p.Keeps (loseBackup p) := by
  unfold loseBackup
  dsimp only
  split
  · exact .of_eq rfl
  · exact (Part.Keeps.of_eq (by rfl)).trans (forget_keeps { p with backupOn := false })

theorem configLoadTimeout_keeps (p : Part) : p.Keeps (if p.load = .reading then failLoad p else p) := by
  split
  · next h => exact failLoad_keeps (config_of_reading h)
  · exact .refl _

theorem configRetry_keeps (p : Part) : p.Keeps (if p.load = .failed ∧ p.retry.active = true then beginLoad p else p) := by
  split
  · next h => exact beginLoad_keeps (config_of_failed h.1)
  · exact .refl _

theorem debounceExpiry_keeps (place : Nat) (input : SwitchInput) (p : Part) :
    p.Keeps (if place = 0 then p else debounce (place - 1) input p) := by
  split
  · exact .refl _
  · exact debounce_keeps ..

theorem compareMatchAt_cycle (place : Nat) (p : Part) :
    (if place = 0 then p else compareMatch (place - 1) p).cycle = p.cycle := by
  split
  · rfl
  · exact compareMatch_cycle ..

/-! ### Every command -/

theorem execRmh_keeps (h : Header) (oven stroke : Byte) (s : State) : s.AnswerKeeps (execRmh h oven stroke s) := by
  refine State.whenLoaded_keeps fun c hc => ite_keeps ?_
  split
  · exact .refl _
  · next x hx => exact ite_keeps (withLocal_keeps fun i hi => ramHome_keeps hc hx hi stroke.toNat)

theorem execOvs_keeps (h : Header) (oven : Byte) (stateWord lateness : Word16) (doors : Byte)
    (offtake pressure alarms : Word16) (s : State) :
    s.AnswerKeeps (execOvs h oven stateWord lateness doors offtake pressure alarms s) := by
  refine State.whenLoaded_quiet fun c p => ite_cycle ?_
  split
  · rfl
  · exact takeOvs_cycle ..

/-- Every command keeps the promises about places, ages and phases. -/
theorem exec_keeps (i : Instr) (s : State) : s.AnswerKeeps (exec i s) := by
  cases i with
  | minuteExpiry => exact State.update_keeps (minute_keeps _)
  | pnlHold h oven => exact panelAt_keeps fun _ i _ => setHold_keeps i true _
  | pnlRelease h oven => exact panelAt_keeps fun _ i _ => setHold_keeps i false _
  | pnlOut h oven => exact panelAt_keeps fun c i _ => panelOut_keeps c i _
  | pnlIn h oven => exact panelAt_keeps fun c i hc => panelIn_keeps hc i
  | pnlTarget h oven value => exact panelAt_keeps fun c i _ => panelTarget_keeps value c i _
  | pnlDeclare h oven value phase => exact panelAt_keeps fun c i _ => panelDeclare_keeps value phase c i _
  | pnlAbort h oven => exact State.whenLoaded_keeps fun c hc => ite_keeps (panelAbort_keeps hc _)
  | pnlClear h oven =>
    unfold exec execPnlClear
    exact State.whenLoaded_quiet fun c p => ite_cycle (panelClear_cycle ..)
  | cha h oven => exact State.whenLoaded_keeps fun c hc => ite_keeps (withLocal_keeps fun i _ => chargeAsk_keeps hc i)
  | che h oven => exact State.whenLoaded_keeps fun c hc => ite_keeps (withLocal_keeps fun i _ => chargeEnd_keeps c i _)
  | chargeLimitExpiry oven =>
    unfold exec execChargeLimitExpiry
    exact State.whenLoaded_keeps fun c hc => withLocal_keeps fun i _ => chargeLimit_keeps c i _
  | evaluationExpiry low =>
    unfold exec execEvaluationExpiry
    refine State.whenLoaded_quiet fun c p => (holdStation_cycle ..).trans ?_
    exact evaluateRound_cycle c p
  | bid h oven lateness =>
    unfold exec execBid
    exact State.whenLoaded_quiet fun c p => ite_cycle (takeBid_cycle ..)
  | windowExpiry => exact State.whenLoaded_keeps fun c hc => decideRound_keeps hc
  | holdOffExpiry =>
    unfold exec execHoldOffExpiry
    exact State.whenLoaded_quiet fun c p => rfl
  | deferralExpiry =>
    unfold exec execDeferralExpiry
    exact State.whenLoaded_quiet fun c p => ite_cycle rfl
  | pas h oven =>
    unfold exec execPas
    exact State.whenLoaded_quiet fun c p => ite_cycle (withLocal_cycle fun i => pushAsk_cycle ..)
  | rms h oven => exact State.whenLoaded_keeps fun c hc => ite_keeps (withLocal_keeps fun i hi => ramStarts_keeps hc hi)
  | rmh h oven stroke => exact execRmh_keeps h oven stroke s
  | prepareLimitExpiry => exact State.whenLoaded_keeps fun c hc => prepareLimit_keeps hc
  | armedLimitExpiry => exact State.whenLoaded_keeps fun c hc => armedLimit_keeps hc
  | permitTimerExpiry => exact State.whenLoaded_quiet fun c p => cycle_modifyContext _ p fun _ => rfl
  | rmhLimitExpiry => exact State.whenLoaded_quiet rmhLimit_cycle
  | doorLimitExpiry => exact State.whenLoaded_quiet doorLimit_cycle
  | debounceExpiry place input =>
    unfold exec execDebounceExpiry
    exact State.update_keeps (debounceExpiry_keeps place input _)
  | leakTimerExpiry oven side =>
    exact timer_keeps (f := fun c i p => leakExpires c side i p) fun c i p hc => leakExpires_keeps hc side i
  | clearTimerExpiry oven side =>
    exact timer_keeps (f := fun c i p => clearExpires c side i p) fun c i p hc => clearExpires_keeps hc side i
  | leakingSpellExpiry oven side =>
    unfold exec execLeakingSpellExpiry
    exact State.whenLoaded_quiet fun c p => withLocal_cycle fun i => leakingSpellExpires_cycle ..
  | sealedSpellExpiry oven side =>
    unfold exec execSealedSpellExpiry
    exact State.whenLoaded_quiet fun c p => withLocal_cycle fun i => sealedSpellExpires_cycle ..
  | valveMotionTimerExpiry oven => exact timer_keeps (f := valveTimerExpires) fun c i p hc => valveTimerExpires_keeps hc i
  | capMotionTimerExpiry oven => exact timer_keeps (f := capTimerExpires) fun c i p hc => capTimerExpires_keeps hc i
  | pressureHighTimerExpiry oven =>
    unfold exec execPressureHighTimerExpiry
    exact State.whenLoaded_quiet fun c p => withLocal_cycle fun i => highTimerExpires_cycle ..
  | aspirateHoldExpiry oven =>
    unfold exec execAspirateHoldExpiry
    exact State.whenLoaded_quiet fun c p => withLocal_cycle fun i => aspirateHoldExpires_cycle ..
  | quarterSecondExpiry => exact State.whenLoaded_quiet quarterSecond_cycle
  | transactionComplete first second => exact State.whenLoaded_quiet fun c p => transactionDone_cycle ..
  | channelByteNack => exact State.whenLoaded_quiet channelNack_cycle
  | addressNack => exact State.whenLoaded_quiet addressFails_cycle
  | clockHoldTimeout => exact State.whenLoaded_quiet clockFails_cycle
  | pwmPeriodEnd => exact State.update_keeps (.of_eq rfl)
  | qcr h id verdict reason => exact State.whenLoaded_keeps fun c hc => ite_keeps (carReply_keeps hc ..)
  | deadlineExpiry => exact State.whenLoaded_keeps fun c hc => deadline_keeps hc
  | mst h position activity load aligned owner =>
    unfold exec execMst
    exact State.whenLoaded_quiet fun c p => ite_cycle (takeMst_cycle ..)
  | machineViewFreshnessExpiry view =>
    unfold exec execMachineViewFreshnessExpiry
    exact State.whenLoaded_quiet fun c p => rfl
  | ovs h oven stateWord lateness doors offtake pressure alarms =>
    exact execOvs_keeps h oven stateWord lateness doors offtake pressure alarms s
  | neighbourViewFreshnessExpiry view =>
    unfold exec execNeighbourViewFreshnessExpiry
    exact State.whenLoaded_quiet fun c p => rfl
  | pdn h oven stroke unpermitted =>
    unfold exec execPdn
    exact State.whenLoaded_quiet fun c p => ite_cycle (takePdn_cycle ..)
  | scs h stage oven reason anchor count head alarms =>
    unfold exec execScs
    exact State.whenLoaded_quiet fun c p => ite_cycle (takeScs_cycle ..)
  | refreshTimerExpiry station =>
    unfold exec execRefreshTimerExpiry
    exact State.whenLoaded_quiet fun c p => rfl
  | settleTimerExpiry =>
    unfold exec execSettleTimerExpiry
    exact State.whenLoaded_quiet fun c p => ite_cycle rfl
  | lineIdleAttempt => exact State.whenLoaded_quiet beginAttempt_cycle
  | lostContention urgency station => exact State.whenLoaded_quiet fun c p => loseContention_cycle ..
  | attemptSucceeded => exact State.whenLoaded_keeps fun c _ => succeed_keeps c _
  | attemptFailed => exact State.whenLoaded_keeps fun c _ => fail_keeps c _
  | silentExpiry =>
    unfold exec execSilentExpiry
    exact State.whenLoaded_quiet fun c p => ite_cycle rfl
  | scsPeriodExpiry => exact State.whenLoaded_quiet scsPeriod_cycle
  | configLoadComplete acked block low => exact State.update_keeps (loadDone_keeps ..)
  | configLoadClockTimeout => exact State.update_keeps (configLoadTimeout_keeps _)
  | configRetryExpiry => exact State.update_keeps (configRetry_keeps _)
  | resetAsserted => exact State.update_keeps (assertReset_keeps _)
  | resetReleased => exact State.update_keeps (releaseReset_keeps _)
  | mainSupplyApplied => exact State.update_keeps (applyMain_keeps _)
  | mainSupplyLost => exact State.update_keeps (loseMain_keeps _)
  | backupSupplyLost => exact State.update_keeps (loseBackup_keeps _)
  | millisecondExpiry pins => exact State.update_keeps (.of_eq (millisecond_cycle pins _))
  | pwmCompareMatch place =>
    unfold exec execPwmCompareMatch
    exact State.update_keeps (.of_eq (compareMatchAt_cycle place _))

/-- So does every step. -/
theorem step_keeps (s : State) : s.AnswerKeeps (step s) := by
  unfold step
  split
  · intro t e
    cases e
    exact .refl _
  · next i rest _ => exact exec_keeps i { s with pending := rest }

/-- Settles O11, by the promises about places and ages that every command keeps. -/
theorem placesAndAgesStayInRange : Obligations.PlacesAndAgesStayInRange := by
  intro s t places next
  have keeps := step_keeps s t next
  rw [placesSound_iff] at places
  rw [placesSound_iff, agesSound_iff, agesSound_iff]
  exact ⟨keeps.places places, keeps.ages places⟩

/-- Settles O7, by the promises about phases that every command keeps. -/
theorem pushingIsTheContextOven : Obligations.PushingIsTheContextOven := by
  intro s t places phases next
  rw [placesSound_iff] at places
  rw [phasesSound_iff] at phases ⊢
  exact (step_keeps s t next).phases places phases

end Sys2Proof.Machine

/-! SUPPORT. The oven commands: the minute, the panel's and the charger's (R1 to R18), each settled by the rules of one place. -/

namespace Sys2Proof.Machine

open Sys2Proof

/-! ## Commands for a local oven -/

section
variable {s : State} {c : Configuration} {h : Header} {oven : Byte} {i : Nat} {pl : Place}

theorem State.HasOven.shows {n : Nat} (ho : s.HasOven c n i pl) : s.part.Shows i pl s.part.psq.context (s.part.level i) :=
  Part.shows_self ho.2.2.1

/-- A command that runs to the part as it was is taken without effect. -/
theorem State.Runs.ignores {k : Instr} {q : Part} (hr : s.Runs k q) (e : q = s.part) : s.Ignores k := by
  subst e
  exact hr

theorem State.Runs.congr {k : Instr} {q r : Part} (hr : s.Runs k q) (e : q = r) : s.Runs k r := by
  subst e
  exact hr

/-- A panel command for a local oven runs its meaning at the oven's place. -/
theorem panelAt_runs (hp : isFromPanel h c = true) (ho : s.HasOven c oven.toNat i pl) (f : Configuration → Nat → Part → Part) :
    panelAt h oven f s = .next { s with part := f c i s.part } := by
  obtain ⟨hc, hi, -, -⟩ := ho
  rw [panelAt, State.whenLoaded_some hc]
  simp only [hp, if_true, withLocal_some hi]

/-- A telegram of the charger's for a local oven runs its meaning at the oven's place. -/
theorem charger_runs (hf : isFrom h c c.chargerStation = true) (ho : s.HasOven c oven.toNat i pl)
    (f : Configuration → Nat → Part → Part) :
    (s.whenLoaded fun c p =>
        if isFrom h c c.chargerStation then withLocal c oven.toNat p fun i => f c i p else p)
      = .next { s with part := f c i s.part } := by
  obtain ⟨hc, hi, -, -⟩ := ho
  rw [State.whenLoaded_some hc]
  simp only [hf, if_true, withLocal_some hi]

/-- A timer of a local oven runs its meaning at the oven's place. -/
theorem ovenTimer_runs {n : Nat} (ho : s.HasOven c n i pl) (f : Configuration → Nat → Part → Part) :
    (s.whenLoaded fun c p => withLocal c n p fun i => f c i p) = .next { s with part := f c i s.part } := by
  obtain ⟨hc, hi, -, -⟩ := ho
  rw [State.whenLoaded_some hc]
  simp only [withLocal_some hi]

theorem State.HasOven.phaseAt {n : Nat} (ho : s.HasOven c n i pl) : s.part.phaseAt i = some pl.oven.kept.phase := by
  simp [Part.phaseAt, ho.2.2.1]

/-- The push is not of an oven just when its context's oven is another. -/
theorem State.NoPushOf.ne {n : Nat} (hn : s.NoPushOf n) : ∀ y, s.part.psq.context = some y → y.oven ≠ n := by
  intro y hy e
  have : isContextOven s.part n = true := (isContextOven_iff s.part n).mpr (by simp [Part.cycle, hy, e])
  exact absurd this (by simp [hn])

/-- The conditions of a permit fail for an oven with no push. -/
theorem State.NoPushOf.not_ready {n : Nat} (hn : s.NoPushOf n) {pl' : Place} (e : pl'.oven.number = n) :
    pl'.ready c s.part.psq.context = false :=
  Place.not_ready_of_no_push fun y hy => by rw [e]; exact hn.ne y hy

end

theorem overdueIsRight_iff (c : Configuration) (pl : Place) :
    Claims.overdueIsRight c pl ↔ hasOven pl.oven.alarms .overdue = pl.oven.kept.isOverdue c := by
  have overdue : pl.oven.kept.isOverdue c = true
      ↔ pl.oven.kept.phase = .ready ∧ (c.overdueAfter : Int) ≤ (pl.oven.kept.age : Int) - (pl.oven.kept.target : Int) := by
    rw [Retained.isOverdue, Bool.and_eq_true, beq_iff_eq, decide_eq_true_iff]
    rfl
  rw [Claims.overdueIsRight, ← overdue]
  exact Bool.eq_iff_iff.symm

theorem overdueIsRight_held (c : Configuration) (pl : Place) :
    Claims.overdueIsRight c (pl.held .overdue (pl.oven.kept.isOverdue c)) := by
  rw [overdueIsRight_iff]
  simp

theorem overdueIsRight_entered (c : Configuration) (x : Option Context) (l : SwitchInput → Bool) (new : Phase) (pl : Place) :
    Claims.overdueIsRight c (pl.entered c x l new) := by
  rw [overdueIsRight_iff, Place.entered_alarm c x l new pl _ (by decide) (by decide), Place.entered_kept, if_pos rfl]

/-! ## HOLD and RELEASE (R7) -/

theorem setHold_fls (i : Nat) (hold : Bool) (p : Part) : (setHold i hold p).fls = p.fls := by
  unfold setHold
  split
  · rfl
  · split
    · rfl
    · simp [Part.modifyOven]

theorem setHold_asr (i : Nat) (hold : Bool) (p : Part) : (setHold i hold p).asr = p.asr := by
  unfold setHold
  split
  · rfl
  · split
    · rfl
    · simp [Part.modifyOven]

/-- Settles O17, by the rule of the hold flag at a place. -/
theorem holdAndReleaseSetTheFlag : Obligations.HoldAndReleaseSetTheFlag := by
  intro s c h oven i pl b hp ho
  refine ⟨setHold i b s.part, ?_, (ho.shows.setHold b).place, .setHold i b s.part, setHold_fls .., setHold_asr ..⟩
  cases b
  · exact panelAt_runs hp ho fun _ i p => setHold i false p
  · exact panelAt_runs hp ho fun _ i p => setHold i true p

/-! ## OUT (R8) -/

/-- A place whose offtake has been asked for ISOLATE. -/
def Place.isolateAsked (c : Configuration) (x : Option Context) (l : SwitchInput → Bool) (pl : Place) : Place :=
  pl.settled c x l (pl.offtake.callMode c (offtakeLevelsOf l) .isolate)

section
variable (c : Configuration) (x : Option Context) (l : SwitchInput → Bool) (pl : Place)

@[simp] theorem Place.isolateAsked_kept : (pl.isolateAsked c x l).oven.kept = pl.oven.kept := Place.settled_kept ..
@[simp] theorem Place.isolateAsked_number : (pl.isolateAsked c x l).oven.number = pl.oven.number := Place.settled_number ..
@[simp] theorem Place.isolateAsked_inFlight : (pl.isolateAsked c x l).oven.inFlight = pl.oven.inFlight :=
  Place.settled_inFlight ..

theorem Place.isolateAsked_resealOnly : pl.oven.ResealOnly (pl.isolateAsked c x l).oven := Place.settled_resealOnly ..

theorem Place.isolateAsked_offtake : (pl.isolateAsked c x l).offtake.mode = .isolate
    ∧ (pl.isolateAsked c x l).offtake.next = none := by
  rw [Place.isolateAsked, Place.settled_offtake]
  obtain ⟨mode, next, -⟩ := Offtake.callIsolate c (offtakeLevelsOf l) pl.offtake
  exact ⟨mode, next⟩

theorem Place.DropsPermits.isolateAsked
    (h : ∀ pl' : Place, pl'.oven.number = pl.oven.number → pl'.ready c x = false) : pl.DropsPermits (pl.isolateAsked c x l) :=
  .trans (.of_doors_eq fun side => Place.withOfftake_door pl _ side) (.permits (h _ rfl))

end

/-- A request for ISOLATE at an oven that is not the context's, or with its push not in PREPARE. -/
theorem Part.Shows.askIsolate {p : Part} {i : Nat} {pl : Place} {x : Option Context} {l : SwitchInput → Bool}
    (h : p.Shows i pl x l) (c : Configuration) (hx : ∀ y, x = some y → y.oven ≠ pl.oven.number ∨ y.stage ≠ .prepare) :
    (askIsolate c i p).Shows i (pl.isolateAsked c x l) x l := by
  rw [askIsolate_eq h.place fun y hy => hx y (h.context ▸ hy), h.offtakeLevels]
  exact h.settle c _

theorem OvsOnly.askIsolate {c : Configuration} {i : Nat} {p : Part} {pl : Place} {x : Option Context} {l : SwitchInput → Bool}
    (h : p.Shows i pl x l) (hx : ∀ y, x = some y → y.oven ≠ pl.oven.number ∨ y.stage ≠ .prepare) :
    OvsOnly i p (askIsolate c i p) := by
  rw [askIsolate_eq h.place fun y hy => hx y (h.context ▸ hy)]
  exact .settle c i _ p

theorem OvenOnly.askIsolate {c : Configuration} {i : Nat} {p : Part} {pl : Place} {x : Option Context} {l : SwitchInput → Bool}
    (h : p.Shows i pl x l) (hx : ∀ y, x = some y → y.oven ≠ pl.oven.number ∨ y.stage ≠ .prepare) :
    OvenOnly i p (askIsolate c i p) := (OvsOnly.askIsolate h hx).frame

/-- A place taken out of the series: OUT, its hold flag cleared, its offtake toward ISOLATE. -/
def Place.takenOut (c : Configuration) (x : Option Context) (l : SwitchInput → Bool) (pl : Place) : Place :=
  ((pl.phaseSet c x l .out).withHold false).isolateAsked c x l

theorem Place.outHeld_number (c : Configuration) (x : Option Context) (l : SwitchInput → Bool) (pl : Place) :
    ((pl.phaseSet c x l .out).withHold false).oven.number = pl.oven.number := Place.phaseSet_number

section
variable {p : Part} {i : Nat} {pl : Place} {x : Option Context} {l : SwitchInput → Bool} (h : p.Shows i pl x l)
  (c : Configuration) (hx : ∀ y, x = some y → y.oven ≠ pl.oven.number)
include h hx

theorem Part.Shows.takeOut : (takeOut c i p).Shows i (pl.takenOut c x l) x l :=
  ((h.phaseSet c .out).setHold false).askIsolate c fun y hy => .inl (by rw [Place.outHeld_number]; exact hx y hy)

theorem OvenOnly.takeOut : OvenOnly i p (takeOut c i p) :=
  ((OvenOnly.setPhase c i .out p).trans (.setHold i false _)).trans
    (.askIsolate ((h.phaseSet c .out).setHold false) fun y hy => .inl (by rw [Place.outHeld_number]; exact hx y hy))

end

section
variable (c : Configuration) (x : Option Context) (l : SwitchInput → Bool) (pl : Place)

theorem Place.takenOut_kept : (pl.takenOut c x l).oven.kept = { pl.oven.kept with phase := .out, hold := false } := by
  simp [Place.takenOut, Place.withHold]

theorem Place.takenOut_inFlight (h : pl.oven.kept.phase = .empty) : (pl.takenOut c x l).oven.inFlight = false := by
  simp [Place.takenOut, Place.withHold, Place.phaseSet, h]

theorem Place.takenOut_dropsPermits (h : ∀ pl' : Place, pl'.oven.number = pl.oven.number → pl'.ready c x = false) :
    pl.DropsPermits (pl.takenOut c x l) := by
  have out : pl.DropsPermits (pl.phaseSet c x l .out) := .phaseSet (h _ (by simp))
  have held : (pl.phaseSet c x l .out).DropsPermits ((pl.phaseSet c x l .out).withHold false) :=
    .of_doors_eq fun side => by cases side <;> rfl
  exact (out.trans held).trans (.isolateAsked c x l _ fun pl' e => h pl' (e.trans (Place.outHeld_number c x l pl)))

end

/-- What OUT and DECLARE OUT make of a part and its oven's place (R8, R11). -/
theorem takeOut_runs {s : State} {c : Configuration} {n i : Nat} {pl : Place} (ho : s.HasOven c n i pl) (hn : s.NoPushOf n) :
    ∃ pl', (takeOut c i s.part).places[i]? = some pl'
      ∧ pl'.oven.kept = { pl.oven.kept with phase := .out, hold := false }
      ∧ pl'.offtake.mode = .isolate ∧ pl'.offtake.next = none
      ∧ (pl.oven.kept.phase = .empty → pl'.oven.inFlight = false)
      ∧ pl.KeepsDoors pl' ∧ OvenOnly i s.part (takeOut c i s.part) := by
  obtain ⟨-, -, hpl, rfl⟩ := ho
  have shown := Part.shows_self hpl
  obtain ⟨mode, next⟩ := Place.isolateAsked_offtake c s.part.psq.context (s.part.level i)
    ((pl.phaseSet c s.part.psq.context (s.part.level i) .out).withHold false)
  exact ⟨_, (shown.takeOut c hn.ne).place, Place.takenOut_kept .., mode, next, Place.takenOut_inFlight c _ _ pl,
    (Place.takenOut_dropsPermits c _ _ pl fun _ e => hn.not_ready e).keepsDoors, .takeOut shown c hn.ne⟩

/-- Settles O18, by the rule of an oven taken out. -/
theorem panelOutTakesTheOvenOut : Obligations.PanelOutTakesTheOvenOut := by
  intro s c h oven i pl hp ho
  have runs : s.Runs (.pnlOut h oven) (panelOut c i s.part) := panelAt_runs hp ho panelOut
  constructor
  · intro hph hn
    obtain ⟨pl', facts⟩ := takeOut_runs ho hn
    have taken : panelOut c i s.part = takeOut c i s.part := by
      rcases hph with e | e <;> simp [panelOut, ho.phaseAt, e]
    exact ⟨_, pl', taken ▸ runs, facts⟩
  · intro hempty hunknown
    have ignored : panelOut c i s.part = s.part := by
      unfold panelOut
      rw [ho.phaseAt]
      split
      · next e => exact absurd (Option.some.inj e) hempty
      · next e => exact absurd (Option.some.inj e) hunknown
      · rfl
    exact runs.ignores ignored

/-! ## IN (R9) -/

theorem isOpen_eq_false_iff (ph : Phase) : ph.isOpen = false ↔ ph ≠ .empty ∧ ph ≠ .charging ∧ ph ≠ .pushing := by
  cases ph <;> simp [Phase.isOpen]

/-- The record of a local oven stands at its place and nowhere else. -/
theorem PlacesSound.mem_iff {p : Part} (hs : p.PlacesSound) {c : Configuration} (hc : p.config = some c) (j : Nat) (x : Place) :
    x ∈ p.places ∧ x.oven.number = c.firstOven + j ↔ p.places[j]? = some x := by
  obtain ⟨-, -, number⟩ := hs.2 c (by simp [hc])
  have at_place (k : Nat) (y : Place) (hy : p.places[k]? = some y) : y.oven.number = c.firstOven + k := by
    have := number k (List.getElem?_eq_some_iff.mp hy).1
    simpa [hy] using this
  constructor
  · rintro ⟨mem, hx⟩
    obtain ⟨k, hk⟩ := List.getElem?_of_mem mem
    have : k = j := by have := at_place k x hk; omega
    rw [← this, hk]
  · exact fun hx => ⟨List.mem_of_getElem? hx, at_place j x hx⟩

/-- A local neighbour passes R9 just when its phase is none of EMPTY, CHARGING and PUSHING. -/
theorem localPasses_iff {p : Part} (hs : p.PlacesSound) {c : Configuration} (hc : p.config = some c) (j : Nat) :
    (∃ x ∈ p.places, x.oven.number = c.firstOven + j ∧
        (x.oven.kept.phase ≠ .empty ∧ x.oven.kept.phase ≠ .charging ∧ x.oven.kept.phase ≠ .pushing))
      ↔ ∃ ph, p.phaseAt j = some ph ∧ ph.isOpen = false := by
  simp only [Part.phaseAt, Option.map_eq_some_iff, ← isOpen_eq_false_iff]
  constructor
  · rintro ⟨x, mem, hx, closed⟩
    exact ⟨_, ⟨x, (PlacesSound.mem_iff hs hc j x).mp ⟨mem, hx⟩, rfl⟩, closed⟩
  · rintro ⟨_, ⟨x, hx, rfl⟩, closed⟩
    obtain ⟨mem, number⟩ := (PlacesSound.mem_iff hs hc j x).mpr hx
    exact ⟨x, mem, number, closed⟩

theorem viewClear_iff (v : Option NeighbourView) : viewClear v = true ↔ ∃ x, v = some x ∧ x.fresh.active = true
    ∧ (x.phase ≠ .empty ∧ x.phase ≠ .charging ∧ x.phase ≠ .pushing) := by
  cases v <;> simp [viewClear, ← isOpen_eq_false_iff]

theorem clearBelow_local {p : Part} {c : Configuration} (j : Nat) :
    clearBelow c p (j + 1) = true ↔ ∃ ph, p.phaseAt j = some ph ∧ ph.isOpen = false := by
  cases h : p.phaseAt j <;> simp [clearBelow, h]

theorem clearAbove_local {p : Part} {c : Configuration} {i : Nat} (hi : i + 1 ≠ c.ovenCount) :
    clearAbove c p i = true ↔ ∃ ph, p.phaseAt (i + 1) = some ph ∧ ph.isOpen = false := by
  cases h : p.phaseAt (i + 1) <;> simp [clearAbove, hi, h]

section
variable {s : State} {c : Configuration} {n i : Nat} {pl : Place} (ho : s.HasOven c n i pl) (hs : s.part.PlacesSound)
include ho hs

/-- The lower neighbour by oven numbers. -/
theorem clearBelow_iff : clearBelow c s.part i = true ↔ n = 1
    ∨ (n ≠ c.firstOven ∧ ∃ x ∈ s.part.places, x.oven.number = n - 1 ∧
        (x.oven.kept.phase ≠ .empty ∧ x.oven.kept.phase ≠ .charging ∧ x.oven.kept.phase ≠ .pushing))
    ∨ (n = c.firstOven ∧ ∃ x, s.part.lvt.lower = some x ∧ x.fresh.active = true
        ∧ (x.phase ≠ .empty ∧ x.phase ≠ .charging ∧ x.phase ≠ .pushing)) := by
  obtain ⟨hc, hi, -, -⟩ := ho
  obtain ⟨rfl, hlt⟩ := placeOf_eq hi
  obtain ⟨⟨-, -, -, -, first, -⟩, -⟩ := hs.2 c (by simp [hc])
  rw [← viewClear_iff]
  by_cases h0 : i = 0
  · subst h0
    by_cases h1 : c.firstOven = 1 <;> simp [clearBelow, h1]
  · obtain ⟨j, rfl⟩ := Nat.exists_eq_add_of_le' (Nat.pos_of_ne_zero h0)
    have below : c.firstOven + (j + 1) - 1 = c.firstOven + j := by omega
    rw [below, localPasses_iff hs hc j, ← clearBelow_local (c := c)]
    have h1 : c.firstOven + (j + 1) ≠ 1 := by omega
    simp [h1]

/-- The upper neighbour by oven numbers. -/
theorem clearAbove_iff : clearAbove c s.part i = true ↔ n = c.batteryOvens
    ∨ (n + 1 ≠ c.firstOven + c.ovenCount ∧ ∃ x ∈ s.part.places, x.oven.number = n + 1 ∧
        (x.oven.kept.phase ≠ .empty ∧ x.oven.kept.phase ≠ .charging ∧ x.oven.kept.phase ≠ .pushing))
    ∨ (n + 1 = c.firstOven + c.ovenCount ∧ ∃ x, s.part.lvt.upper = some x ∧ x.fresh.active = true
        ∧ (x.phase ≠ .empty ∧ x.phase ≠ .charging ∧ x.phase ≠ .pushing)) := by
  obtain ⟨hc, hi, -, -⟩ := ho
  obtain ⟨rfl, hlt⟩ := placeOf_eq hi
  obtain ⟨⟨-, -, -, -, -, -, -, last, -⟩, -⟩ := hs.2 c (by simp [hc])
  rw [← viewClear_iff, Nat.add_assoc, localPasses_iff hs hc (i + 1)]
  by_cases hend : i + 1 = c.ovenCount
  · by_cases hn : c.firstOven + i = c.batteryOvens <;> simp [clearAbove, hend, hn]
  · have hn : c.firstOven + i ≠ c.batteryOvens := by omega
    rw [← clearAbove_local hend]
    simp [hend, hn]

end

/-- Settles O19, by the neighbour test read in oven numbers. -/
theorem panelInTestsTheNeighbours : Obligations.PanelInTestsTheNeighbours := by
  intro s c h oven i pl hp ho hs closed localPasses viewPasses below above
  have runs : s.Runs (.pnlIn h oven) (panelIn c i s.part) := panelAt_runs hp ho panelIn
  have test : (s.part.phaseAt i = some .out ∧ clearBelow c s.part i = true ∧ clearAbove c s.part i = true)
      ↔ pl.oven.kept.phase = .out ∧ below ∧ above := by
    rw [ho.phaseAt, Option.some_inj, clearBelow_iff ho hs, clearAbove_iff ho hs]
  constructor
  · intro hout hb ha hn
    have taken : panelIn c i s.part = setPhase c i .empty s.part := if_pos (test.mpr ⟨hout, hb, ha⟩)
    have entered := ho.shows.setPhase c (new := .empty) (by simp [hout])
    refine ⟨_, _, taken ▸ runs, entered.place, Place.entered_kept .., ?_, .setPhase c i .empty s.part⟩
    exact (Place.DropsPermits.entered (hn.not_ready (by rw [Place.entered_number]; exact ho.2.2.2))).keepsDoors
  · intro hfails
    have ignored : panelIn c i s.part = s.part := if_neg (mt test.mp hfails)
    exact runs.ignores ignored

/-! ## TARGET (R10) -/

/-- A place with its oven's record changed. -/
def Place.withKept (pl : Place) (r : Retained) : Place := { pl with oven := { pl.oven with kept := r } }

theorem Phase.ages_iff (ph : Phase) : ph.ages = true ↔ ph = .coking ∨ ph = .ready := by cases ph <;> simp [Phase.ages]

theorem Part.Shows.withKept {p : Part} {i : Nat} {pl : Place} {x : Option Context} {l : SwitchInput → Bool}
    (h : p.Shows i pl x l) (f : Retained → Retained) :
    (p.modifyOven i fun o => { o with kept := f o.kept }).Shows i (pl.withKept (f pl.oven.kept)) x l := h.modifyOven _

theorem Part.Shows.setByAge {p : Part} {i : Nat} {pl : Place} {x : Option Context} {l : SwitchInput → Bool}
    (h : p.Shows i pl x l) (c : Configuration) :
    (setByAge c i p).Shows i (pl.phaseSet c x l (Claims.byAge c pl.oven.kept)) x l := by
  rw [setByAge_eq h.place]
  exact h.phaseSet c _

theorem Place.DropsPermits.withKept (pl : Place) (r : Retained) : pl.DropsPermits (pl.withKept r) :=
  .of_doors_eq fun side => by cases side <;> rfl

theorem Place.DropsPermits.held (pl : Place) (a : OvenAlarm) (on : Bool) : pl.DropsPermits (pl.held a on) :=
  .of_doors_eq fun side => Place.held_door pl a on side

/-- Settles O20, by the rules of the target, the phase and OVERDUE at a place. -/
theorem panelTargetSetsByAge : Obligations.PanelTargetSetsByAge := by
  intro s c h oven value i pl hp ho
  let target (r : Retained) : Retained := { r with target := max 600 (min 2400 value.toNat) }
  let set := s.part.modifyOven i fun o => { o with kept := target o.kept }
  have runs : s.Runs (.pnlTarget h oven value) (panelTarget value c i s.part) :=
    panelAt_runs hp ho (panelTarget value)
  have shown := ho.shows.withKept target
  have frame : OvenOnly i s.part set := .modifyOven i s.part _ fun _ => rfl
  have meaning : panelTarget value c i s.part
      = evalOverdue c i (if pl.oven.kept.phase.ages then setByAge c i set else set) := by
    simp only [panelTarget, ho.2.2.1]
    rfl
  by_cases hages : pl.oven.kept.phase.ages = true
  · rw [if_pos hages] at meaning
    have aged := shown.setByAge c
    refine ⟨_, _, meaning ▸ runs, (aged.evalOverdue c).place, ?_, overdueIsRight_held .., fun hn => ?_,
      (frame.trans (.setByAge c i set)).trans (.evalOverdue c i _)⟩
    · exact Place.phaseSet_kept.trans (if_pos ((Phase.ages_iff _).mp hages)).symm
    · have phased : (pl.withKept (target pl.oven.kept)).DropsPermits ((pl.withKept (target pl.oven.kept)).phaseSet c
          s.part.psq.context (s.part.level i) (Claims.byAge c (target pl.oven.kept))) :=
        .phaseSet (hn.not_ready (by rw [Place.entered_number]; exact ho.2.2.2))
      exact (Place.DropsPermits.trans (.trans (.withKept pl _) phased) (.held _ _ _)).keepsDoors
  · rw [if_neg hages] at meaning
    refine ⟨_, _, meaning ▸ runs, (shown.evalOverdue c).place, ?_, overdueIsRight_held .., fun hn => ?_,
      frame.trans (.evalOverdue c i _)⟩
    · exact (if_neg (mt (Phase.ages_iff _).mpr hages)).symm
    · exact (Place.DropsPermits.trans (.withKept pl _) (.held _ _ _)).keepsDoors

/-! ## DECLARE (R11) -/

theorem phaseOfCode_coking (b : Byte) : phaseOfCode b.toNat = some .coking ↔ b = 3 := by
  revert b; decide

theorem phaseOfCode_out (b : Byte) : phaseOfCode b.toNat = some .out ↔ b = 6 := by
  revert b; decide

/-- Settles O21, by the rules of the age, the phase and an oven taken out. -/
theorem panelDeclareFromUnknown : Obligations.PanelDeclareFromUnknown := by
  intro s c h oven value phase i pl hp ho
  have runs : s.Runs (.pnlDeclare h oven value phase) (panelDeclare value phase c i s.part) :=
    panelAt_runs hp ho (panelDeclare value phase)
  refine ⟨fun hunknown hphase hn => ?_, fun hunknown hphase hn => ?_, fun hother => ?_⟩
  · let age (r : Retained) : Retained := { r with age := min 4095 value.toNat }
    let set := s.part.modifyOven i fun o => { o with kept := age o.kept }
    have meaning : panelDeclare value phase c i s.part = evalOverdue c i (setByAge c i set) := by
      simp only [panelDeclare, ho.phaseAt, hunknown, if_true, (phaseOfCode_coking phase).mpr hphase]
      rfl
    have frame : OvenOnly i s.part set := .modifyOven i s.part _ fun _ => rfl
    have shown := ((ho.shows.withKept age).setByAge c).evalOverdue c
    refine ⟨_, _, meaning ▸ runs, shown.place, ?_, overdueIsRight_held .., ?_,
      (frame.trans (.setByAge c i set)).trans (.evalOverdue c i _)⟩
    · rw [Place.held_oven, Place.phaseSet_kept]
      rfl
    · have phased : (pl.withKept (age pl.oven.kept)).DropsPermits ((pl.withKept (age pl.oven.kept)).phaseSet c
          s.part.psq.context (s.part.level i) (Claims.byAge c (age pl.oven.kept))) :=
        .phaseSet (hn.not_ready (by rw [Place.entered_number]; exact ho.2.2.2))
      exact (Place.DropsPermits.trans (.trans (.withKept pl _) phased) (.held _ _ _)).keepsDoors
  · have meaning : panelDeclare value phase c i s.part = takeOut c i s.part := by
      simp only [panelDeclare, ho.phaseAt, hunknown, if_true, (phaseOfCode_out phase).mpr hphase]
    obtain ⟨pl', place, kept, mode, next, -, doors, frame⟩ := takeOut_runs ho hn
    exact ⟨_, pl', meaning ▸ runs, place, kept, mode, next, doors, frame⟩
  · have ignored : panelDeclare value phase c i s.part = s.part := by
      unfold panelDeclare
      split
      · next hunknown =>
        rw [ho.phaseAt, Option.some_inj] at hunknown
        split
        · next e => exact absurd ⟨hunknown, .inl ((phaseOfCode_coking phase).mp e)⟩ hother
        · next e => exact absurd ⟨hunknown, .inr ((phaseOfCode_out phase).mp e)⟩ hother
        · rfl
      · rfl
    exact runs.ignores ignored

end Sys2Proof.Machine

namespace Sys2Proof.Machine

open Sys2Proof

/-! ## The minute (R2 to R4, R145) -/

/-- Only the ovens' records, the valves' compare buffers, the transmit queue and the relay differ. -/
def OvensOnly (p q : Part) : Prop :=
  q = { p with
    places := q.places
    bli := { p.bli with queue := q.bli.queue, attempt := q.bli.attempt, offerClock := q.bli.offerClock }
    fls := { p.fls with channels := q.fls.channels }
    asr := { p.asr with relay := q.asr.relay } }

theorem OvensOnly.refl (p : Part) : OvensOnly p p := rfl

theorem OvensOnly.trans {p q r : Part} (h : OvensOnly p q) (k : OvensOnly q r) : OvensOnly p r := by
  unfold OvensOnly at *
  rw [k]
  rw [h]

theorem claims_older_eq (r : Retained) : r.older = Claims.older r := by
  have ages : (r.phase.ages = true) = (r.phase = .coking ∨ r.phase = .ready) := propext (Phase.ages_iff _)
  simp only [Retained.older, Claims.older, maxAge, ages]

/-- A minute older, with the threshold test (R2). -/
theorem claims_minuteOlder_eq (c : Configuration) (r : Retained) : Claims.minuteOlder c r
    = if r.phase = .coking ∧ r.older.atThreshold c = true then { r.older with phase := .ready } else r.older := by
  have target : r.older.target = r.target := by unfold Retained.older; split <;> rfl
  simp only [Claims.minuteOlder, Retained.atThreshold, decide_eq_true_eq, target, ← claims_older_eq]

/-- What the minute makes of one oven's place. -/
structure Place.MinuteOlder (c : Configuration) (pl pl' : Place) : Prop where
  kept : pl'.oven.kept = Claims.minuteOlder c pl.oven.kept
  overdue : Claims.overdueIsRight c pl'

theorem minuteAt_place {c : Configuration} {i : Nat} {p : Part} {pl : Place} (h : p.places[i]? = some pl) :
    ∃ pl', (minuteAt c p i).places[i]? = some pl' ∧ pl.MinuteOlder c pl' := by
  have aged := (Part.shows_self h).withKept Retained.older
  simp only [minuteAt, h]
  split
  · next hready =>
    have ready := aged.phaseSet c .ready
    refine ⟨_, (ready.evalOverdue c).place, ?_, overdueIsRight_held ..⟩
    rw [claims_minuteOlder_eq, if_pos hready]
    exact Place.phaseSet_kept
  · next hready =>
    refine ⟨_, (aged.evalOverdue c).place, ?_, overdueIsRight_held ..⟩
    rw [claims_minuteOlder_eq, if_neg hready]
    rfl

theorem OvenOnly.minuteAt (c : Configuration) (p : Part) (i : Nat) : OvenOnly i p (minuteAt c p i) := by
  unfold Machine.minuteAt
  split
  · exact .refl i p
  · have aged : OvenOnly i p (p.modifyOven i fun o => { o with kept := o.kept.older }) := .modifyOven i p _ fun _ => rfl
    refine OvenOnly.trans ?_ (.evalOverdue c i _)
    split
    · exact aged.trans (.setPhase c i .ready _)
    · exact aged

/-- The part after the minute of the first `k` ovens. -/
structure MinuteBelow (c : Configuration) (k : Nat) (p q : Part) : Prop where
  frame : OvensOnly p q
  done : ∀ i < k, ∀ pl, p.places[i]? = some pl → ∃ pl', q.places[i]? = some pl' ∧ pl.MinuteOlder c pl'
  later : ∀ i, k ≤ i → q.places[i]? = p.places[i]?

theorem minuteBelow_foldl (c : Configuration) (k : Nat) (p : Part) :
    MinuteBelow c k p ((List.range k).foldl (minuteAt c) p) := by
  induction k with
  | zero => exact ⟨.refl p, fun i hi => absurd hi (Nat.not_lt_zero i), fun _ _ => rfl⟩
  | succ k ih =>
    rw [List.range_succ, List.foldl_append]
    have step := OvenOnly.minuteAt c ((List.range k).foldl (minuteAt c) p) k
    refine ⟨ih.frame.trans step.rest, fun i hi pl hpl => ?_, fun i hi => ?_⟩
    · by_cases hik : i = k
      · subst hik
        exact minuteAt_place (by rw [ih.later i le_rfl]; exact hpl)
      · obtain ⟨pl', hpl', older⟩ := ih.done i (by omega) pl hpl
        exact ⟨pl', (step.places i hik).trans hpl', older⟩
    · exact (step.places i (by omega)).trans (ih.later i (by omega))

/-- Settles O16, by the minute of one oven after another. -/
theorem minuteAgesTheOvens : Obligations.MinuteAgesTheOvens := by
  intro s
  constructor
  · intro c hc
    obtain ⟨frame, done, later⟩ := minuteBelow_foldl c s.part.places.length s.part
    have runs : s.Runs .minuteExpiry ((List.range s.part.places.length).foldl (minuteAt c) s.part) := by
      change s.update minute = _
      rw [State.update_eq, minute, hc]
    generalize (List.range s.part.places.length).foldl (minuteAt c) s.part = q at frame done later runs
    have older (i : Nat) (pl' : Place) (hpl' : q.places[i]? = some pl') :
        ∃ pl, s.part.places[i]? = some pl ∧ pl.MinuteOlder c pl' := by
      cases hpl : s.part.places[i]? with
      | none =>
        rw [later i (by simpa using hpl), hpl] at hpl'
        cases hpl'
      | some pl =>
        obtain ⟨pl'', hpl'', minute⟩ := done i (List.getElem?_eq_some_iff.mp hpl).1 pl hpl
        cases hpl'.symm.trans hpl''
        exact ⟨pl, rfl, minute⟩
    refine ⟨q, runs, List.ext_getElem? fun i => ?_, fun pl' hpl' => ?_, ?_⟩
    · rw [List.getElem?_map, List.getElem?_map]
      cases hpl : s.part.places[i]? with
      | none => rw [later i (by simpa using hpl), hpl]; rfl
      | some pl =>
        obtain ⟨pl', hpl', minute⟩ := done i (List.getElem?_eq_some_iff.mp hpl).1 pl hpl
        rw [hpl', Option.map_some, Option.map_some, minute.kept]
    · obtain ⟨i, hi⟩ := List.getElem?_of_mem hpl'
      obtain ⟨pl, -, minute⟩ := older i pl' hi
      exact minute.overdue
    · unfold OvensOnly at frame
      rw [frame]
      exact ⟨rfl, rfl, rfl, rfl, rfl, rfl, rfl, rfl⟩
  · intro hc
    change s.update minute = _
    rw [State.update_eq, minute, hc, funext claims_older_eq]

/-! ## The charge ask (R12, R13) -/

theorem byteOf_toNat (b : Byte) : byteOf b.toNat = b := by simp [byteOf]

theorem charge_runs {s : State} {c : Configuration} {h : Header} {oven : Byte} (hc : s.part.config = some c)
    (hf : isFrom h c c.chargerStation = true) :
    exec (.cha h oven) s = .next { s with part := withLocal c oven.toNat s.part fun i => chargeAsk c i s.part } := by
  change s.whenLoaded _ = _
  rw [State.whenLoaded_some hc]
  simp only [hf, if_true]

/-- From ISOLATE toward no other mode, with cap-closed not confirmed, a call for ASPIRATE closes the cap (R86). -/
theorem Offtake.callAspirate_of_isolate {c : Configuration} {lv : OfftakeLevels} {o : Offtake} (hm : o.mode = .isolate)
    (hn : o.next = none) (hl : lv.capClosed = false) : o.callMode c lv .aspirate = o.closeCapToward .aspirate := by
  simp [Offtake.callMode, Offtake.towardMode, Offtake.startMode, Offtake.startAspirate, hm, hn, hl]

/-- A record moving toward ASPIRATE makes no report. -/
theorem reportOf_closeCap {o : Offtake} : reportOf o (o.closeCapToward .aspirate) = none := by
  unfold reportOf
  split <;> rfl

/-- An OCU change with no report is stored, with the permit decision. -/
theorem tellOfftake_unreported {c : Configuration} {i : Nat} {new : Offtake} {p : Part} {pl : Place}
    (h : p.places[i]? = some pl) (hr : reportOf pl.offtake new = none) : tellOfftake c i new none p = settleOfftake c i new p := by
  simp only [tellOfftake, h, hr]
  rfl

/-- Settles O23, by the tests in their order and the call for ASPIRATE. -/
theorem chargeAskIsTested : Obligations.ChargeAskIsTested := by
  intro s c h oven hf hc
  constructor
  · intro hlocal
    have runs : s.Runs (.cha h oven) _ := charge_runs hc hf
    exact runs.ignores (by simp [withLocal, hlocal])
  intro i pl ho refuse latched
  have runs : s.Runs (.cha h oven) (chargeAsk c i s.part) := charger_runs hf ho chargeAsk
  obtain ⟨-, -, hpl, hnumber⟩ := ho
  have refused (r : ChrReason) (e : chargeAsk c i s.part = offerChr pl.oven.number r s.part) :
      refuse (byteOf r.code) := by
    have payload : offerChr pl.oven.number r s.part
        = s.part.offer .chr (.oven oven.toNat) [oven, byteOf r.code] := by
      rw [offerChr, hnumber, byteOf_toNat]
    exact runs.congr (e.trans payload)
  have latched_iff : pl.bothLatched = true ↔ latched pl.doorP ∧ latched pl.doorC := by
    rw [bothLatched_iff, isLatched_iff, isLatched_iff]
  refine ⟨fun hbusy => refused .busy ?_, fun hfree hempty => refused .notEmpty ?_,
    fun hfree hempty hdoors => refused .doors ?_, fun hfree hempty hp hcd hn hm hnext hl => ?_⟩
  · simp [chargeAsk, hpl, hbusy]
  · simp [chargeAsk, hpl, hfree, hempty]
  · have : pl.bothLatched = false := Bool.eq_false_iff.mpr (mt latched_iff.mp hdoors)
    simp [chargeAsk, hpl, hfree, hempty, this]
  · let asked := s.part.modifyOven i fun o => { o with inFlight := true }
    have shown : asked.Shows i _ _ _ := (Part.shows_self hpl).modifyOven fun o => { o with inFlight := true }
    have asking : OvenOnly i s.part asked := .modifyOven i s.part _ fun _ => rfl
    have call : pl.offtake.callMode c (s.part.offtakeLevels i) .aspirate = pl.offtake.closeCapToward .aspirate :=
      Offtake.callAspirate_of_isolate hm hnext hl
    have meaning : chargeAsk c i s.part = settleOfftake c i (pl.offtake.closeCapToward .aspirate) asked := by
      have begun : chargeAsk c i s.part = askAspirate c i asked := by
        simp [chargeAsk, hpl, hfree, hempty, latched_iff.mpr ⟨hp, hcd⟩, asked]
      have levels : asked.offtakeLevels i = s.part.offtakeLevels i := rfl
      rw [begun, askAspirate, shown.place]
      simp only [levels, call]
      exact tellOfftake_unreported shown.place reportOf_closeCap
    have not_released (d : Door) (hd : latched d) : d.state ≠ .released := by
      rcases hd with e | e <;> simp [e]
    have doors := Place.permits_kept_of_not_ready (c := c) (x := s.part.psq.context) (l := s.part.level i)
      (pl := ({ pl with oven := { pl.oven with inFlight := true } } : Place).withOfftake (pl.offtake.closeCapToward .aspirate))
      (hn.not_ready hnumber) (not_released _ hp) (not_released _ hcd)
    refine ⟨_, meaning ▸ runs, OvenOnly.trans asking (.settle c i _ _), ?_⟩
    rw [(shown.settle c _).place, Place.settled, doors]
    simp [Place.withOfftake, Offtake.closeCapToward, hm, capMotionMs, seconds]

end Sys2Proof.Machine

namespace Sys2Proof.Machine

open Sys2Proof

/-! ## A debounced level delivered (R121, R122) -/

/-- The end of a spell stores the level and delivers it to its owner. -/
theorem debounce_runs {s : State} {c : Configuration} {i : Nat} {input : SwitchInput} {v : Bool}
    (hc : s.part.config = some c) (hs : s.Spell i input v) :
    s.Runs (.debounceExpiry (i + 1) input) (deliver c i input v (s.part.withLevel i input v)) := by
  obtain ⟨x, hx, active, pin, level⟩ := hs
  have settled : (x.get input).settle = { pin := some v, level := some v, stability := .stopped } := by
    simp [Input.settle, pin]
  change s.update (fun p => if i + 1 = 0 then p else debounce (i + 1 - 1) input p) = _
  rw [State.update_eq, if_neg (Nat.succ_ne_zero i), Nat.add_sub_cancel]
  simp only [debounce, hx, active, if_true, hc, level, settled]
  rfl

/-! ## OVS offers and the queue (R133) -/

/-- An offer leaves the entries of other items. -/
theorem offer_stays {b : Bli} {k : Kind} {sub : Subject} (payload : List Byte) {e : TxEntry} (he : e ∈ b.queue)
    (hne : e.isItem k sub = false) : e ∈ (b.offer k sub payload).1.queue := by
  rcases offer_cases b k sub payload with ⟨-, -, h⟩ | ⟨-, -, -, h⟩ | ⟨-, -, -, h⟩ <;> rw [h]
  · exact List.mem_map.mpr ⟨e, he, by simp [hne]⟩
  · exact mem_insertEntry.mpr (.inr he)
  · exact he

/-- An offer that is taken leaves its item in the queue. -/
theorem offer_taken {b : Bli} {k : Kind} {sub : Subject} {payload : List Byte} (ht : (b.offer k sub payload).2 = true) :
    ∃ e ∈ (b.offer k sub payload).1.queue, e.kind = k ∧ e.subject = sub ∧ e.payload = payload := by
  rcases offer_cases b k sub payload with ⟨⟨e, he, item⟩, -, h⟩ | ⟨-, -, -, h⟩ | ⟨-, -, hf, -⟩
  · rw [h]
    refine ⟨{ e with payload := payload }, List.mem_map.mpr ⟨e, he, by simp [item]⟩, ?_⟩
    simpa [TxEntry.isItem] using item
  · rw [h]
    exact ⟨_, mem_insertEntry.mpr (.inl rfl), rfl, rfl, rfl⟩
  · simp [ht] at hf

/-- A queue with room takes every offer. -/
theorem offer_taken_of_room {b : Bli} (h : b.queue.length < 8) (k : Kind) (sub : Subject) (payload : List Byte) :
    (b.offer k sub payload).2 = true := by
  rcases offer_cases b k sub payload with ⟨-, ht, -⟩ | ⟨-, -, ht, -⟩ | ⟨-, full, -, -⟩
  · exact ht
  · exact ht
  · omega

/-- A full queue with no such item refuses an offer. -/
theorem offer_refused {b : Bli} {k : Kind} {sub : Subject} (hfull : 8 ≤ b.queue.length)
    (h : ∀ e ∈ b.queue, e.subject ≠ sub) (payload : List Byte) : b.offer k sub payload = (b, false) := by
  rcases offer_cases b k sub payload with ⟨⟨e, he, item⟩, -, -⟩ | ⟨-, room, -, -⟩ | ⟨-, -, hf, hb⟩
  · simp only [TxEntry.isItem, Bool.and_eq_true, beq_iff_eq] at item
    exact absurd item.2 (h e he)
  · omega
  · exact Prod.ext hb hf

namespace OvsOffers

variable {n : Nat} {b b' : Bli}

/-- Entries of other kinds stay. -/
theorem stays (h : OvsOffers n b b') {e : TxEntry} (he : e ∈ b.queue) (hk : e.kind ≠ .ovs) : e ∈ b'.queue := by
  induction h with
  | refl => exact he
  | offer payload _ ih => exact offer_stays payload ih (by simp [TxEntry.isItem, hk])

/-- The queue grows by one entry at most. -/
theorem length_le (h : OvsOffers n b b') : b'.queue.length ≤ b.queue.length + 1 := by
  have grown : b'.queue.length ≤ b.queue.length
      ∨ b'.queue.length ≤ b.queue.length + 1 ∧ ∃ e ∈ b'.queue, e.isItem .ovs (.oven n) = true := by
    induction h with
    | refl => exact .inl le_rfl
    | @offer a payload _ ih =>
      rcases offer_cases a .ovs (.oven n) payload with ⟨⟨e, he, item⟩, -, hq⟩ | ⟨none, -, -, hq⟩ | ⟨-, -, -, hq⟩ <;> rw [hq]
      · refine .inr ⟨?_, { e with payload := payload }, List.mem_map.mpr ⟨e, he, by simp [item]⟩, item⟩
        rcases ih with h | ⟨h, -⟩ <;> simp only [List.length_map] <;> omega
      · refine .inr ⟨?_, _, mem_insertEntry.mpr (.inl rfl), by simp [TxEntry.isItem]⟩
        simp only [insertEntry_length]
        rcases ih with h | ⟨-, e, he, item⟩
        · omega
        · simp [none e he] at item
      · exact ih
  rcases grown with h | h <;> omega

/-- A full queue with nothing about the oven refuses them all. -/
theorem eq_of_full (h : OvsOffers n b b') (hfull : 8 ≤ b.queue.length) (hne : ∀ e ∈ b.queue, e.subject ≠ .oven n) :
    b' = b := by
  induction h with
  | refl => rfl
  | offer payload _ ih =>
    subst ih
    rw [offer_refused hfull hne]

end OvsOffers

/-! ## The charge begun (R14, R86) -/

/-- A place whose charge start has reached ASPIRATE: CHARGING with the charge limit running. -/
def Place.chargeBegun (c : Configuration) (x : Option Context) (l : SwitchInput → Bool) (pl : Place) : Place :=
  let charging := ({ pl with oven := { pl.oven with inFlight := false } } : Place).phaseSet c x l .charging
  { charging with oven := { charging.oven with chargeLimit := .running chargeLimitMs } }

/-- A place with CHP owed. -/
def Place.owesChp (owed : Bool) (pl : Place) : Place := { pl with oven := { pl.oven with chpPending := owed } }

theorem Place.DropsPermits.owesChp (pl : Place) (owed : Bool) : pl.DropsPermits (pl.owesChp owed) :=
  .of_doors_eq fun side => by cases side <;> rfl

/-- ASPIRATE reached for a charge start in flight: CHARGING, then CHP offered or owed. -/
theorem chargeBegins_eq {c : Configuration} {i : Nat} {p : Part} {pl : Place} {x : Option Context} {l : SwitchInput → Bool}
    (h : p.Shows i pl x l) (hf : pl.oven.inFlight = true) :
    ∃ timed, OvsOnly i p timed ∧ timed.Shows i (pl.chargeBegun c x l) x l
      ∧ chargeBegins c i p
        = if timed.takes .chp (.oven pl.oven.number) [byteOf pl.oven.number] then
            timed.offer .chp (.oven pl.oven.number) [byteOf pl.oven.number]
          else timed.modifyOven i fun o => { o with chpPending := true } := by
  have cancelled := h.modifyOven fun o => { o with inFlight := false }
  have cancelling : OvenOnly i p (p.modifyOven i fun o => { o with inFlight := false }) := .modifyOven i p _ fun _ => rfl
  have charging : OvsOnly i p (setPhase c i .charging (p.modifyOven i fun o => { o with inFlight := false })) :=
    (OvsOnly.of_bli_eq cancelling rfl).trans (.setPhase c .charging cancelled.place rfl)
  refine ⟨(setPhase c i .charging (p.modifyOven i fun o => { o with inFlight := false })).modifyOven i
    fun o => { o with chargeLimit := .running chargeLimitMs }, charging.trans (.of_bli_eq (.modifyOven i _ _ fun _ => rfl) rfl),
    (cancelled.phaseSet c .charging).modifyOven _, ?_⟩
  simp [chargeBegins, h.place, hf]

section
variable {c : Configuration} {x : Option Context} {l : SwitchInput → Bool} {pl : Place}

theorem Place.chargeBegun_oven (hph : pl.oven.kept.phase = .empty) (hp : pl.oven.chpPending = false) :
    (pl.chargeBegun c x l).oven.kept = { pl.oven.kept with phase := .charging }
      ∧ (pl.chargeBegun c x l).oven.number = pl.oven.number ∧ (pl.chargeBegun c x l).oven.inFlight = false
      ∧ (pl.chargeBegun c x l).oven.chpPending = false
      ∧ (pl.chargeBegun c x l).oven.chargeLimit = .running chargeLimitMs := by
  simp [Place.chargeBegun, Place.phaseSet, hph, hp]

/-- A record that has reached ASPIRATE stays there as the oven leaves EMPTY for CHARGING. -/
theorem Place.chargeBegun_offtake (hph : pl.oven.kept.phase = .empty) (hm : pl.offtake.mode = .aspirate)
    (hs : pl.offtake.sub = some .reached) : (pl.chargeBegun c x l).offtake = { pl.offtake with aspirateTimer := .stopped } := by
  simp [Place.chargeBegun, Place.phaseSet, hph, Offtake.phaseChange, Phase.modeCall, Offtake.callMode, Offtake.towardMode, hm, hs]

theorem Place.chargeBegun_dropsPermits (h : ∀ pl' : Place, pl'.oven.number = pl.oven.number → pl'.ready c x = false) :
    pl.DropsPermits (pl.chargeBegun c x l) := by
  let freed : Place := { pl with oven := { pl.oven with inFlight := false } }
  have phased : freed.DropsPermits (freed.phaseSet c x l .charging) := .phaseSet (h _ (by simp [freed]))
  exact phased

end

/-- Settles O24, by the report of ASPIRATE REACHED and the offers that follow it. -/
theorem capClosedBeginsTheCharge : Obligations.CapClosedBeginsTheCharge := by
  intro s c n i pl ho hn spell hf hph hp hm hnext hawaits
  obtain ⟨hc, -, hpl, hnumber⟩ := ho
  let before := s.part.withLevel i .capClosed true
  let x := s.part.psq.context
  let l := before.level i
  let new := pl.offtake.aspirateReached
  have shown : before.Shows i pl x l := Part.shows_self hpl
  have stored := shown.commitOfftake new
  have storing : OvsOnly i before (commitOfftake i new before) := .commitOfftake i new before
  obtain ⟨timed, charging, begun, meaning⟩ := chargeBegins_eq (c := c) stored hf
  have number : before.numberAt i = some n := by rw [← hnumber]; exact numberAt_some hpl
  have line : OvsOffers n before.bli timed.bli := (storing.trans charging).line n number
  rw [Place.withOfftake_oven, hnumber] at meaning
  let place := (pl.withOfftake new).chargeBegun c x l
  let taken := timed.takes .chp (.oven n) [byteOf n]
  let told := if taken then timed.offer .chp (.oven n) [byteOf n] else timed.modifyOven i fun o => { o with chpPending := true }
  have runs : s.Runs (.debounceExpiry (i + 1) .capClosed) (permitPass c i told) := by
    have confirmed : pl.offtake.confirm c (before.offtakeLevels i) .capClosed = new := by
      simp [Offtake.confirm, hawaits, hnext, new]
    have report : reportOf pl.offtake new = some .aspirateReached := by
      simp [reportOf, hm, new, Offtake.aspirateReached]
    refine (debounce_runs hc spell).congr ?_
    change offtakeSwitch c i .capClosed true before = _
    simp only [offtakeSwitch, shown.place, if_true, confirmed, tellOfftake, report, tellReport]
    rw [meaning]
  obtain ⟨kept, placeNumber, inFlight, pending, limit⟩ :=
    Place.chargeBegun_oven (c := c) (x := x) (l := l) (pl := pl.withOfftake new) hph hp
  have told_shows : told.Shows i (place.owesChp !taken) x l := by
    cases ht : taken
    · have owed : told = timed.modifyOven i fun o => { o with chpPending := true } := by simp [told, ht]
      rw [owed]
      exact begun.modifyOven fun o => { o with chpPending := true }
    · have same : place.owesChp (!true) = place := by
        change { place with oven := { place.oven with chpPending := false } } = place
        rw [← pending]
      rw [same]
      simpa [told, ht] using begun.offer _ _ _
  have told_frame : OvenOnly i timed told := by
    have timedNumber : timed.numberAt i = some n := (storing.trans charging).frame.number.trans number
    cases ht : taken
    · simpa [told, ht] using OvenOnly.modifyOven i timed (fun o => { o with chpPending := true }) fun _ => rfl
    · simpa [told, ht] using OvenOnly.offer timedNumber _ _
  have last : OvsOffers n told.bli (permitPass c i told).bli :=
    (OvsOnly.permitPass c i told).line n (told_frame.number.trans ((storing.trans charging).frame.number.trans number))
  have offtake := Place.chargeBegun_offtake (c := c) (x := x) (l := l) (pl := pl.withOfftake new) hph rfl rfl
  have not_ready (pl' : Place) (e : pl'.oven.number = pl.oven.number) : pl'.ready c x = false :=
    hn.not_ready (e.trans hnumber)
  have drops : pl.DropsPermits ((place.owesChp !taken).permits c x l) := by
    have begins : pl.DropsPermits place := Place.chargeBegun_dropsPermits (pl := pl.withOfftake new) not_ready
    exact (begins.trans (.owesChp place _)).trans (.permits (not_ready (place.owesChp !taken) placeNumber))
  refine ⟨permitPass c i told, (place.owesChp !taken).permits c x l, runs, (told_shows.permitPass c).place, ?_, ?_, ?_, ?_, ?_, ?_, ?_, ?_,
    fun hroom => ?_, fun hfull hnone => ?_, drops.keepsDoors, ((storing.trans charging).frame.trans told_frame).trans (.permitPass c i told)⟩
  · rw [Place.permits_kept]; exact kept
  · rw [Place.permits_inFlight]; exact inFlight
  · rw [Place.permits_chargeLimit]; exact limit
  · rw [Place.permits_offtake]; exact congrArg Offtake.mode offtake
  · rw [Place.permits_offtake]; exact congrArg Offtake.sub offtake
  · rw [Place.permits_offtake]; exact congrArg Offtake.valve offtake
  · rw [Place.permits_offtake]; exact congrArg Offtake.capTimer offtake
  · rw [Place.permits_offtake]; exact congrArg Offtake.next offtake
  · have room : timed.bli.queue.length < 8 := by
      have := line.length_le
      have : before.bli.queue.length < 7 := hroom
      omega
    have ht : taken = true := offer_taken_of_room room ..
    obtain ⟨e, he, kind, subject, payload⟩ := offer_taken ht
    have mem : e ∈ told.bli.queue := by simpa [told, ht] using he
    exact ⟨by rw [Place.permits_chpPending, ht]; rfl, e, last.stays mem (by simp [kind]), kind, subject, payload⟩
  · have same : timed.bli = before.bli := line.eq_of_full hfull.ge hnone
    have refused := offer_refused (b := timed.bli) (k := .chp) (by rw [same]; exact hfull.ge) (by rw [same]; exact hnone) [byteOf n]
    have ht : taken = false := congrArg Prod.snd refused
    have told_bli : told.bli = before.bli := by simp [told, ht, Part.modifyOven, same]
    rw [told_bli] at last
    exact ⟨by rw [Place.permits_chpPending, ht]; rfl, congrArg Bli.queue (last.eq_of_full hfull.ge hnone)⟩

/-! ## The charge end and the charge limit (R17, R18, R91) -/

theorem setAlarms_fls (c : Configuration) (i : Nat) (set : Word16) (p : Part) : (setOvenAlarms c i set p).fls = p.fls := by
  unfold setOvenAlarms
  split
  · rfl
  · split
    · rfl
    · simp [Part.modifyOven]

theorem raise_fls (c : Configuration) (i : Nat) (a : OvenAlarm) (p : Part) : (raiseOven c i a p).fls = p.fls := by
  unfold raiseOven
  split
  · rfl
  · exact setAlarms_fls ..

/-- Settles O25, by the rule of a phase entered. -/
theorem chargeEndStartsCoking : Obligations.ChargeEndStartsCoking := by
  intro s c h oven i pl hf ho
  have runs : s.Runs (.che h oven) (chargeEnd c i s.part) := charger_runs hf ho chargeEnd
  have expires : s.Runs (.chargeLimitExpiry oven.toNat) (chargeLimit c i s.part) := ovenTimer_runs ho chargeLimit
  refine ⟨fun hph hn => ?_, fun hph => ?_, fun hactive => ?_, fun hstopped => ?_⟩
  · let aged (r : Retained) : Retained := { r with age := 0 }
    have meaning : chargeEnd c i s.part = setPhase c i .coking (s.part.modifyOven i fun o => { o with kept := aged o.kept }) := by
      simp [chargeEnd, ho.phaseAt, hph, aged]
    have frame : OvenOnly i s.part (s.part.modifyOven i fun o => { o with kept := aged o.kept }) :=
      .modifyOven i s.part _ fun _ => rfl
    have charging : (pl.withKept (aged pl.oven.kept)).oven.kept.phase = .charging := hph
    have coking := (ho.shows.withKept aged).setPhase c (new := .coking) (by simp [charging])
    have drops : pl.DropsPermits ((pl.withKept (aged pl.oven.kept)).entered c s.part.psq.context (s.part.level i) .coking) :=
      Place.DropsPermits.trans (.withKept pl _) (.entered (hn.not_ready (by rw [Place.entered_number]; exact ho.2.2.2)))
    have offtake : (pl.withKept (aged pl.oven.kept)).offtake = pl.offtake := rfl
    refine ⟨_, _, runs.congr meaning, coking.place, Place.entered_kept .., ?_, ?_, overdueIsRight_entered .., fun hhold => ?_,
      fun hhold => ?_, drops.keepsDoors, frame.trans (.setPhase c i .coking _)⟩
    · rw [Place.entered_chargeLimit, if_pos charging]
    · simp [charging]
    · rw [Place.entered_offtake, charging, offtake]
      simp [Offtake.phaseChange, hhold, seconds]
    · rw [Place.entered_offtake, charging, offtake]
      simp [Offtake.phaseChange, hhold, (pl.offtake.enterControl_fields c).1]
  · refine runs.ignores (if_neg ?_)
    rw [ho.phaseAt]
    exact fun e => hph (Option.some.inj e)
  · have frame : OvenOnly i s.part (s.part.modifyOven i fun o => { o with chargeLimit := .stopped }) :=
      .modifyOven i s.part _ fun _ => rfl
    have meaning : chargeLimit c i s.part
        = raiseOven c i .chargeLate (s.part.modifyOven i fun o => { o with chargeLimit := .stopped }) := by
      simp [chargeLimit, ho.2.2.1, hactive]
    exact ⟨_, expires.congr meaning, ((ho.shows.modifyOven fun o => { o with chargeLimit := .stopped }).raise c .chargeLate).place,
      frame.trans (.raise c i .chargeLate _), raise_fls ..⟩
  · exact expires.ignores (by simp [chargeLimit, ho.2.2.1, hstopped])

end Sys2Proof.Machine

/-! SUPPORT. The push: a ram start outside a context, aborts, the end of RETURN and the round won (R29 to R55). -/

namespace Sys2Proof.Machine

open Sys2Proof

/-! ## The neighbour test (R5) -/

theorem mayEnterPushing_iff (p : Part) (i : Nat) : mayEnterPushing p i = true
    ↔ ∀ (j : Nat) (x : Place), j + 1 = i ∨ j = i + 1 → p.places[j]? = some x → x.oven.kept.phase.isOpen = false := by
  constructor
  · intro h j x hj hx
    exact mayEnterPushing_clear h j x.oven.silent hj (cycle_oven_some.mpr ⟨x, hx, rfl⟩)
  · intro h
    have clear (j : Nat) (hj : j + 1 = i ∨ j = i + 1) (ph : Phase) (hph : p.phaseAt j = some ph) : ph.isOpen = false := by
      obtain ⟨x, hx, rfl⟩ := Option.map_eq_some_iff.mp hph
      exact h j x hj hx
    simp only [mayEnterPushing, Bool.and_eq_true, Bool.or_eq_true, decide_eq_true_eq]
    constructor
    · cases i with
      | zero => exact .inl rfl
      | succ j =>
        refine .inr ?_
        simp only [Nat.add_sub_cancel]
        split
        · rfl
        · next ph hph => simp [clear j (.inl rfl) ph hph]
    · split
      · rfl
      · next ph hph => simp [clear (i + 1) (.inr rfl) ph hph]

/-- The neighbour test by oven numbers. -/
theorem mayEnterPushing_iff_numbers {s : State} {c : Configuration} {n i : Nat} {pl : Place} (ho : s.HasOven c n i pl)
    (hs : s.part.PlacesSound) : mayEnterPushing s.part i = true
      ↔ ∀ x ∈ s.part.places, x.oven.number + 1 = n ∨ x.oven.number = n + 1 →
          x.oven.kept.phase ≠ .empty ∧ x.oven.kept.phase ≠ .charging ∧ x.oven.kept.phase ≠ .pushing := by
  obtain ⟨hc, hi, -, -⟩ := ho
  obtain ⟨rfl, -⟩ := placeOf_eq hi
  have at_place := PlacesSound.mem_iff hs hc
  simp only [mayEnterPushing_iff, ← isOpen_eq_false_iff]
  constructor
  · intro h x mem hx
    obtain ⟨j, hj⟩ := List.getElem?_of_mem mem
    have number := ((at_place j x).mpr hj).2
    exact h j x (by omega) hj
  · intro h j x hj hx
    obtain ⟨mem, number⟩ := (at_place j x).mpr hx
    exact h x mem (by omega)

/-! ## A ram start outside the context (R45) -/

theorem rms_runs {s : State} {c : Configuration} {h : Header} {oven : Byte} {i : Nat} {pl : Place}
    (hf : isFrom h c c.pusherStation = true) (ho : s.HasOven c oven.toNat i pl) :
    s.Runs (.rms h oven) (ramStarts c i oven.toNat s.part) := by
  obtain ⟨hc, hi, -, -⟩ := ho
  change s.whenLoaded _ = _
  rw [State.whenLoaded_some hc]
  simp only [hf, if_true, withLocal_some hi]

/-- A call for HOLD leaves the record in HOLD. -/
theorem Offtake.callHold_mode (c : Configuration) (lv : OfftakeLevels) (o : Offtake) : (o.callMode c lv .hold).mode = .hold := by
  unfold Offtake.callMode
  split
  · next h =>
    simp only [Offtake.towardMode, Bool.and_eq_true, beq_iff_eq] at h
    exact h.1
  · rfl

/-- An oven lost to a ram start that is not followed as a push: UNKNOWN, PUSH_UNPERMITTED, in HOLD unless UNKNOWN before. -/
theorem loseOven_place {c : Configuration} {i : Nat} {p : Part} {pl : Place} {x : Option Context} {l : SwitchInput → Bool}
    (h : p.Shows i pl x l) : ∃ pl', (loseOven c i p).places[i]? = some pl'
      ∧ pl'.oven.kept = { pl.oven.kept with phase := .unknown } ∧ hasOven pl'.oven.alarms .pushUnpermitted = true
      ∧ (pl.oven.kept.phase ≠ .unknown → pl'.offtake.mode = .hold) := by
  refine ⟨_, ((h.phaseSet c .unknown).raise c .pushUnpermitted).place, ?_, by simp, fun hne => ?_⟩
  · rw [Place.held_oven, Place.phaseSet_kept]
  · rw [Place.held_offtake, Place.phaseSet, if_neg hne, Place.entered_offtake]
    simp only [Offtake.phaseChange, reduceCtorEq, and_false, if_false]
    exact Offtake.callHold_mode ..

theorem OvenOnly.loseOven (c : Configuration) (i : Nat) (p : Part) : OvenOnly i p (loseOven c i p) :=
  (OvenOnly.setPhase c i .unknown p).trans (.raise c i .pushUnpermitted _)

/-- Settles O36, by the two outcomes of the neighbour test. -/
theorem ramStartOutsideTheContext : Obligations.RamStartOutsideTheContext := by
  intro s c h oven i pl hf ho hs hph clear
  have runs := rms_runs hf ho
  have may : mayEnterPushing s.part i = true ↔ clear := mayEnterPushing_iff_numbers ho hs
  constructor
  · intro hx hclear
    let x := Context.unannounced oven.toNat
    let alarmed := raiseOven c i .pushUnpermitted (setContext c i (some x) (setPhase c i .pushing s.part))
    have meaning : ramStarts c i oven.toNat s.part = askIsolate c i alarmed := by
      simp only [ramStarts, hx, ramOutside, may.mpr hclear, if_true, alarmed, x]
    have shown := (((ho.shows.setPhase c hph).setContext c (some x)).raise c .pushUnpermitted)
    have not_preparing : ∀ y, some x = some y → y.oven ≠ (((pl.entered c s.part.psq.context (s.part.level i)
        .pushing).permits c (some x) (s.part.level i)).held .pushUnpermitted true).oven.number ∨ y.stage ≠ .prepare :=
      fun y hy => by cases hy; exact .inr nofun
    have frame : OvenAndPush i s.part alarmed :=
      ((OvenOnly.setPhase c i .pushing s.part).andPush.trans (.setContext c i (some x) _)).trans
        (OvenOnly.raise c i .pushUnpermitted _).andPush
    have asking : OvenOnly i alarmed (askIsolate c i alarmed) := .askIsolate shown not_preparing
    have psq : (askIsolate c i alarmed).psq = { s.part.psq with context := some x } := by
      rw [asking.psq_eq, (OvenOnly.raise c i .pushUnpermitted _).psq_eq, setContext_psq,
        (OvenOnly.setPhase c i .pushing s.part).psq_eq]
    obtain ⟨mode, next⟩ := Place.isolateAsked_offtake c (some x) (s.part.level i) _
    refine ⟨_, _, runs.congr meaning, (shown.askIsolate c not_preparing).place, ?_, ?_, ?_, ?_, mode, next,
      frame.trans asking.andPush⟩
    · rw [psq]
    · rw [psq]
      rfl
    · rw [Place.isolateAsked_kept, Place.held_oven, Place.permits_kept, Place.entered_kept]
    · rw [(Place.isolateAsked_resealOnly ..).alarm _ (by decide) (by decide)]
      simp
  · intro hlost
    obtain ⟨pl', place, kept, alarm, mode⟩ := loseOven_place (c := c) ho.shows
    have meaning : ramStarts c i oven.toNat s.part = loseOven c i s.part := by
      rcases hlost with ⟨hx, hnot⟩ | ⟨x, hx, hne⟩
      · simp only [ramStarts, hx, ramOutside, if_neg (mt may.mp hnot)]
      · simp only [ramStarts, hx, if_neg hne]
    exact ⟨_, pl', runs.congr meaning, place, kept, alarm, mode, .loseOven c i s.part⟩

/-! ## Aborts by the panel and by the limits (R41, R43, R54) -/

theorem panelAbort_runs {s : State} {c : Configuration} {h : Header} {oven : Byte} (hc : s.part.config = some c)
    (hp : isFromPanel h c = true) : s.Runs (.pnlAbort h oven) (panelAbort c oven.toNat s.part) := by
  change s.whenLoaded _ = _
  rw [State.whenLoaded_some hc]
  simp only [hp, if_true]

theorem byte_eq_zero_iff (b : Byte) : b = 0 ↔ b.toNat = 0 := by
  rw [← BitVec.toNat_inj]
  rfl

/-- Settles O39, by the one meaning of an abort. -/
theorem abortsGoToReturn : Obligations.AbortsGoToReturn := by
  constructor
  · intro s c h oven hc hp
    have runs := panelAbort_runs (oven := oven) hc hp
    refine ⟨fun hx => runs.ignores (by simp [panelAbort, hx]), fun x hx hother => runs.ignores ?_⟩
    simp only [panelAbort, hx, abortIfOpen]
    split
    · next hoven =>
      rw [← byte_eq_zero_iff] at hoven
      refine if_neg fun k => ?_
      rcases hother with ⟨h0, hne⟩ | h | h | h
      · exact hoven.elim h0 hne
      all_goals simp [h] at k
    · rfl
  · intro s c h oven i pl x e r ho hx hp hpi hevent
    obtain ⟨hc, hi, hpl, -⟩ := ho
    have prepareLimit_runs : s.Runs .prepareLimitExpiry (prepareLimit c s.part) := State.whenLoaded_some hc prepareLimit
    have armedLimit_runs : s.Runs .armedLimitExpiry (armedLimit c s.part) := State.whenLoaded_some hc armedLimit
    have shown : s.part.Shows i pl (some x) (s.part.level i) := hx ▸ Part.shows_self hpl
    rcases hevent with ⟨rfl, rfl, hoven, hstage⟩ | ⟨rfl, rfl, hlimit, hstage⟩ | ⟨rfl, rfl, hlimit, hstage⟩
    · have meaning : panelAbort c oven.toNat s.part = abort c .panel s.part := by
        rw [byte_eq_zero_iff] at hoven
        simp only [panelAbort, hx, hoven, if_true, abortIfOpen, hstage, true_and]
      exact ⟨_, (panelAbort_runs hc hp).congr meaning, (abort_aborts shown hi hpi .panel).claim⟩
    · let mark (x : Context) : Context := { x with prepareLimit := .expired }
      have meaning : prepareLimit c s.part = abort c .prepareTime (modifyContext mark s.part) := by
        simp only [prepareLimit, hx, hlimit, hstage, if_true, mark]
      have aborted := abort_aborts (shown.modifyContext mark) (x := mark x) hi hpi .prepareTime
      refine ⟨_, prepareLimit_runs.congr meaning,
        aborted.before (.refl pl) (.of_ovenAndPush (.modifyContext i mark s.part)) rfl rfl rfl rfl⟩
    · have meaning : armedLimit c s.part = abort c .armedTime s.part := by
        simp only [armedLimit, hx, hlimit, hstage, and_self, if_true]
      exact ⟨_, armedLimit_runs.congr meaning,
        (abort_aborts shown hi hpi .armedTime).claim⟩

end Sys2Proof.Machine

namespace Sys2Proof.Machine

open Sys2Proof

/-! ## The end of RETURN (R55, R87, R88) -/

/-- An OCU change with a report is stored, its alarm raised and its report told, with the permit decision last. -/
theorem tellOfftake_reported {c : Configuration} {i : Nat} {new : Offtake} {p : Part} {pl : Place} {r : Report}
    (h : p.places[i]? = some pl) (hr : reportOf pl.offtake new = some r) :
    tellOfftake c i new none p = permitPass c i (tellReport c i pl.oven.number r (commitOfftake i new p)) := by
  simp only [tellOfftake, h, hr]

theorem tellOfftake_alarmed {c : Configuration} {i : Nat} {new : Offtake} {p : Part} {pl : Place} {r : Report}
    (h : p.places[i]? = some pl) (hr : reportOf pl.offtake new = some r) (a : OvenAlarm) :
    tellOfftake c i new (some a) p
      = permitPass c i (tellReport c i pl.oven.number r (raiseOven c i a (commitOfftake i new p))) := by
  simp only [tellOfftake, h, hr]

section
variable {c : Configuration} {i : Nat} {p q : Part} {pl : Place} {x : Context} {l : SwitchInput → Bool}

/-- What the end of RETURN makes of the push and of its oven's place. -/
structure ReturnEnded (c : Configuration) (i : Nat) (l : SwitchInput → Bool) (pl : Place) (p q : Part) : Prop where
  place : q.places[i]? = some ((pl.returned c l).permits c none l)
  psq : q.psq = { p.psq with context := none }
  frame : PushOnly i p q

theorem returnAnswered_ends {n : Nat} (h : p.Shows i pl (some x) l) (hn : x.oven = n) (hs : x.stage = .returning)
    (hp : x.piRequested = true) : ReturnEnded c i l pl p (permitPass c i (returnAnswered c i n p)) := by
  have ends : returnAnswered c i n p = endReturn c i p := by
    simp only [returnAnswered, h.context, hn, hs, hp, and_self, if_true]
  rw [ends]
  exact ⟨((h.endReturn c).permitPass c).place, by rw [(OvenOnly.permitPass c i _).psq_eq, endReturn_psq],
    .of_ovenAndPush ((OvenAndPush.endReturn c i p).trans (OvenOnly.permitPass c i _).andPush)⟩

theorem ReturnEnded.kept (pl : Place) : ((pl.returned c l).permits c none l).oven.kept
    = { ({ pl.oven.kept with hold := true } : Retained) with
        phase := Claims.byAge c { pl.oven.kept with hold := true } } := by
  rw [Place.permits_kept, Place.returned_kept]
  rfl

end

/-- Settles O40, by the two reports that end RETURN. -/
theorem returnEndsInPi : Obligations.ReturnEndsInPi := by
  intro s c i pl x ho hx hstage hrequested hph hm hnext hawaits ended
  obtain ⟨hc, hi, hpl, hnumber⟩ := ho
  constructor
  · intro spell
    let before := s.part.withLevel i .capClosed true
    let l := before.level i
    let new := pl.offtake.enterControl c
    have shown : before.Shows i pl (some x) l := hx ▸ Part.shows_self (p := before) hpl
    have confirmed : pl.offtake.confirm c (before.offtakeLevels i) .capClosed = new := by
      simp [Offtake.confirm, hawaits, hnext, new]
    obtain ⟨mode, sub, next, valve, capOpen, entry⟩ := pl.offtake.enterControl_fields c
    have report : reportOf pl.offtake new = some .piEntered := by
      simp only [reportOf, new, mode, hm]
      split <;> simp
    have runs : s.Runs (.debounceExpiry (i + 1) .capClosed)
        (permitPass c i (returnAnswered c i pl.oven.number (commitOfftake i new before))) := by
      refine (debounce_runs hc spell).congr ?_
      change offtakeSwitch c i .capClosed true before = _
      simp only [offtakeSwitch, shown.place, if_true, confirmed]
      exact tellOfftake_reported shown.place report
    have ends : ReturnEnded c i l (pl.withOfftake new) (commitOfftake i new before) _ :=
      returnAnswered_ends (shown.commitOfftake new) hnumber.symm hstage hrequested
    obtain ⟨toward, notFailed⟩ := pl.offtake.enterControl_toward c
    obtain ⟨t, offtake⟩ := Place.returned_offtake c l (pl.withOfftake new) hph toward notFailed
    have psq := ends.psq.trans (congrArg (fun y : Psq => { y with context := none }) (OvenOnly.commitOfftake i new before).psq_eq)
    refine ⟨_, _, runs, ⟨ends.place, psq, ReturnEnded.kept _⟩, ?_, ?_, ?_, ?_,
      .trans (.of_ovenOnly (.commitOfftake i new before)) ends.frame⟩
    all_goals rw [Place.permits_offtake, offtake]
    · exact mode
    · exact valve
    · exact entry
    · exact capOpen
  · intro htimer hsub hclosed
    let l := s.part.level i
    let new : Offtake := { pl.offtake with capTimer := .stopped, sub := some .failed }
    have shown : s.part.Shows i pl (some x) l := hx ▸ Part.shows_self hpl
    have report : reportOf pl.offtake new = some .returnFailed := by
      simp [reportOf, new, hm, hnext, hsub]
    have runs : s.Runs (.capMotionTimerExpiry x.oven)
        (permitPass c i (returnAnswered c i pl.oven.number (raiseOven c i .capFault (commitOfftake i new s.part)))) := by
      have expires : s.Runs (.capMotionTimerExpiry x.oven) (capTimerExpires c i s.part) :=
        ovenTimer_runs ⟨hc, hi, hpl, hnumber⟩ capTimerExpires
      refine expires.congr ?_
      simp only [capTimerExpires, hpl, htimer, if_true]
      exact tellOfftake_alarmed hpl report .capFault
    have alarmed := (shown.commitOfftake new).raise c .capFault
    have ends : ReturnEnded c i l ((pl.withOfftake new).held .capFault true) (raiseOven c i .capFault (commitOfftake i new s.part)) _ :=
      returnAnswered_ends alarmed hnumber.symm hstage hrequested
    have frame : OvenOnly i s.part (raiseOven c i .capFault (commitOfftake i new s.part)) :=
      (OvenOnly.commitOfftake i new s.part).trans (.raise c i .capFault _)
    have offtakeEq := Place.returned_offtake_eq c l ((pl.withOfftake new).held .capFault true) hph
    obtain ⟨t, restarted⟩ := Offtake.phaseChange_byAge_failed (c := c) (lv := offtakeLevelsOf l) (o := new) (old := .pushing)
      pl.oven.kept (by decide) hm rfl hclosed
    have offtake := offtakeEq.trans restarted
    have psq := ends.psq.trans (congrArg (fun y : Psq => { y with context := none }) frame.psq_eq)
    refine ⟨_, _, runs, ⟨ends.place, psq, ReturnEnded.kept _⟩, ?_, ?_, ?_, ?_, ?_, ?_, ?_, ?_,
      .trans (.of_ovenOnly frame) ends.frame⟩
    · rw [(Place.permits_resealOnly ..).alarm _ (by decide) (by decide),
        Place.returned_alarm c l _ (by decide) (by decide) (by decide)]
      simp
    all_goals
      rw [Place.permits_offtake, offtake]
      rfl

/-! ## The round won (R29, R30, R39) -/

theorem carFree_iff (p : Part) : carFree p = true ↔ ∃ v, p.lvt.car = some v ∧ v.fresh.active = true ∧ v.activity = .idle
    ∧ v.load = .empty ∧ v.owner = 0 := by
  cases h : p.lvt.car <;> simp [carFree, h, and_assoc]

theorem pusherReady_iff (p : Part) : pusherReady p = true ↔ ∃ v, p.lvt.pusher = some v ∧ v.fresh.active = true
    ∧ v.activity ≠ .fault := by
  cases h : p.lvt.pusher <;> simp [pusherReady, h]

theorem roundWon_of_claim {c : Configuration} {s : State} {record : BidRecord} (h : Claims.roundIsWon c s record) :
    roundWon c record s.part = true := by
  obtain ⟨hx, ⟨i, hi, heligible⟩, car, pusher, rivals⟩ := h
  simp only [roundWon, hx, hi, heligible, (carFree_iff _).mpr car, (pusherReady_iff _).mpr pusher, Option.isNone_none,
    Bool.and_true]
  simpa [beatsAll] using rivals

/-- What eligibility says of the oven and its neighbours (R23, R24). -/
theorem eligible_facts {c : Configuration} {p : Part} {i : Nat} {pl : Place} (hpl : p.places[i]? = some pl)
    (h : eligible c p i = true) : pl.oven.kept.phase = .ready ∧ pl.bothLatched = true
      ∧ supportBelow c p i = true ∧ supportAbove c p i = true := by
  simp only [eligible, hpl, wallSupport, Bool.and_eq_true, beq_iff_eq] at h
  obtain ⟨⟨⟨⟨⟨hready, -⟩, -⟩, latched⟩, -⟩, below, above⟩ := h
  exact ⟨hready, latched, below, above⟩

/-- An oven that gives support is not open. -/
theorem placeSupports_closed {c : Configuration} {p : Part} {j : Nat} (h : placeSupports c p j = true) {x : Place}
    (hx : p.places[j]? = some x) : x.oven.kept.phase.isOpen = false := by
  simp only [placeSupports, hx, givesSupport] at h
  cases hph : x.oven.kept.phase <;> simp_all [Phase.isOpen]

/-- An eligible oven passes the neighbour test. -/
theorem eligible_mayEnterPushing {s : State} {c : Configuration} {n i : Nat} {pl : Place} (ho : s.HasOven c n i pl)
    (hs : s.part.PlacesSound) (h : eligible c s.part i = true) : mayEnterPushing s.part i = true := by
  obtain ⟨hc, -, hpl, -⟩ := ho
  obtain ⟨-, length, -⟩ := hs.2 c (by simp [hc])
  obtain ⟨-, -, below, above⟩ := eligible_facts hpl h
  refine (mayEnterPushing_iff s.part i).mpr fun j x hj hx => ?_
  rcases hj with rfl | rfl
  · exact placeSupports_closed (by simpa [supportBelow] using below) hx
  · have hend : i + 1 ≠ c.ovenCount := by
      have := (List.getElem?_eq_some_iff.mp hx).1
      omega
    exact placeSupports_closed (by simpa [supportAbove, hend] using above) hx

end Sys2Proof.Machine

namespace Sys2Proof.Machine

open Sys2Proof

/-! ### The push begun -/

/-- A request for PI sees of the offtake only what closing the cap leaves of it. -/
theorem piAsked_congr_offtake {c : Configuration} {i : Nat} {pl₁ pl pl' : Place} {x : Context} {p q : Part}
    (hk : pl₁.oven.kept = pl.oven.kept) (hm₁ : pl₁.offtake.mode = .isolate) (hm : pl.offtake.mode = .isolate)
    (ho : pl₁.offtake.closeCapToward .pi = pl.offtake.closeCapToward .pi) (h : Claims.piAsked c i pl₁ pl' x p q) :
    Claims.piAsked c i pl pl' x p q := by
  have sensor : pl₁.offtake.sensorFailed = pl.offtake.sensorFailed := by
    have := congrArg Offtake.sensorFailed ho
    exact this
  have closing (o : Offtake) (hm : o.mode = .isolate) : o.closeCapToward .pi = { o with
      sub := some .moving, next := some .pi, awaits := some .capClosed, valve := 0, capOpen := false
      entryPending := false, valveTimer := .stopped, capTimer := .running 15000, highTimer := .stopped } := by
    rw [Offtake.closeCapToward, ← hm]
    rfl
  unfold Claims.piAsked at *
  rwa [hk, sensor, ← closing _ hm₁, ho, closing _ hm] at h

/-- So does an abort of a push whose doors are on. -/
theorem aborts_congr_offtake {c : Configuration} {i : Nat} {pl₁ pl : Place} {x : Context} {r : AbortReason} {p q : Part}
    (hk : pl₁.oven.kept = pl.oven.kept) (hd : ∀ side, pl₁.door side = pl.door side)
    (hP : ¬Claims.away pl.doorP) (hC : ¬Claims.away pl.doorC)
    (hm₁ : pl₁.offtake.mode = .isolate) (hn₁ : pl₁.offtake.next = none)
    (ho : pl₁.offtake.closeCapToward .pi = pl.offtake.closeCapToward .pi) (h : Claims.aborts c i pl₁ x r p q) :
    Claims.aborts c i pl x r p q := by
  obtain ⟨pl', place, alarm, drop, orders, pdn, frame, -, on⟩ := h
  have hP₁ : ¬Claims.away pl₁.doorP := by rw [show pl₁.doorP = pl.doorP from hd .p]; exact hP
  have hC₁ : ¬Claims.away pl₁.doorC := by rw [show pl₁.doorC = pl.doorC from hd .c]; exact hC
  exact ⟨pl', place, alarm, fun side hs => drop side (by rw [hd]; exact hs), orders, pdn, frame, fun ha => (ha.elim hP hC).elim,
    fun _ _ hm _ => piAsked_congr_offtake hk hm₁ hm ho (on hP₁ hC₁ hm₁ hn₁)⟩

/-- A call for ISOLATE changes only what closing the cap overwrites. -/
theorem Offtake.callIsolate_closeCap (c : Configuration) (lv : OfftakeLevels) (o : Offtake) :
    (o.callMode c lv .isolate).closeCapToward .pi = o.closeCapToward .pi := by
  unfold Offtake.callMode
  split
  · rfl
  · simp only [Offtake.startMode, Offtake.startIsolate, Offtake.isolateValveClosed]
    split
    · split <;> rfl
    · rfl

theorem OvenAndPush.qou_eq {i : Nat} {p q : Part} (h : OvenAndPush i p q) : q.qou = p.qou := by
  have := OvenOnly.qou_eq h
  exact this

/-- The offtake record of an oven that enters PUSHING. -/
def Offtake.pushed (c : Configuration) (l : SwitchInput → Bool) (o : Offtake) : Offtake :=
  ({ o with aspirateTimer := .stopped } : Offtake).callMode c (offtakeLevelsOf l) .isolate

theorem Offtake.phaseChange_pushing (c : Configuration) (l : SwitchInput → Bool) (old : Phase) (o : Offtake) :
    o.phaseChange c (offtakeLevelsOf l) old .pushing = o.pushed c l := by
  simp [Offtake.phaseChange, Offtake.pushed, Phase.modeCall]

/-- The place of a READY oven as the push takes it, its doors and alarms aside. -/
def Place.pushed (c : Configuration) (l : SwitchInput → Bool) (pl : Place) : Place :=
  { pl with
    oven := { pl.oven with kept := { pl.oven.kept with phase := .pushing } }
    offtake := pl.offtake.pushed c l }

/-- What a won round has made of the push and of its oven's place before the SPOT is ordered (R39). -/
structure PushBegun (c : Configuration) (i n : Nat) (l : SwitchInput → Bool) (pl : Place) (p q : Part) : Prop where
  shows : ∃ pl', q.Shows i pl' (some (Context.won n)) l ∧ (pl.pushed c l).LeadsTo pl'
  frame : OvenAndPush i p q
  psq : q.psq = { p.psq with context := some (Context.won n) }

theorem pushBegun {c : Configuration} {i : Nat} {p : Part} {pl : Place} {x : Option Context} {l : SwitchInput → Bool}
    (h : p.Shows i pl x l) (hph : pl.oven.kept.phase ≠ .pushing) (n : Nat) : PushBegun c i n l pl p
      (askIsolate c i (setContext c i (some (Context.won n)) (setPhase c i .pushing p))) := by
  let entered := (pl.entered c x l .pushing).permits c (some (Context.won n)) l
  have begun := (h.setPhase c hph).setContext c (some (Context.won n))
  have offtake : entered.offtake = pl.offtake.pushed c l := by
    rw [Place.permits_offtake, Place.entered_offtake, Offtake.phaseChange_pushing]
  obtain ⟨mode, next, sub⟩ := Offtake.callIsolate c (offtakeLevelsOf l) { pl.offtake with aspirateTimer := .stopped }
  have goesOn : entered.offtake.callMode c (offtakeLevelsOf l) .isolate = entered.offtake := by
    rw [offtake]
    exact Offtake.callIsolate_self mode next sub
  have asked := askIsolate_of_call_self begun.place (by rw [begun.offtakeLevels]; exact goesOn)
  have recorded : (pl.pushed c l).LeadsTo ((pl.recordEntered c .pushing).withOfftake (pl.offtake.pushed c l)) := by
    refine ⟨by simp [Place.pushed], rfl, fun side => ?_, fun side => ?_⟩ <;> cases side
    · exact .rfl
    · exact .rfl
    · exact id
    · exact id
  have enters : (pl.pushed c l).LeadsTo (pl.entered c x l .pushing) := by
    rw [Place.entered, Offtake.phaseChange_pushing]
    exact recorded.trans (.permits c x l _)
  have settles : entered.LeadsTo (entered.settled c (some (Context.won n)) l entered.offtake) := .permits c _ l entered
  rw [asked]
  exact ⟨⟨_, begun.settle c _, (enters.trans (.permits c _ l _)).trans settles⟩,
    ((OvenOnly.setPhase c i .pushing p).andPush.trans (.setContext c i _ _)).trans (OvenOnly.settle c i _ _).andPush,
    by rw [(OvenOnly.settle c i _ _).psq_eq, setContext_psq, (OvenOnly.setPhase c i .pushing p).psq_eq]⟩

/-- Settles O33, by the push begun at a won round, aborted or not. -/
theorem windowExpiryWinsTheRound : Obligations.WindowExpiryWinsTheRound := by
  intro s c record i pl ho hs hround hrecord hwindow hwins won x begun
  have eligible_here : eligible c s.part i = true := by
    obtain ⟨-, ⟨j, hj, h⟩, -⟩ := hwins
    cases ho.2.1.symm.trans hj
    exact h
  have hx : s.part.psq.context = none := hwins.1
  obtain ⟨hready, hlatched, -, -⟩ := eligible_facts ho.2.2.1 eligible_here
  have may := eligible_mayEnterPushing ho hs eligible_here
  obtain ⟨hc, hi, hpl, -⟩ := ho
  let idle : Part := { s.part with bsu := won }
  let l := idle.level i
  let begins := askIsolate c i (setContext c i (some (Context.won record.oven)) (setPhase c i .pushing idle))
  have shown : idle.Shows i pl none l := ⟨hpl, hx, fun _ => rfl⟩
  obtain ⟨⟨pl', shows, leads⟩, frame, psq⟩ : PushBegun c i record.oven l pl idle begins :=
    pushBegun shown (by simp [hready]) record.oven
  have qou : begins.qou = s.part.qou := frame.qou_eq
  obtain ⟨mode, next, -⟩ := Offtake.callIsolate c (offtakeLevelsOf l) { pl.offtake with aspirateTimer := .stopped }
  have runs : s.Runs .windowExpiry (orderSpot c record.oven begins) := by
    have expires : s.Runs .windowExpiry (decideRound c s.part) := State.whenLoaded_some hc decideRound
    refine expires.congr ?_
    simp only [decideRound, hround, hrecord, hwindow, if_true, roundWon_of_claim hwins]
    have may' : mayEnterPushing idle i = true := may
    exact (withLocal_some hi _ _).trans (if_pos may')
  constructor
  · intro hempty
    obtain ⟨offered, orders⟩ := qouAppend_qou (.spot record.oven) begins
    have meaning : orderSpot c record.oven begins
        = modifyContext (fun x => { x with spotAwaited := true }) (qouAppend (.spot record.oven) begins) := by
      simp [orderSpot, qouTakes, qou, hempty, maxOrders]
    have appended := (OrdersOnly.append (.spot record.oven) begins).shows shows
    have final := appended.modifyContext fun x => { x with spotAwaited := true }
    have whole : PushOnly i idle (modifyContext (fun x => { x with spotAwaited := true }) (qouAppend (.spot record.oven) begins)) :=
      (PushOnly.trans (.of_ovenAndPush frame) (.of_ordersOnly (.append _ begins))).trans
        (.of_ovenAndPush (.modifyContext i _ _))
    refine ⟨_, pl', { newOrder (.spot record.oven) s.part.qou.nextId with offered := offered }, runs.congr meaning, final.place,
      whole.bsu_eq, leads.kept, by rw [leads.offtake]; exact mode, by rw [leads.offtake]; exact next, final.context,
      ?_, rfl, rfl, rfl, rfl, rfl, whole⟩
    have same : (modifyContext (fun x => { x with spotAwaited := true }) (qouAppend (.spot record.oven) begins)).qou
        = (qouAppend (.spot record.oven) begins).qou := rfl
    rw [same, orders, qou, hempty]
    rfl
  · intro hfull
    have meaning : orderSpot c record.oven begins = abort c .carList begins := by
      have : ¬s.part.qou.orders.length < 4 := by omega
      simp [orderSpot, qouTakes, qou, maxOrders, this]
    have aborted := (abort_aborts (c := c) shows hi rfl .carList).before (p := idle) (x := x) leads (.of_ovenAndPush frame)
      qou (by rw [psq]) (shows.level _) rfl
    have latched := (bothLatched_iff pl).mp hlatched
    refine ⟨_, runs.congr meaning, aborts_congr_offtake (pl₁ := pl.pushed c l) rfl (fun side => by cases side <;> rfl) ?_ ?_ mode
      next ?_ aborted⟩
    · exact fun ha => by simp [away_not_latched (d := pl.doorP) ha] at latched
    · exact fun ha => by simp [away_not_latched (d := pl.doorC) ha] at latched
    · exact Offtake.callIsolate_closeCap ..

end Sys2Proof.Machine

/-! SUPPORT. The offtake's timers and the doors' switches (R59 to R92). -/

namespace Sys2Proof.Machine

open Sys2Proof

/-! ## Reports nobody waits for -/

/-- With no charge start in flight and no push of the oven a report changes nothing. -/
theorem tellReport_inert {c : Configuration} {i n : Nat} {p : Part} {pl : Place} (h : p.places[i]? = some pl)
    (hf : pl.oven.inFlight = false) (hx : ∀ y, p.psq.context = some y → y.oven ≠ n) (r : Report) :
    tellReport c i n r p = p := by
  have elsewhere {f : Part} (g : Context → Prop) [DecidablePred g] (hg : ∀ y, g y → y.oven = n) :
      (match p.psq.context with | none => p | some y => if g y then f else p) = p := by
    split
    · rfl
    · next y hy => exact if_neg fun k => hx y hy (hg y k)
  cases r
  case aspirateReached => simp [tellReport, chargeBegins, h, hf]
  case aspirateFailed => simp [tellReport, chargeFails, h, hf]
  case isolateReached => exact testArmed_inert fun y hy => .inl (hx y hy)
  case isolateFailed => exact elsewhere (fun y => y.oven = n ∧ (y.stage = .prepare ∨ y.stage = .armed)) fun y k => k.1
  case piEntered => exact elsewhere (fun y => y.oven = n ∧ y.stage = .returning ∧ y.piRequested = true) fun y k => k.1
  case returnFailed => exact elsewhere (fun y => y.oven = n ∧ y.stage = .returning ∧ y.piRequested = true) fun y k => k.1

/-- An OCU change with an alarm, its report waited for by nobody. -/
theorem tellOfftake_alarmed_inert {c : Configuration} {i : Nat} {new : Offtake} {p : Part} {pl : Place}
    (h : p.places[i]? = some pl) (hf : pl.oven.inFlight = false)
    (hx : ∀ y, p.psq.context = some y → y.oven ≠ pl.oven.number) (a : OvenAlarm) :
    tellOfftake c i new (some a) p = permitPass c i (raiseOven c i a (commitOfftake i new p)) := by
  have stored := (Part.shows_self h).commitOfftake new
  have alarmed := stored.raise c a
  simp only [tellOfftake, h]
  cases reportOf pl.offtake new with
  | none => rfl
  | some r =>
    simp only
    rw [tellReport_inert alarmed.place hf fun y hy => hx y (alarmed.context ▸ hy)]

section
variable {s : State} {c : Configuration} {n i : Nat} {pl : Place}

/-- A place of an oven with no push, no door RELEASED, is none of the permit decision's. -/
theorem State.HasOven.permits_eq (ho : s.HasOven c n i pl) (hn : s.NoPushOf n) {pl' : Place}
    (number : pl'.oven.number = pl.oven.number) (hP : pl'.doorP.state ≠ .released) (hC : pl'.doorC.state ≠ .released)
    (l : SwitchInput → Bool) : pl'.permits c s.part.psq.context l = pl' :=
  Place.permits_kept_of_not_ready (hn.not_ready (number.trans ho.2.2.2)) hP hC

theorem State.HasOven.ne (ho : s.HasOven c n i pl) (hn : s.NoPushOf n) :
    ∀ y, s.part.psq.context = some y → y.oven ≠ pl.oven.number := by
  rw [ho.2.2.2]
  exact hn.ne

/-- A motion timer's expiry at an oven with no push and no charge start: FAILED, with its alarm (R88). -/
theorem motionTimer_fails (ho : s.HasOven c n i pl) (hn : s.NoPushOf n) (hP : pl.doorP.state ≠ .released)
    (hC : pl.doorC.state ≠ .released) (hf : pl.oven.inFlight = false) (new : Offtake) (a : OvenAlarm) :
    OvenOnly i s.part (tellOfftake c i new (some a) s.part)
      ∧ (tellOfftake c i new (some a) s.part).places[i]? = some ((pl.withOfftake new).held a true) := by
  rw [tellOfftake_alarmed_inert ho.2.2.1 hf (ho.ne hn)]
  have alarmed := (ho.shows.commitOfftake new).raise c a
  refine ⟨((OvenOnly.commitOfftake i new s.part).trans (.raise c i a _)).trans (.permitPass c i _), ?_⟩
  rw [(alarmed.permitPass c).place, ho.permits_eq (pl' := (pl.withOfftake new).held a true) hn rfl hP hC]

/-- A motion timer's expiry in a push in PREPARE or ARMED aborts it with ISOLATE_FAIL (R51, R88). -/
theorem motionTimer_aborts {x : Context} (ho : s.HasOven c n i pl) (hx : s.part.psq.context = some x) (hxn : x.oven = n)
    (hstage : x.stage = .prepare ∨ x.stage = .armed) (hpi : x.piRequested = false) {new : Offtake}
    (report : reportOf pl.offtake new = some .isolateFailed) (a : OvenAlarm) (hp : a ≠ .resealP) (hc : a ≠ .resealC)
    (hov : a ≠ .overdue) :
    Claims.aborts c i { pl with offtake := new } x .isolateFail s.part (tellOfftake c i new (some a) s.part)
      ∧ ∀ pl', (tellOfftake c i new (some a) s.part).places[i]? = some pl' → hasOven pl'.oven.alarms a = true := by
  obtain ⟨-, hi, hpl, hnumber⟩ := ho
  have shown : s.part.Shows i pl (some x) (s.part.level i) := hx ▸ Part.shows_self hpl
  have alarmed := (shown.commitOfftake new).raise c a
  have frame : OvenOnly i s.part (raiseOven c i a (commitOfftake i new s.part)) :=
    (OvenOnly.commitOfftake i new s.part).trans (.raise c i a _)
  have aborted := abort_aborts (c := c) alarmed (hxn ▸ hi) hpi .isolateFail
  have meaning : tellOfftake c i new (some a) s.part
      = abort c .isolateFail (raiseOven c i a (commitOfftake i new s.part)) := by
    rw [tellOfftake_alarmed hpl report, tellReport, abortIfOpen, alarmed.context]
    simp only [hxn, hnumber, hstage, and_self, if_true]
    exact aborted.decided
  rw [meaning]
  refine ⟨aborted.before (.held (pl.withOfftake new) a true) (.of_ovenOnly frame) frame.qou_eq (by rw [frame.psq_eq])
    (alarmed.level _) rfl, fun pl' hpl' => aborted.alarms pl' hpl' a hp hc hov ?_⟩
  simp

end

/-! ## The charge start that fails (R15) -/

/-- From another mode, or on its way to one, a call for ISOLATE shuts the valve. -/
theorem Offtake.callIsolate_valve (c : Configuration) (lv : OfftakeLevels) {o : Offtake} (hn : o.next ≠ none) :
    (o.callMode c lv .isolate).valve = 0 := by
  have away : o.towardMode .isolate = false := by
    cases h : o.next with
    | none => exact absurd h hn
    | some _ => simp [Offtake.towardMode, h]
  simp only [Offtake.callMode, away, Bool.false_and, Bool.false_eq_true, if_false, Offtake.startMode, Offtake.startIsolate,
    Offtake.isolateValveClosed, Offtake.isolateReached]
  split
  · split <;> rfl
  · rfl

section
variable {c : Configuration} {i n : Nat} {p : Part} {pl : Place} {x : Option Context} {l : SwitchInput → Bool}

/-- A charge start cancelled: the flag clear, a CHR offered and ISOLATE asked for (R15, R16). -/
def chargeCancelled (c : Configuration) (i n : Nat) (r : ChrReason) (p : Part) : Part :=
  askIsolate c i (offerChr n r (p.modifyOven i fun o => { o with inFlight := false }))

/-- A place whose charge start is cancelled. -/
def Place.chargeCancelled (c : Configuration) (x : Option Context) (l : SwitchInput → Bool) (pl : Place) : Place :=
  ({ pl with oven := { pl.oven with inFlight := false } } : Place).isolateAsked c x l

theorem Part.Shows.chargeCancelled (h : p.Shows i pl x l) (c : Configuration) (n : Nat) (r : ChrReason)
    (hx : ∀ y, x = some y → y.oven ≠ pl.oven.number) :
    (chargeCancelled c i n r p).Shows i (pl.chargeCancelled c x l) x l :=
  ((h.modifyOven fun o => { o with inFlight := false }).offer _ _ _).askIsolate c fun y hy => .inl (hx y hy)

theorem OvenOnly.chargeCancelled (h : p.Shows i pl x l) (hn : pl.oven.number = n)
    (hx : ∀ y, x = some y → y.oven ≠ pl.oven.number) (c : Configuration) (r : ChrReason) :
    OvenOnly i p (chargeCancelled c i n r p) := by
  have freed := h.modifyOven fun o => { o with inFlight := false }
  have freeing : OvenOnly i p (p.modifyOven i fun o => { o with inFlight := false }) := .modifyOven i p _ fun _ => rfl
  refine (freeing.trans (.chr (n := n) ?_ r)).trans (.askIsolate (freed.offer _ _ _) fun y hy => .inl (hx y hy))
  rw [numberAt_some freed.place, ← hn]

/-- With room in the queue the CHR is in it after. -/
theorem chargeCancelled_chr (h : p.Shows i pl x l) (hn : pl.oven.number = n)
    (hx : ∀ y, x = some y → y.oven ≠ pl.oven.number) (c : Configuration) (r : ChrReason) (hroom : p.bli.queue.length < 8) :
    ∃ e ∈ (chargeCancelled c i n r p).bli.queue, e.kind = .chr ∧ e.subject = .oven n ∧ e.payload = [byteOf n, byteOf r.code] := by
  let offered := offerChr n r (p.modifyOven i fun o => { o with inFlight := false })
  have shown : offered.Shows i { pl with oven := { pl.oven with inFlight := false } } x l :=
    (h.modifyOven fun o => { o with inFlight := false }).offer .chr (.oven n) [byteOf n, byteOf r.code]
  obtain ⟨e, he, kind, subject, payload⟩ :=
    offer_taken (offer_taken_of_room (b := p.bli) hroom .chr (.oven n) [byteOf n, byteOf r.code])
  have line := (OvsOnly.askIsolate (c := c) shown fun y hy => .inl (hx y hy)).line n (by rw [numberAt_some shown.place, ← hn])
  exact ⟨e, line.stays he (by simp [kind]), kind, subject, payload⟩

/-- The place when its permits are none of the decision's. -/
theorem Place.chargeCancelled_eq (h : ∀ pl' : Place, pl'.oven.number = pl.oven.number → pl'.ready c x = false)
    (hP : pl.doorP.state ≠ .released) (hC : pl.doorC.state ≠ .released) :
    pl.chargeCancelled c x l = { pl with
      oven := { pl.oven with inFlight := false }
      offtake := pl.offtake.callMode c (offtakeLevelsOf l) .isolate } := by
  rw [Place.chargeCancelled, Place.isolateAsked, Place.settled]
  exact Place.permits_kept_of_not_ready (h _ rfl) hP hC

end

/-! ## The timers of the offtake (R74, R88, R91) -/

/-- The record at the end of the aspirate hold (R81, R91, R92). -/
theorem Offtake.holdEnded_eq (c : Configuration) (o : Offtake) : ({ o.enterControl c with aspirateTimer := .stopped } : Offtake)
    = if o.sensorFailed then
        { o with
          mode := .hold, sub := none, next := none, awaits := none, valve := c.uFail, capOpen := false
          entryPending := false, valveTimer := .stopped, capTimer := .stopped, highTimer := .stopped
          aspirateTimer := .stopped }
      else
        { o with
          mode := .pi, sub := none, next := none, awaits := none, valve := max c.uMin (min c.uMax o.valve)
          capOpen := false, entryPending := true, valveTimer := .stopped, capTimer := .stopped
          aspirateTimer := .stopped } := by
  unfold Offtake.enterControl
  split
  · rfl
  · simp only [Offtake.enterPi, clampBand_eq]

/-- Settles O44, by the reports of a failed motion and the end of the aspirate hold. -/
theorem offtakeTimersExpire : Obligations.OfftakeTimersExpire := by
  intro s c n i pl ho o becomes valveFailed capFailed
  have valveRuns : s.Runs (.valveMotionTimerExpiry n) (valveTimerExpires c i s.part) := ovenTimer_runs ho valveTimerExpires
  have capRuns : s.Runs (.capMotionTimerExpiry n) (capTimerExpires c i s.part) := ovenTimer_runs ho capTimerExpires
  have highRuns : s.Runs (.pressureHighTimerExpiry n) (highTimerExpires c i s.part) := ovenTimer_runs ho highTimerExpires
  have holdRuns : s.Runs (.aspirateHoldExpiry n) (aspirateHoldExpires c i s.part) := ovenTimer_runs ho aspirateHoldExpires
  have hpl := ho.2.2.1
  have valve (h : o.valveTimer.active = true) :
      valveTimerExpires c i s.part = tellOfftake c i valveFailed (some .valveFault) s.part := by
    simp only [valveTimerExpires, hpl, o, h, if_true, valveFailed]
  have cap (h : o.capTimer.active = true) :
      capTimerExpires c i s.part = tellOfftake c i capFailed (some .capFault) s.part := by
    simp only [capTimerExpires, hpl, o, h, if_true, capFailed]
  refine ⟨fun hn hP hC => ⟨fun ht hf => ?_, fun ht hf => ?_, fun ht hf hm hnext hsub => ?_, fun ht => ?_⟩,
    fun x hx hxn hstage hpi hm hnext hsub => ?_, fun ht => ?_, fun ht => ?_, fun ht => ?_, fun ht => ?_, fun ht => ?_⟩
  · exact ⟨_, valveRuns.congr (valve ht), motionTimer_fails ho hn hP hC hf valveFailed .valveFault⟩
  · exact ⟨_, capRuns.congr (cap ht), motionTimer_fails ho hn hP hC hf capFailed .capFault⟩
  · let alarmed := raiseOven c i .capFault (commitOfftake i capFailed s.part)
    let place := (pl.withOfftake capFailed).held .capFault true
    have shown : alarmed.Shows i place _ _ := (ho.shows.commitOfftake capFailed).raise c .capFault
    have quiet : OvsOnly i s.part alarmed := (OvsOnly.commitOfftake i capFailed s.part).trans (.raise c i .capFault _)
    have elsewhere := ho.ne hn
    have not_ready (pl' : Place) (e : pl'.oven.number = place.oven.number) : pl'.ready c s.part.psq.context = false :=
      hn.not_ready (e.trans ho.2.2.2)
    have report : reportOf pl.offtake capFailed = some .aspirateFailed := by
      simp [reportOf, capFailed, o, hm, hnext, hsub]
    have cancelled := shown.chargeCancelled c n .cap elsewhere
    have same : permitPass c i (chargeCancelled c i n .cap alarmed) = chargeCancelled c i n .cap alarmed := by
      refine permitPass_of_noneReleased cancelled (not_ready _ (Place.isolateAsked_number ..)) fun side => ?_
      rw [Place.chargeCancelled_eq not_ready hP hC]
      cases side
      · exact hP
      · exact hC
    have meaning : capTimerExpires c i s.part = chargeCancelled c i n .cap alarmed := by
      rw [cap ht, tellOfftake_alarmed hpl report, tellReport, chargeFails, shown.place]
      have flag : place.oven.inFlight = true := hf
      have number : place.oven.number = n := ho.2.2.2
      simp only [flag, if_true, number]
      exact same
    have frame := quiet.frame.trans (.chargeCancelled shown ho.2.2.2 elsewhere c .cap)
    obtain ⟨mode, next, -⟩ := Offtake.callIsolate c (offtakeLevelsOf (s.part.level i)) capFailed
    refine ⟨_, _, capRuns.congr meaning, frame, cancelled.place, ?_⟩
    rw [Place.chargeCancelled_eq not_ready hP hC]
    refine ⟨rfl, mode, next, Offtake.callIsolate_valve c _ (fun e => nomatch hnext.symm.trans e), rfl, rfl, fun hroom => ?_⟩
    refine chargeCancelled_chr shown ho.2.2.2 elsewhere c .cap ?_
    have := (quiet.line n (by rw [numberAt_some hpl, ho.2.2.2])).length_le
    omega
  · let ended : Offtake := { pl.offtake.enterControl c with aspirateTimer := .stopped }
    have meaning : aspirateHoldExpires c i s.part = settleOfftake c i ended s.part := by
      have active : pl.offtake.aspirateTimer.active = true := ht
      simp only [aspirateHoldExpires, hpl, active, if_true, ended]
    have same : pl.oven.alarms ||| 0 = pl.oven.alarms := BitVec.or_zero
    refine ⟨_, holdRuns.congr meaning, .settle c i ended s.part, ?_⟩
    rw [(ho.shows.settle c ended).place, Place.settled, ho.permits_eq (pl' := pl.withOfftake ended) hn rfl hP hC,
      show ended = _ from Offtake.holdEnded_eq c pl.offtake, same]
    rfl
  · subst hxn
    have valveReport : reportOf pl.offtake valveFailed = some .isolateFailed := by
      have hsub' : pl.offtake.sub ≠ some .failed := hsub
      simp [reportOf, valveFailed, o, hm, hnext, hsub']
    have capReport : reportOf pl.offtake capFailed = some .isolateFailed := by
      have hsub' : pl.offtake.sub ≠ some .failed := hsub
      simp [reportOf, capFailed, o, hm, hnext, hsub']
    exact ⟨fun ht => ⟨_, valveRuns.congr (valve ht),
        motionTimer_aborts ho hx rfl hstage hpi valveReport .valveFault (by decide) (by decide) (by decide)⟩,
      fun ht => ⟨_, capRuns.congr (cap ht),
        motionTimer_aborts ho hx rfl hstage hpi capReport .capFault (by decide) (by decide) (by decide)⟩⟩
  · have meaning : highTimerExpires c i s.part
        = raiseOven c i .pressureHigh (commitOfftake i { o with highTimer := .stopped } s.part) := by
      simp only [highTimerExpires, hpl, o, ht, if_true]
    exact ⟨_, highRuns.congr meaning, (OvenOnly.commitOfftake i _ s.part).trans (.raise c i .pressureHigh _),
      ((ho.shows.commitOfftake _).raise c .pressureHigh).place⟩
  · exact valveRuns.ignores (by simp [valveTimerExpires, hpl, show pl.offtake.valveTimer.active = false from ht])
  · exact capRuns.ignores (by simp [capTimerExpires, hpl, show pl.offtake.capTimer.active = false from ht])
  · exact highRuns.ignores (by simp [highTimerExpires, hpl, show pl.offtake.highTimer.active = false from ht])
  · exact holdRuns.ignores (by simp [aspirateHoldExpires, hpl, show pl.offtake.aspirateTimer.active = false from ht])

end Sys2Proof.Machine

/-! SUPPORT. The doors' switches (R59 to R63) and what they reach in a charge start and in a push (R16, R40 to R55). -/

namespace Sys2Proof.Machine

open Sys2Proof

/-! ## The door's own record (R59, R60) -/

/-- The state of two levels: RELEASED for SEALED where the permit stands (R59, R63). -/
def DoorState.ofLevels (ready : Prop) [Decidable ready] (present latched : Bool) : DoorState :=
  if Claims.doorOf present latched = .sealed ∧ ready then .released else Claims.doorOf present latched

section
variable {ready : Prop} [Decidable ready] {present latched : Bool}

theorem DoorState.ofLevels_levels : (DoorState.ofLevels ready present latched).presentLevel = present
    ∧ (DoorState.ofLevels ready present latched).latchedLevel = latched := by
  by_cases h : ready <;> cases present <;> cases latched <;>
    simp [DoorState.ofLevels, Claims.doorOf, h, DoorState.presentLevel, DoorState.latchedLevel]

/-- A state of two levels is latched just in SEALED. -/
theorem DoorState.ofLevels_isLatched :
    (DoorState.ofLevels ready present latched).isLatched = true ↔ DoorState.ofLevels ready present latched = .sealed := by
  by_cases h : ready <;> cases present <;> cases latched <;>
    simp [DoorState.ofLevels, Claims.doorOf, h, DoorState.isLatched]

theorem DoorState.ofLevels_released (h : DoorState.ofLevels ready present latched = .released) : ready := by
  by_contra hr
  simp only [DoorState.ofLevels, hr, and_false, if_false, Claims.doorOf] at h
  cases present <;> cases latched <;> simp at h

end

/-- The door record that a change of a present or latched switch leads to, from the state of the new levels. -/
def Door.switchedTo (c : Configuration) (leak : Bool) (state : DoorState) (d : Door) : Door :=
  Claims.doorEntered c leak (d.resealWanted && Decidable.decide (state ≠ .off)) state

section
variable {c : Configuration} {ready leak v : Bool} {d : Door}

theorem Door.presentChange_eq (hv : d.state.presentLevel = !v) : d.presentChange c ready leak v
    = d.switchedTo c leak (.ofLevels (ready = true) v d.state.latchedLevel) := by
  obtain ⟨state, permit, wanted, _, _, _, _⟩ := d
  cases state <;> cases v <;> simp [DoorState.presentLevel] at hv <;> cases ready <;>
    simp [Door.presentChange, Door.switchedTo, DoorState.ofLevels, Claims.doorOf, DoorState.latchedLevel, Door.enterFault,
      Door.enterOff, Door.enterUnlatched, Door.enterSealed, Door.enterReleased, Door.decide, DoorState.isLatched,
      Door.stopTimers, Claims.doorEntered, seconds, spellMs, Nat.mul_assoc]

theorem Door.latchedChange_eq (hv : d.state.latchedLevel = !v) : d.latchedChange c ready leak v
    = d.switchedTo c leak (.ofLevels (ready = true) d.state.presentLevel v) := by
  obtain ⟨state, permit, wanted, _, _, _, _⟩ := d
  cases state <;> cases v <;> simp [DoorState.latchedLevel] at hv <;> cases ready <;>
    simp [Door.latchedChange, Door.switchedTo, DoorState.ofLevels, Claims.doorOf, DoorState.presentLevel, Door.enterFault,
      Door.enterOff, Door.enterUnlatched, Door.enterSealed, Door.enterReleased, Door.decide, DoorState.isLatched,
      Door.stopTimers, Claims.doorEntered, seconds, spellMs, Nat.mul_assoc]

end

theorem Place.ready_iff (c : Configuration) (p : Part) (pl : Place) :
    pl.ready c p.psq.context = true ↔ Claims.releases c p pl := by
  unfold Claims.releases Place.ready
  cases p.psq.context with
  | none => simp
  | some x => cases hv : pl.offtake.pressure <;> simp [and_assoc, and_comm, and_left_comm]

/-! ## The alarms of a change (R18, R61, R62) -/

theorem doorForced_iff (ph : Phase) {old new : DoorState} (h : new ≠ old) :
    doorForced (ph == .charging) old new = true ↔ Claims.forces ph old new := by
  cases old <;> cases new <;> simp [doorForced, DoorState.isLatched, Claims.forces] at h ⊢

/-- A place with alarms raised in order. -/
def Place.raised (alarms : List OvenAlarm) (pl : Place) : Place := alarms.foldl (fun pl a => pl.held a true) pl

theorem Place.raised_eq (alarms : List OvenAlarm) (pl : Place) : pl.raised alarms
    = pl.withAlarms (alarms.foldl (fun set a => set ||| ovenBit a) pl.oven.alarms) := by
  induction alarms generalizing pl with
  | nil => rfl
  | cons a rest ih => exact ih (pl.held a true)

theorem Part.Shows.raises {p : Part} {i : Nat} {pl : Place} {x : Option Context} {l : SwitchInput → Bool}
    (h : p.Shows i pl x l) (c : Configuration) (alarms : List OvenAlarm) :
    (alarms.foldl (fun p a => raiseOven c i a p) p).Shows i (pl.raised alarms) x l := by
  induction alarms generalizing p pl with
  | nil => exact h
  | cons a rest ih => exact ih (h.raise c a)

theorem OvsOnly.raises (c : Configuration) (i : Nat) (alarms : List OvenAlarm) (p : Part) :
    OvsOnly i p (alarms.foldl (fun p a => raiseOven c i a p) p) := by
  induction alarms generalizing p with
  | nil => exact .refl i p
  | cons a rest ih => exact (OvsOnly.raise c i a p).trans (ih _)

/-- A place with a door brought to another record, RESEAL held and the alarms of the change raised. -/
def Place.doorChanged (pl : Place) (side : Side) (d : Door) : Place :=
  (pl.doorStored side d).raised
    (doorChangeAlarms (pl.oven.kept.phase == .charging) side (pl.door side).state d.state)

theorem Place.doorChanged_eq {pl : Place} {side : Side} {d : Door} (h : d.state ≠ (pl.door side).state) :
    pl.doorChanged side d = { pl.withDoor side d with
      oven := { pl.oven with
        alarms := Claims.held pl.oven.alarms (Claims.resealBit side) d.resealWanted
          ||| (if d.state = .fault then 0x0100 else 0)
          ||| (if Claims.forces pl.oven.kept.phase (pl.door side).state d.state then Claims.forcedBit side else 0) } } := by
  have fault : (d.state = .fault ∧ (pl.door side).state ≠ .fault) ↔ d.state = .fault :=
    and_iff_left_of_imp fun e k => h (e.trans k.symm)
  have reseal : heldIn pl.oven.alarms (resealAlarm side) d.resealWanted
      = Claims.held pl.oven.alarms (Claims.resealBit side) d.resealWanted := by cases side <;> rfl
  have forced : ovenBit (forcedAlarm side) = Claims.forcedBit side := by cases side <;> rfl
  have switch : ovenBit .doorSwitch = 0x0100 := rfl
  simp only [Place.doorChanged, Place.raised_eq, doorChangeAlarms, doorForced_iff _ h, fault, Place.doorStored_oven, reseal,
    List.foldl_append]
  have raisedIf (on : Prop) [Decidable on] (a : OvenAlarm) (set : Word16) :
      (if on then [a] else []).foldl (fun set a => set ||| ovenBit a) set = set ||| if on then ovenBit a else 0 := by
    split
    · rfl
    · exact BitVec.or_zero.symm
  rw [raisedIf, raisedIf, forced, switch]
  simp [Place.doorStored, Place.held, Place.withAlarms]

/-! ## What a push makes of a door's change (R40, R41, R43, R50, R51, R55) -/

theorem readyToArm_iff (pl : Place) (x : Context) : readyToArm pl x = true ↔ pl.doorP.state = .off ∧ pl.doorC.state = .off
    ∧ pl.offtake.mode = .isolate ∧ pl.offtake.sub = some .reached ∧ x.spotDone = true := by
  simp [readyToArm, Place.bothOff, and_assoc]

section
variable {c : Configuration} {i : Nat} {p q : Part} {pl : Place} {x : Context} {l : SwitchInput → Bool} {side : Side}

/-- The push unit besides the oven, of an `OvenOnly` change after another. -/
theorem OvenOnly.withContext (h : OvenOnly i p q) (y : Option Context) :
    OvenOnly i { p with psq := { p.psq with context := y } } { q with psq := { q.psq with context := y } } := by
  rw [h.psq_eq]
  exact h.withPsq _

/-- Arming with both doors OFF leaves the place (R40). -/
theorem arms_takes (h : q.Shows i pl (some x) l) (hp : OvenOnly i p q) (hP : pl.doorP.state = .off)
    (hC : pl.doorC.state = .off) (c : Configuration) :
    OvenOnly i { p with psq := { p.psq with context := some x.arm } } (setContext c i (some x.arm) q)
      ∧ (setContext c i (some x.arm) q).places[i]? = some pl := by
  refine ⟨(hp.withContext _).trans (setContext_frame ..), ?_⟩
  rw [(h.setContext c _).place, Place.permits_of_decide]
  intro side
  refine Door.decide_away (.inr (.inl ?_))
  cases side
  · exact hP
  · exact hC

/-- The context of ARMED gone back to PREPARE (R41). -/
def Context.backToPrepare (x : Context) : Context := { x with stage := .prepare, armedLimit := .stopped, permit := .stopped }

/-- A door UNLATCHED again in ARMED (R41, R43). -/
theorem returnToPrepare_takes (h : q.Shows i pl (some x) l) (hp : OvenOnly i p q) (hi : placeOf c x.oven = some i)
    (hd : Claims.away (pl.door side)) :
    (x.prepareLimit ≠ .expired → ∃ pl', (returnToPrepare c i x q).places[i]? = some pl'
        ∧ OvenOnly i { p with psq := { p.psq with context := some x.backToPrepare } } (returnToPrepare c i x q)
        ∧ pl'.door side = pl.door side ∧ pl'.oven.kept = pl.oven.kept)
    ∧ (x.prepareLimit = .expired → x.piRequested = false →
        Claims.aborts c i pl x .prepareTime p (returnToPrepare c i x q)) := by
  have back := h.setContext c (some x.backToPrepare)
  have frame : OvenOnly i { p with psq := { p.psq with context := some x.backToPrepare } }
      (setContext c i (some x.backToPrepare) q) := (hp.withContext _).trans (setContext_frame ..)
  constructor
  · intro hlimit
    have meaning : returnToPrepare c i x q = setContext c i (some x.backToPrepare) q := if_neg hlimit
    rw [meaning]
    refine ⟨_, back.place, frame, ?_, Place.permits_kept ..⟩
    rw [Place.permits_door, Door.decide_away hd]
  · intro hlimit hpi
    have meaning : returnToPrepare c i x q = abort c .prepareTime (setContext c i (some x.backToPrepare) q) := if_pos hlimit
    have aborted := abort_aborts (c := c) back hi hpi .prepareTime
    rw [meaning]
    refine aborted.before (.permits c _ l pl) ((PushOnly.of_ovenOnly hp).trans (.of_ovenAndPush (.setContext ..))) frame.qou_eq ?_ ?_ rfl
    · rw [frame.psq_eq]
    · exact frame.level_eq i .capClosed

/-- The end of CLOSING with both doors on (R50). -/
theorem closingEnds_takes (h : q.Shows i pl (some x) l) (hp : OvenOnly i p q) (hx : givesNoPermit (some x))
    (hr : (pl.door side).state ≠ .released) (c : Configuration) :
    ∃ pl', (setContext c i none (setPhase c i .empty q)).places[i]? = some pl'
      ∧ OvenOnly i { p with psq := { p.psq with context := none } } (setContext c i none (setPhase c i .empty q))
      ∧ pl'.door side = pl.door side ∧ pl'.oven.kept = { pl.oven.kept with phase := .empty } := by
  have emptied : pl.DropsPermits (pl.phaseSet c (some x) l .empty) := .phaseSet (hx.not_ready c _)
  have ended := emptied.trans (.permits (l := l) (givesNoPermit_none.not_ready c _))
  refine ⟨_, ((h.phaseSet c .empty).setContext c none).place, ?_, ended.door_eq hr, by simp⟩
  exact ((hp.trans (.setPhase c i .empty q)).withContext _).trans (setContext_frame ..)

/-- A door that leaves its latched states in RETURN takes the request for PI back (R55). -/
theorem returnTakenBack_takes (h : q.Shows i pl (some x) l) (hp : OvenOnly i p q) (hstage : x.stage = .returning)
    (hr : (pl.door side).state ≠ .released) (c : Configuration) :
    ∃ pl', (askIsolate c i (modifyContext (fun x => { x with piRequested := false }) q)).places[i]? = some pl'
      ∧ OvenOnly i { p with psq := { p.psq with context := some { x with piRequested := false } } }
          (askIsolate c i (modifyContext (fun x => { x with piRequested := false }) q))
      ∧ pl'.door side = pl.door side ∧ pl'.oven.kept = pl.oven.kept
      ∧ pl'.offtake.mode = .isolate ∧ pl'.offtake.next = none := by
  let x' : Context := { x with piRequested := false }
  have taken : (modifyContext (fun x => { x with piRequested := false }) q).Shows i pl (some x') l := h.modifyContext _
  have noPermit : givesNoPermit (some x') := fun y hy => by cases hy; simp [x', hstage]
  have notPrepare : ∀ y, some x' = some y → y.oven ≠ pl.oven.number ∨ y.stage ≠ .prepare :=
    fun y hy => .inr (noPermit y hy).1
  have same : modifyContext (fun x => { x with piRequested := false }) q = { q with psq := { q.psq with context := some x' } } := by
    simp [modifyContext, h.context, x']
  have drops : pl.DropsPermits (pl.isolateAsked c (some x') l) := .isolateAsked c _ l pl fun _ _ => noPermit.not_ready c _
  obtain ⟨mode, next⟩ := Place.isolateAsked_offtake c (some x') l pl
  refine ⟨_, (taken.askIsolate c notPrepare).place, ?_, drops.door_eq hr, Place.isolateAsked_kept .., mode, next⟩
  exact (hp.withContext (some x')).trans (same ▸ OvenOnly.askIsolate taken notPrepare)

/-- The push of the oven takes the change of a door by its stage. -/
theorem psqDoorChange_takes {old new : DoorState} (h : q.Shows i pl (some x) l) (hp : OvenOnly i p q)
    (hi : placeOf c x.oven = some i) (hnew : (pl.door side).state = new)
    (hback : old = .off → new = .unlatched ∨ new = .fault)
    (hr : new = .released → x.stage = .prepare ∨ x.stage = .armed) :
    Claims.pushTakesDoor c i side old pl x p (psqDoorChange c i old new x q) := by
  have same : OvenOnly i p q ∧ q.places[i]? = some pl := ⟨hp, h.place⟩
  have on_iff : pl.bothLatched = true ↔ (pl.doorP.state = .sealed ∨ pl.doorP.state = .leaking)
      ∧ (pl.doorC.state = .sealed ∨ pl.doorC.state = .leaking) := by
    rw [bothLatched_iff, isLatched_iff, isLatched_iff]
  have fault (hpi : x.piRequested = false) : Claims.aborts c i pl x .doorFault p (abort c .doorFault q) :=
    (abort_aborts (c := c) h hi hpi .doorFault).before (.refl pl) (.of_ovenOnly hp) hp.qou_eq (by rw [hp.psq_eq])
      (hp.level_eq i .capClosed) rfl
  have notReleased (h₁ : x.stage ≠ .prepare) (h₂ : x.stage ≠ .armed) : new ≠ .released := fun e => (hr e).elim h₁ h₂
  subst hnew
  refine ⟨fun hs hf hpi => ?_, fun hs hf arms => ?_, fun hs hf idle => ?_, fun hs hf ho hlimit => ?_,
    fun hs hf ho hlimit hpi => ?_, fun hs hf ho => ?_, fun hs => ?_, fun hs on => ?_, fun hs open_ => ?_,
    fun hs hpi away => ?_, fun hs hpi on hm hn => ?_, fun hs hpi latched => ?_, fun hs hpi open_ => ?_⟩
  · have meaning : psqDoorChange c i old (pl.door side).state x q = abort c .doorFault q := by
      rcases hs with e | e <;> simp [psqDoorChange, e, hf]
    rw [meaning]
    exact fault hpi
  · rw [show psqDoorChange c i old (pl.door side).state x q = setContext c i (some x.arm) q by
      simp [psqDoorChange, hs, hf, testArmed_eq h hi, (readyToArm_iff pl x).mpr arms]]
    exact arms_takes h hp arms.1 arms.2.1 c
  · rw [show psqDoorChange c i old (pl.door side).state x q = q by
      simp [psqDoorChange, hs, hf, testArmed_eq h hi, mt (readyToArm_iff pl x).mp idle]]
    exact same
  · rw [show psqDoorChange c i old (pl.door side).state x q = returnToPrepare c i x q by
      simp [psqDoorChange, hs, hf, ho]]
    obtain ⟨pl', place, frame, door, kept⟩ := (returnToPrepare_takes h hp hi (.inl ((hback ho).resolve_right hf))).1 hlimit
    exact ⟨frame, pl', place, door, kept⟩
  · rw [show psqDoorChange c i old (pl.door side).state x q = returnToPrepare c i x q by
      simp [psqDoorChange, hs, hf, ho]]
    exact (returnToPrepare_takes h hp hi (side := side) (.inl ((hback ho).resolve_right hf))).2 hlimit hpi
  · rw [show psqDoorChange c i old (pl.door side).state x q = q by simp [psqDoorChange, hs, hf, ho]]
    exact same
  · rw [show psqDoorChange c i old (pl.door side).state x q = q by simp [psqDoorChange, hs]]
    exact same
  · rw [show psqDoorChange c i old (pl.door side).state x q = setContext c i none (setPhase c i .empty q) by
      simp [psqDoorChange, hs, closingDoorsTest, h.context, h.place, on_iff.mpr on]]
    obtain ⟨pl', place, frame, door, kept⟩ := closingEnds_takes h hp (fun y hy => by cases hy; simp [hs])
      (notReleased (by simp [hs]) (by simp [hs])) c
    exact ⟨frame, pl', place, door, kept⟩
  · rw [show psqDoorChange c i old (pl.door side).state x q = q by
      simp [psqDoorChange, hs, closingDoorsTest, h.context, h.place, mt on_iff.mp open_]]
    exact same
  · have unlatched : (pl.door side).state.isLatched = false := Bool.eq_false_iff.mpr (mt (isLatched_iff _).mp away)
    rw [show psqDoorChange c i old (pl.door side).state x q
        = askIsolate c i (modifyContext (fun x => { x with piRequested := false }) q) by
      simp [psqDoorChange, hs, hpi, unlatched]]
    obtain ⟨pl', place, frame, door, kept, mode, next⟩ := returnTakenBack_takes h hp hs
      (notReleased (by simp [hs]) (by simp [hs])) c
    refine ⟨⟨frame, pl', place, door, kept⟩, fun pl₂ h₂ => ?_⟩
    rw [place] at h₂
    cases h₂
    exact ⟨mode, next⟩
  · rw [show psqDoorChange c i old (pl.door side).state x q = askPi c i q by
      simp [psqDoorChange, hs, hpi, returnDoorsTest_eq h, on_iff.mpr on]]
    obtain ⟨frame, pending, -, pl', place, -, -, asked⟩ :=
      askPi_piAsked (c := c) h (fun y hy => by cases hy; simp [hs])
    refine ⟨(PushOnly.of_ovenOnly hp).trans (.of_ovenAndPush frame), (OvenOnly.qou_eq frame).trans hp.qou_eq,
      pending.trans (by rw [hp.psq_eq]), pl', place, piAsked_congr rfl rfl (hp.level_eq i .capClosed) (asked hm hn)⟩
  · rw [show psqDoorChange c i old (pl.door side).state x q = q by
      simp [psqDoorChange, hs, hpi, (isLatched_iff _).mpr latched, returnDoorsTest_eq h]]
    exact same
  · rw [show psqDoorChange c i old (pl.door side).state x q = q by
      simp [psqDoorChange, hs, hpi, returnDoorsTest_eq h, mt on_iff.mp open_]]
    exact same

end

/-! ## A change told (R16) -/

section
variable {c : Configuration} {i : Nat} {p : Part} {pl : Place} {x : Option Context} {l : SwitchInput → Bool}
  {old new : DoorState}

/-- A charge start in flight is cancelled by a door that is not latched, and by no other. -/
theorem cancelOnDoor_eq (h : p.Shows i pl x l) : cancelOnDoor c i new p
    = if pl.oven.inFlight = true ∧ new.isLatched = false then chargeCancelled c i pl.oven.number .doors p else p := by
  simp [cancelOnDoor, h.place, chargeCancelled]

/-- With no push of the oven the OCT alone is told. -/
theorem tellDoor_noPush (h : p.Shows i pl x l) (hne : new ≠ old) (hx : ∀ y, x = some y → y.oven ≠ pl.oven.number) :
    tellDoor c i old new p = cancelOnDoor c i new p := by
  have context : (cancelOnDoor c i new p).psq.context = x := by
    rw [cancelOnDoor_eq h]
    split
    · exact (h.chargeCancelled c _ _ hx).context
    · exact h.context
  simp only [tellDoor, hne.symm, if_false, h.place, context]
  cases x with
  | none => rfl
  | some y => exact if_neg (hx y rfl)

/-- In a push with no charge start in flight the PSQ alone is told. -/
theorem tellDoor_push {y : Context} (h : p.Shows i pl (some y) l) (hne : new ≠ old) (hy : y.oven = pl.oven.number)
    (hf : pl.oven.inFlight = false) : tellDoor c i old new p = psqDoorChange c i old new y p := by
  have uncancelled : cancelOnDoor c i new p = p := by simp [cancelOnDoor_eq h, hf]
  simp [tellDoor, hne.symm, h.place, uncancelled, h.context, hy]

/-- A door brought to another state: the record stored, the alarms raised, and the change told. -/
theorem changeDoor_eq (h : p.Shows i pl x l) (side : Side) (d : Door) :
    ∃ alarmed, OvsOnly i p alarmed ∧ alarmed.Shows i (pl.doorChanged side d) x l
      ∧ changeDoor c i side d p = tellDoor c i (pl.door side).state d.state alarmed := by
  refine ⟨_, (OvsOnly.commitDoor c i side d p).trans (.raises c i _ _),
    (h.commitDoor c side d).raises c (doorChangeAlarms (pl.oven.kept.phase == .charging) side (pl.door side).state d.state), ?_⟩
  simp only [changeDoor, h.place]

end

/-! ## The switches themselves -/

theorem State.Spell.level {s : State} {i : Nat} {input : SwitchInput} {v : Bool} (h : s.Spell i input v) :
    s.part.level i input = !v := by
  obtain ⟨x, hx, -, -, level⟩ := h
  simp [Part.level, hx, level]

/-- A present or latched level set leaves the leak lines. -/
theorem withLevel_leak (p : Part) (i : Nat) {input : SwitchInput} {side : Side} (v : Bool)
    (h : input = .present side ∨ input = .latched side) :
    (p.withLevel i input v).level i (.leak side) = p.level i (.leak side) := by
  have kept (y : PlaceInputs) (z : Input) : (y.set input z).get (.leak side) = y.get (.leak side) := by
    rcases h with rfl | rfl <;> cases side <;> rfl
  simp only [Part.level, Part.withLevel, List.getElem?_modify_eq]
  cases p.fls.inputs[i]? <;> simp [kept]

/-- The state of a door after a change of its present or latched line (R59, R60, R63). -/
def doorStateAfter (c : Configuration) (p : Part) (i : Nat) (pl : Place) (side : Side) (input : SwitchInput) (v : Bool) :
    DoorState :=
  .ofLevels (Claims.releases c p pl) (if input = .present side then v else p.level i (.present side))
    (if input = .latched side then v else p.level i (.latched side))

section
variable {s : State} {c : Configuration} {n i : Nat} {pl : Place} {side : Side} {input : SwitchInput} {v : Bool}

/-- The changed line's level differs from the one the old state stands for. -/
theorem doorStateAfter_ne (spell : s.Spell i input v) (hin : input = .present side ∨ input = .latched side)
    (agrees : (pl.door side).Agrees (s.part.level i (.present side)) (s.part.level i (.latched side))) :
    doorStateAfter c s.part i pl side input v ≠ (pl.door side).state := by
  obtain ⟨-, present, latched, -⟩ := agrees
  have old := spell.level
  intro e
  obtain ⟨newPresent, newLatched⟩ := DoorState.ofLevels_levels (ready := Claims.releases c s.part pl)
    (present := if input = .present side then v else s.part.level i (.present side))
    (latched := if input = .latched side then v else s.part.level i (.latched side))
  rw [doorStateAfter] at e
  rw [e] at newPresent newLatched
  rcases hin with rfl | rfl
  · rw [← present, old, if_pos rfl] at newPresent
    simp at newPresent
  · rw [← latched, old, if_pos rfl] at newLatched
    simp at newLatched

/-- An OFF door one of whose lines changes is UNLATCHED or in FAULT (R60). -/
theorem doorStateAfter_of_off (spell : s.Spell i input v) (hin : input = .present side ∨ input = .latched side)
    (agrees : (pl.door side).Agrees (s.part.level i (.present side)) (s.part.level i (.latched side)))
    (hoff : (pl.door side).state = .off) :
    doorStateAfter c s.part i pl side input v = .unlatched ∨ doorStateAfter c s.part i pl side input v = .fault := by
  obtain ⟨-, present, latched, -⟩ := agrees
  rw [hoff] at present latched
  have old := spell.level
  rcases hin with rfl | rfl
  · rw [present] at old
    have hv : v = true := by simpa [DoorState.presentLevel] using old
    simp [doorStateAfter, DoorState.ofLevels, Claims.doorOf, hv, latched, DoorState.latchedLevel]
  · rw [latched] at old
    have hv : v = true := by simpa [DoorState.latchedLevel] using old
    simp [doorStateAfter, DoorState.ofLevels, Claims.doorOf, hv, present, DoorState.presentLevel]

/-- A door line's spell ends: the door goes to the state of its two levels, and the change is told. -/
theorem doorSwitch_runs (ho : s.HasOven c n i pl) (spell : s.Spell i input v)
    (hin : input = .present side ∨ input = .latched side)
    (agrees : (pl.door side).Agrees (s.part.level i (.present side)) (s.part.level i (.latched side))) :
    ∃ alarmed, s.Runs (.debounceExpiry (i + 1) input)
        (tellDoor c i (pl.door side).state (doorStateAfter c s.part i pl side input v) alarmed)
      ∧ OvsOnly i (s.part.withLevel i input v) alarmed
      ∧ alarmed.Shows i (pl.doorChanged side ((pl.door side).switchedTo c (s.part.level i (.leak side))
          (doorStateAfter c s.part i pl side input v))) s.part.psq.context ((s.part.withLevel i input v).level i) := by
  let p := s.part.withLevel i input v
  let state := doorStateAfter c s.part i pl side input v
  let d' := (pl.door side).switchedTo c (s.part.level i (.leak side)) state
  have shown : p.Shows i pl s.part.psq.context (p.level i) := Part.shows_self ho.2.2.1
  obtain ⟨alarmed, quiet, shows, meaning⟩ := changeDoor_eq (c := c) shown side d'
  refine ⟨alarmed, (debounce_runs ho.1 spell).congr ?_, quiet, shows⟩
  obtain ⟨-, present, latched, -⟩ := agrees
  have old := spell.level
  have delivered : deliver c i input v p = changeDoor c i side d' p := by
    rcases hin with rfl | rfl
    · have switched := Door.presentChange_eq (c := c) (ready := pl.ready c s.part.psq.context)
        (leak := s.part.level i (.leak side)) (v := v) (d := pl.door side) (by rw [← present, old])
      simp [deliver, confirmationOf, doorSwitch, shown.place, shown.permitReady, p, withLevel_leak, switched, d', state,
        doorStateAfter, Place.ready_iff, latched]
    · have switched := Door.latchedChange_eq (c := c) (ready := pl.ready c s.part.psq.context)
        (leak := s.part.level i (.leak side)) (v := v) (d := pl.door side) (by rw [← latched, old])
      simp [deliver, confirmationOf, doorSwitch, shown.place, shown.permitReady, p, withLevel_leak, switched, d', state,
        doorStateAfter, Place.ready_iff, present]
  exact delivered.trans meaning

end

/-- Settles O41, by the state of the two levels, the alarms of the change, and what charge start and push make of it. -/
theorem doorsFollowTheirSwitches : Obligations.DoorsFollowTheirSwitches := by
  intro s c n i pl side input v ho spell hin d present latched state wanted changed e p agrees
  obtain ⟨alarmed, runs, quiet, shown⟩ := doorSwitch_runs ho spell hin agrees
  have ne : state ≠ d.state := doorStateAfter_ne (c := c) spell hin agrees
  have same : pl.doorChanged side (d.switchedTo c (s.part.level i (.leak side)) state) = changed := Place.doorChanged_eq ne
  change s.Runs e (tellDoor c i d.state state alarmed) at runs
  change alarmed.Shows i (pl.doorChanged side (d.switchedTo c (s.part.level i (.leak side)) state)) _ _ at shown
  rw [same] at shown
  have number : changed.oven.number = n := ho.2.2.2
  have side_state : (changed.door side).state = state := by
    change ((pl.withDoor side _).door side).state = state
    rw [Place.withDoor_door]
    rfl
  have notReady (hn : s.NoPushOf n) (pl' : Place) (k : pl'.oven.number = changed.oven.number) :
      pl'.ready c s.part.psq.context = false := hn.not_ready (k.trans number)
  have elsewhere (hn : s.NoPushOf n) : ∀ y, s.part.psq.context = some y → y.oven ≠ changed.oven.number := by
    rw [number]
    exact hn.ne
  refine ⟨fun hn hcalm => ?_, fun hn hf hopen hP hC => ?_, fun x hx hxn hf => ?_⟩
  · have uncancelled : ¬(changed.oven.inFlight = true ∧ state.isLatched = false) := by
      rintro ⟨hf, hl⟩
      rcases hcalm with k | k
      · exact Bool.false_ne_true (k.symm.trans hf)
      · rw [k] at hl
        exact absurd hl (by decide)
    refine ⟨alarmed, runs.congr ?_, quiet.frame, shown.place⟩
    rw [tellDoor_noPush shown ne (elsewhere hn), cancelOnDoor_eq shown, if_neg uncancelled]
  · have unlatched : state.isLatched = false := Bool.eq_false_iff.mpr (mt DoorState.ofLevels_isLatched.mp hopen)
    have meaning : tellDoor c i d.state state alarmed = chargeCancelled c i n .doors alarmed := by
      rw [tellDoor_noPush shown ne (elsewhere hn), cancelOnDoor_eq shown, if_pos ⟨hf, unlatched⟩, number]
    have released : state ≠ .released := fun k => by
      have releases := DoorState.ofLevels_released k
      rw [← Place.ready_iff, hn.not_ready ho.2.2.2] at releases
      exact Bool.false_ne_true releases
    have noneReleased (other : Side) : (changed.door other).state ≠ .released := by
      by_cases ho : other = side
      · subst ho
        rw [side_state]
        exact released
      · change ((pl.withDoor side _).door other).state ≠ .released
        rw [Place.withDoor_door_other pl _ ho]
        cases other
        · exact hP
        · exact hC
    have place := Place.chargeCancelled_eq (c := c) (l := p.level i) (notReady hn) (noneReleased .p) (noneReleased .c)
    obtain ⟨mode, next, -⟩ := Offtake.callIsolate c (offtakeLevelsOf (p.level i)) changed.offtake
    refine ⟨_, _, runs.congr meaning, quiet.frame.trans (.chargeCancelled shown number (elsewhere hn) c .doors),
      (shown.chargeCancelled c n .doors (elsewhere hn)).place, by rw [place], by rw [place]; cases side <;> rfl, by rw [place]; exact mode, by rw [place]; exact next,
      fun hroom => ?_⟩
    refine chargeCancelled_chr shown number (elsewhere hn) c .doors ?_
    have grown := (quiet.line n (by rw [← ho.2.2.2]; exact numberAt_some ho.2.2.1)).length_le
    have : (s.part.withLevel i input v).bli.queue.length < 7 := hroom
    omega
  · rw [hx] at shown
    refine ⟨_, runs.congr (tellDoor_push shown ne (hxn.trans number.symm) hf),
      psqDoorChange_takes shown quiet.frame (hxn ▸ ho.2.1) side_state (fun hoff => ?_) fun hr => ?_⟩
    · exact doorStateAfter_of_off spell hin agrees hoff
    · obtain ⟨⟨y, hy, -, stage⟩, -⟩ := DoorState.ofLevels_released hr
      rw [hx] at hy
      cases (Option.mem_toList.mp hy)
      exact stage

end Sys2Proof.Machine

/-! SUPPORT. The start values of the blocks and of one oven's records (R19, R70, R93, R122, R148). -/

namespace Sys2Proof.Machine

open Sys2Proof

/-! ## Alarms at a start (R139) -/

theorem hasOven_startAlarms (ageLost doorFault overdue : Bool) (a : OvenAlarm) :
    hasOven (startAlarms ageLost doorFault overdue) a
      = (ageLost && decide (.ageLost = a) || doorFault && decide (.doorSwitch = a) || overdue && decide (.overdue = a)) := by
  have one (on : Bool) (b : OvenAlarm) : (if on then ovenBit b else 0).getLsbD a.bit = (on && decide (b = a)) := by
    cases on
    · exact BitVec.getLsbD_zero
    · exact (ovenBit_getLsbD b a).trans (Bool.true_and _).symm
  rw [hasOven, startAlarms, BitVec.getLsbD_or, BitVec.getLsbD_or, one, one, one]

theorem hasStation_startStation (warm low : Bool) (a : StationAlarm) :
    hasStation (startStation warm low) a = true ↔ (a = .retainedLost ∧ warm = false) ∨ (a = .backupLow ∧ low = true) := by
  cases warm <;> cases low <;> cases a <;> decide

theorem isWarm_iff (c : Configuration) (r : RetainedDomain) :
    isWarm c r = true ↔ r.valid = true ∧ r.firstOven = c.firstOven ∧ r.ovenCount = c.ovenCount := by
  simp [isWarm, and_assoc]

/-! ## The inputs at a load (R122) -/

theorem Input.atLoad_level (x : Input) : x.atLoad.level.getD false = x.level.getD false := by
  unfold Input.atLoad
  cases h : x.level <;> simp [h]

theorem PlaceInputs.get_atLoad (x : PlaceInputs) (input : SwitchInput) : x.atLoad.get input = (x.get input).atLoad := by
  unfold PlaceInputs.get
  cases input with
  | present side | latched side | leak side => cases side <;> rfl
  | _ => rfl

theorem PlaceInputs.get_fresh (input : SwitchInput) : PlaceInputs.fresh.get input = .fresh := by
  unfold PlaceInputs.get
  cases input with
  | present side | latched side | leak side => cases side <;> rfl
  | _ => rfl

/-- The levels that the start takes for a local oven are those of before. -/
theorem inputsAtLoad_level {c : Configuration} (p : Part) {i : Nat} (hi : i < c.ovenCount) (input : SwitchInput) :
    (((inputsAtLoad c p.fls.inputs).getD i .fresh).get input).level.getD false = p.level i input := by
  rw [List.getD_eq_getElem?_getD, inputsAtLoad, List.getElem?_mapIdx, Part.level]
  cases p.fls.inputs[i]? with
  | none => simp [PlaceInputs.get_fresh, Input.fresh]
  | some x => simp [hi, PlaceInputs.get_atLoad, Input.atLoad_level]

/-! ## The records of one oven -/

/-- Whether the age of the oven at a place is not trusted at the start (R19). -/
def startLost (c : Configuration) (r : RetainedDomain) (i : Nat) : Bool :=
  if isWarm c r then (r.records.getD i (Retained.cold c)).losesAge else true

theorem startPlace_eq (c : Configuration) (r : RetainedDomain) (inputs : List PlaceInputs) (i : Nat) :
    startPlace c r inputs i
      = Place.start c (c.firstOven + i) (startKept c r i) (startLost c r i) (inputs.getD i .fresh) := by
  unfold startPlace startKept startLost
  split <;> rfl

/-- What a warm start makes of a retained record (R3, R19). -/
theorem Retained.restored_eq (c : Configuration) (r : Retained) : r.restored c = { r with
    phase :=
      if r.phase = .charging ∨ r.phase = .pushing then .unknown
      else if r.phase = .coking ∨ r.phase = .ready then Claims.byAge c r
      else r.phase } := by
  obtain ⟨phase, age, target, hold⟩ := r
  cases phase <;> simp [Retained.restored, byAge_eq]

theorem Retained.losesAge_iff (r : Retained) : r.losesAge = true ↔ r.phase = .charging ∨ r.phase = .pushing := by
  simp [Retained.losesAge]

theorem Door.start_eq (c : Configuration) (present latched leak : Bool) :
    Door.start c present latched leak
      = { state := Claims.doorOf present latched, permit := false
          leakTimer := if Claims.doorOf present latched = .sealed ∧ leak = true then .running (c.leakOn * 1000) else .stopped
          clearTimer := .stopped, leakingSpell := .stopped, sealedSpell := .stopped, resealWanted := false } := by
  cases present <;> cases latched <;> rfl

/-- The fields of an offtake's record that no mode's entry sets are at their start values (R93). -/
theorem Offtake.start_fields (c : Configuration) (phase : Phase) (lv : OfftakeLevels) :
    (Offtake.start c phase lv).pressure = none ∧ (Offtake.start c phase lv).invalidCount = 0
      ∧ (Offtake.start c phase lv).validCount = 0 ∧ (Offtake.start c phase lv).sensorFailed = false
      ∧ (Offtake.start c phase lv).acc = 0 := by
  unfold Offtake.start
  split
  · simp only [Offtake.startIsolate, Offtake.isolateValveClosed, Offtake.isolateReached]
    split
    · split <;> exact ⟨rfl, rfl, rfl, rfl, rfl⟩
    · exact ⟨rfl, rfl, rfl, rfl, rfl⟩
  · exact ⟨rfl, rfl, rfl, rfl, rfl⟩

theorem Offtake.startIsolate_valve (lv : OfftakeLevels) (o : Offtake) : (o.startIsolate lv).valve = 0 := by
  simp only [Offtake.startIsolate, Offtake.isolateValveClosed, Offtake.isolateReached]
  split
  · split <;> rfl
  · rfl

/-- The mode an offtake starts in (R93). -/
theorem Offtake.start_mode (c : Configuration) (phase : Phase) (lv : OfftakeLevels) :
    (phase = .empty ∨ phase = .out → (Offtake.start c phase lv).mode = .isolate ∧ (Offtake.start c phase lv).next = none
        ∧ (Offtake.start c phase lv).valve = 0)
      ∧ (phase ≠ .empty → phase ≠ .out → (Offtake.start c phase lv).mode = .hold
        ∧ (Offtake.start c phase lv).valve = c.uFail ∧ (Offtake.start c phase lv).capOpen = false) := by
  refine ⟨fun h => ?_, fun h₁ h₂ => ?_⟩
  · rw [Offtake.start, if_pos h]
    exact ⟨Offtake.startIsolate_mode lv _, Offtake.startIsolate_next lv _, Offtake.startIsolate_valve lv _⟩
  · rw [Offtake.start, if_neg (not_or.mpr ⟨h₁, h₂⟩)]
    exact ⟨rfl, rfl, rfl⟩

section
variable {c : Configuration} {n : Nat} {kept : Retained} {lost : Bool} {x : PlaceInputs}

/-- DOOR_SWITCH stands at a start for a door in FAULT (R61, R70). -/
theorem Place.start_alarm (a : OvenAlarm) : hasOven (Place.start c n kept lost x).oven.alarms a
    = (lost && decide (.ageLost = a)
        || ((Place.start c n kept lost x).doorP.state == .fault || (Place.start c n kept lost x).doorC.state == .fault)
          && decide (.doorSwitch = a)
        || kept.isOverdue c && decide (.overdue = a)) := hasOven_startAlarms _ _ _ a

theorem Place.start_door (side : Side) : (Place.start c n kept lost x).door side
    = Door.start c ((x.get (.present side)).level.getD false) ((x.get (.latched side)).level.getD false)
        ((x.get (.leak side)).level.getD false) := by
  cases side <;> rfl

end

/-- Settles O58, by the start values of each block and of one place. -/
theorem startSetsEveryBlock : Obligations.StartSetsEveryBlock := by
  intro s c acked block low hload hblock _ kept warm
  have warm_iff : isWarm c kept = true ↔ warm := isWarm_iff c kept
  have meaning : loadDone acked block low s.part = startPart c low (s.part.hearBackup low) := by
    simp [loadDone, hload, hblock]
  have runs : s.Runs (.configLoadComplete acked block low) (startPart c low (s.part.hearBackup low)) := by
    rw [← meaning]
    exact State.update_eq ..
  refine ⟨_, runs, rfl, rfl, rfl, rfl, rfl, rfl, rfl, rfl, rfl, rfl, rfl, rfl, rfl, rfl, rfl, rfl, rfl, rfl, rfl, rfl, rfl,
    rfl, rfl, fun a => ?_, fun ch hch => ?_, ?_, fun i hi => ⟨startPlace c kept (inputsAtLoad c s.part.fls.inputs) i, ?_, ?_⟩⟩
  · have := hasStation_startStation (isWarm c kept) low a
    rwa [← Bool.not_eq_true, warm_iff] at this
  · obtain ⟨j, -, rfl⟩ := List.mem_map.mp hch
    split <;> rfl
  · simp [startPart]
  · simp [startPart, hi, Part.hearBackup, kept]
  · rw [startPlace_eq]
    let x := (inputsAtLoad c s.part.fls.inputs).getD i .fresh
    have level (input : SwitchInput) : (x.get input).level.getD false = s.part.level i input := inputsAtLoad_level s.part hi input
    have record (r : Retained) (hr : kept.records[i]? = some r) : kept.records.getD i (Retained.cold c) = r := by
      rw [List.getD_eq_getElem?_getD, hr]
      rfl
    have alarm (a : OvenAlarm) := Place.start_alarm (c := c) (n := c.firstOven + i) (kept := startKept c kept i)
      (lost := startLost c kept i) (x := x) a
    refine ⟨rfl, rfl, rfl, rfl, fun hcold => ?_, fun r hwarm hr => ⟨?_, ?_⟩, fun hcold => ?_, ?_, ?_, fun a h₁ h₂ h₃ => ?_,
      fun side => ?_, (Offtake.start_mode c _ _).1, (Offtake.start_mode c _ _).2, Offtake.start_fields c _ _⟩
    · exact if_neg (mt warm_iff.mp hcold)
    · rw [← Retained.restored_eq, ← record r hr]
      exact if_pos (warm_iff.mpr hwarm)
    · rw [alarm, ← Retained.losesAge_iff, ← record r hr]
      simp [startLost, warm_iff.mpr hwarm]
    · rw [alarm]
      simp [startLost, mt warm_iff.mp hcold]
    · rw [alarm]
      simp [x]
    · rw [overdueIsRight_iff, alarm]
      simp [Place.start]
    · rw [alarm]
      simp [Ne.symm h₁, Ne.symm h₂, Ne.symm h₃]
    · rw [Place.start_door, Door.start_eq, level, level, level]
      exact ⟨rfl, rfl, rfl, rfl⟩

end Sys2Proof.Machine

/-! SUPPORT. The echo of an own telegram and what its removal from the queue lets in (R14, R28, R49, R98, R99, R115, R134). -/

namespace Sys2Proof.Machine

open Sys2Proof

/-! ## The parts of a clean echo (R134) -/

theorem heardBack_bli (c : Configuration) (k : Kind) (sub : Subject) (p : Part) (b : Bli) :
    heardBack c k sub { p with bli := b } = { heardBack c k sub p with bli := b } := by
  unfold heardBack bidHeardBack orderHeardBack
  split
  · dsimp only
    split <;> rfl
  · dsimp only
    split
    · rfl
    · split <;> rfl
  · rfl

/-- The producer told changes no unit but the bids and the orders. -/
structure HeardBack (p q : Part) : Prop where
  places : q.places = p.places
  psq : q.psq = p.psq
  bli : q.bli = p.bli

theorem heardBack_frame (c : Configuration) (k : Kind) (sub : Subject) (p : Part) : HeardBack p (heardBack c k sub p) := by
  unfold heardBack bidHeardBack orderHeardBack
  split
  · split <;> exact ⟨rfl, rfl, rfl⟩
  · split
    · exact ⟨rfl, rfl, rfl⟩
    · split <;> exact ⟨rfl, rfl, rfl⟩
  · exact ⟨rfl, rfl, rfl⟩

/-- A clean echo: the entry gone and the producer told, then the offers owed where an entry has left, then the echo. -/
theorem succeed_eq {p : Part} {a : Attempt} (h : p.bli.attempt = some a) (c : Configuration) : succeed c p
    = routeEcho c a.kind a.subject
        (if a.replaced then heardBack c a.kind a.subject (Claims.heard c a p)
         else tellRemoval (heardBack c a.kind a.subject (Claims.heard c a p))) := by
  let counted : Part := { Claims.heard c a p with bli := { p.bli with attempt := none, failed := 0 } }
  let told := heardBack c a.kind a.subject counted
  have meaning : succeed c p = routeEcho c a.kind a.subject
      (if a.replaced then told else tellRemoval { told with bli := told.bli.remove a.kind a.subject }) := by
    simp only [succeed, h]
    rfl
  rw [meaning]
  cases hr : a.replaced
  · have removed : counted.bli.remove a.kind a.subject = (Claims.heard c a p).bli := by
      have item (e : TxEntry) : (!e.isItem a.kind a.subject) = decide (¬(e.kind = a.kind ∧ e.subject = a.subject)) := by
        rw [Bool.eq_iff_iff]
        simp [TxEntry.isItem]
      simp only [Bli.remove, item, counted, Claims.heard, hr, Bool.false_eq_true, if_false]
    have told_bli : told.bli = counted.bli := (heardBack_frame ..).bli
    rw [told_bli, removed, ← heardBack_bli]
    rfl
  · have same : counted = Claims.heard c a p := by simp only [counted, Claims.heard, hr, if_true]
    simp only [told, same, if_true]

/-- Only a QCO heard back changes the orders. -/
theorem heardBack_qou (c : Configuration) {k : Kind} (sub : Subject) (p : Part) (hk : k ≠ .qco) :
    (heardBack c k sub p).qou = p.qou := by
  unfold heardBack bidHeardBack
  split
  · split <;> rfl
  · exact absurd rfl hk
  · rfl

theorem heardBack_other (c : Configuration) {k : Kind} (sub : Subject) (p : Part) (hb : k ≠ .bid) (hq : k ≠ .qco) :
    heardBack c k sub p = p := by
  unfold heardBack
  split
  · exact absurd rfl hb
  · exact absurd rfl hq
  · rfl

/-- The echo changes the views alone. -/
theorem routeEcho_frame (c : Configuration) (k : Kind) (sub : Subject) (p : Part) :
    ∃ lvt, routeEcho c k sub p = { p with lvt := lvt } := by
  unfold routeEcho takePdn
  split
  · split
    · exact ⟨_, rfl⟩
    · exact ⟨p.lvt, rfl⟩
  · exact ⟨p.lvt, rfl⟩

theorem routeEcho_other (c : Configuration) {k : Kind} (sub : Subject) (p : Part) (h : k ≠ .pdn) : routeEcho c k sub p = p := by
  unfold routeEcho
  split
  · exact absurd rfl h
  · rfl

/-! ## Offers that wait for room (R134, step 4) -/

/-- No order waits to be offered. -/
def Qou.noneWaits (q : Qou) : Prop := ∀ head ∈ q.orders.head?, head.state ≠ .queued ∨ head.offered = true

/-- A CHP is owed for the oven at a place. -/
def Place.waitsForChp (pl : Place) : Prop := pl.oven.chpPending = true ∧ pl.oven.kept.phase = .charging

theorem qouOfferHead_inert {p : Part} (h : p.qou.noneWaits) : qouOfferHead p = p := by
  unfold qouOfferHead
  split
  · rfl
  · next head rest e =>
    have waits := h head (by simp [e])
    exact if_neg fun k => waits.elim (fun hq => hq k.1) fun ho => by simp [ho] at k

/-- An order heard back does not begin to wait. -/
theorem heardBack_noneWaits (c : Configuration) (k : Kind) (sub : Subject) {p : Part} (h : p.qou.noneWaits) :
    (heardBack c k sub p).qou.noneWaits := by
  unfold heardBack bidHeardBack orderHeardBack
  split
  · split <;> exact h
  · split
    · exact h
    · split
      · intro head hh
        cases hh
        exact .inl (by simp)
      · exact h
  · exact h

theorem reofferChp_inert {p : Part} {i : Nat} (h : ∀ pl, p.places[i]? = some pl → ¬pl.waitsForChp) : reofferChp p i = p := by
  unfold reofferChp
  split
  · rfl
  · next pl hpl => exact if_neg (h pl hpl)

/-- A fold whose every step leaves the value. -/
theorem foldl_eq_of_inert {α β : Type} (f : β → α → β) (l : List α) (b : β) (h : ∀ a ∈ l, f b a = b) : l.foldl f b = b :=
  List.foldlRecOn l f (motive := fun x => x = b) rfl fun x hx a ha => by rw [hx]; exact h a ha

theorem reofferChps_inert {p : Part} (h : ∀ pl ∈ p.places, ¬pl.waitsForChp) : reofferChps p = p :=
  foldl_eq_of_inert _ _ _ fun _ _ => reofferChp_inert fun pl hpl => h pl (List.mem_of_getElem? hpl)

theorem tellRemoval_inert {p : Part} (hq : p.qou.noneWaits) (hc : ∀ pl ∈ p.places, ¬pl.waitsForChp)
    (hd : p.psq.pendingPdn = []) : tellRemoval p = p := by
  rw [tellRemoval, qouOfferHead_inert hq, reofferChps_inert hc, reofferPdns, hd]
  rfl

/-! ### A telegram in the queue -/

/-- A telegram of an item with a payload is queued. -/
def Bli.holds (b : Bli) (k : Kind) (sub : Subject) (payload : List Byte) : Prop :=
  ∃ e ∈ b.queue, e.kind = k ∧ e.subject = sub ∧ e.payload = payload

/-- Offers of other items, and of the same item with the same payload, leave a telegram. -/
theorem Bli.holds.offer {b : Bli} {k k' : Kind} {sub sub' : Subject} {payload payload' : List Byte}
    (h : b.holds k sub payload) (hsame : k' = k → sub' = sub → payload' = payload) :
    (b.offer k' sub' payload').1.holds k sub payload := by
  obtain ⟨e, he, rfl, rfl, rfl⟩ := h
  cases item : e.isItem k' sub'
  · exact ⟨e, offer_stays payload' he item, rfl, rfl, rfl⟩
  · simp only [TxEntry.isItem, Bool.and_eq_true, beq_iff_eq] at item
    obtain ⟨rfl, rfl⟩ := item
    have taken : (b.offer e.kind e.subject payload').2 = true := by
      rcases offer_cases b e.kind e.subject payload' with ⟨-, ht, -⟩ | ⟨none, -⟩ | ⟨none, -⟩
      · exact ht
      · simp [TxEntry.isItem] at none
        exact absurd rfl (none e he rfl)
      · simp [TxEntry.isItem] at none
        exact absurd rfl (none e he rfl)
    rw [← hsame rfl rfl]
    exact offer_taken taken

section
variable {p : Part} {k : Kind} {sub : Subject} {payload : List Byte}

theorem Part.holds_of_room (h : p.bli.queue.length < 8) (k : Kind) (sub : Subject) (payload : List Byte) :
    (p.offer k sub payload).bli.holds k sub payload := offer_taken (offer_taken_of_room h k sub payload)

/-- A CHP offered again is of the oven at its place. -/
theorem reofferChp_cases (p : Part) (i : Nat) : reofferChp p i = p
    ∨ ∃ n, reofferChp p i = (p.offer .chp (.oven n) [byteOf n]).modifyOven i fun o => { o with chpPending := false } := by
  unfold reofferChp
  split
  · exact .inl rfl
  · dsimp only
    split
    · split
      · exact .inr ⟨_, rfl⟩
      · exact .inl rfl
    · exact .inl rfl

theorem reofferPdn_cases (p : Part) (e : PendingPdn) : reofferPdn p e = p
    ∨ reofferPdn p e = { p.offer .pdn (.oven e.oven) (pdnPayload e) with
        psq := { p.psq with pendingPdn := p.psq.pendingPdn.filter fun x => x.oven != e.oven } } := by
  unfold reofferPdn
  split
  · exact .inr rfl
  · exact .inl rfl

/-! ### What the offers leave alone -/

theorem reofferChp_qou (p : Part) (i : Nat) : (reofferChp p i).qou = p.qou := by
  rcases reofferChp_cases p i with h | ⟨n, h⟩
  · rw [h]
  · rw [h]; rfl

theorem reofferChp_place_other (p : Part) {i j : Nat} (h : j ≠ i) : (reofferChp p j).places[i]? = p.places[i]? := by
  rcases reofferChp_cases p j with e | ⟨n, e⟩
  · rw [e]
  · rw [e]
    exact (OvenOnly.modifyOven j (p.offer .chp (.oven n) [byteOf n]) (fun o => { o with chpPending := false })
      fun _ => rfl).places i h.symm

theorem reofferChp_holds (h : p.bli.holds k sub payload) (hsame : k = .chp → ∀ n, sub = .oven n → payload = [byteOf n])
    (i : Nat) : (reofferChp p i).bli.holds k sub payload := by
  rcases reofferChp_cases p i with e | ⟨n, e⟩ <;> rw [e]
  · exact h
  · exact h.offer fun hk hs => (hsame hk.symm n hs.symm).symm

theorem reofferPdn_qou (p : Part) (e : PendingPdn) : (reofferPdn p e).qou = p.qou := by
  rcases reofferPdn_cases p e with h | h
  · rw [h]
  · rw [h]; rfl

theorem reofferPdn_places (p : Part) (e : PendingPdn) : (reofferPdn p e).places = p.places := by
  rcases reofferPdn_cases p e with h | h
  · rw [h]
  · rw [h]; rfl

theorem reofferPdn_holds (h : p.bli.holds k sub payload) {e : PendingPdn} (hne : k = .pdn → sub ≠ .oven e.oven) :
    (reofferPdn p e).bli.holds k sub payload := by
  rcases reofferPdn_cases p e with he | he <;> rw [he]
  · exact h
  · exact h.offer fun hk hs => absurd hs.symm (hne hk.symm)

/-- The entries of the pending list that stay are some of those of before. -/
theorem reofferPdn_pending {p : Part} {e y : PendingPdn} (h : y ∈ (reofferPdn p e).psq.pendingPdn) :
    y ∈ p.psq.pendingPdn := by
  rcases reofferPdn_cases p e with he | he <;> rw [he] at h
  · exact h
  · exact List.mem_of_mem_filter h

/-- The pending PDNs offered leave the orders and the places. -/
theorem reofferPdns_keeps (p : Part) : (reofferPdns p).qou = p.qou ∧ (reofferPdns p).places = p.places := by
  refine List.foldlRecOn _ _ (motive := fun q : Part => q.qou = p.qou ∧ q.places = p.places) ⟨rfl, rfl⟩ fun q hq e _ => ?_
  rw [reofferPdn_qou, reofferPdn_places]
  exact hq

theorem reofferPdns_holds (h : p.bli.holds k sub payload) (hk : k ≠ .pdn) : (reofferPdns p).bli.holds k sub payload :=
  List.foldlRecOn _ _ (motive := fun q : Part => q.bli.holds k sub payload) h fun _ hq _ _ =>
    reofferPdn_holds hq fun e => absurd e hk

/-! ### The first offer -/

/-- A waiting head is offered; what follows leaves its telegram. -/
theorem tellRemoval_order {head : Order} {rest : List Order} (ho : p.qou.orders = head :: rest) (hq : head.state = .queued)
    (hf : head.offered = false) (room : p.bli.queue.length < 8) :
    (tellRemoval p).qou.orders = { head with offered := true } :: rest
      ∧ (tellRemoval p).bli.holds .qco (.order head.id) (qcoPayload head) := by
  have takes : p.takes .qco (.order head.id) (qcoPayload head) = true := offer_taken_of_room room ..
  let offered : Part := { p.offer .qco (.order head.id) (qcoPayload head) with
    qou := { p.qou with orders := { head with offered := true } :: rest } }
  have first : qouOfferHead p = offered := by
    simp only [qouOfferHead, ho]
    rw [if_pos ⟨hq, hf⟩, if_pos takes]
    rfl
  have chps : (reofferChps offered).qou = offered.qou
      ∧ (reofferChps offered).bli.holds .qco (.order head.id) (qcoPayload head) := by
    refine List.foldlRecOn _ _ (motive := fun q : Part => q.qou = offered.qou ∧ q.bli.holds .qco (.order head.id) (qcoPayload head))
      ⟨rfl, Part.holds_of_room room ..⟩ fun q hq' i _ => ?_
    exact ⟨(reofferChp_qou q i).trans hq'.1, reofferChp_holds hq'.2 (fun hk => by simp at hk) i⟩
  rw [tellRemoval, first, (reofferPdns_keeps _).1, chps.1]
  exact ⟨rfl, reofferPdns_holds chps.2 (by decide)⟩

/-- The first place that owes a CHP has it queued and its flag cleared. -/
theorem reofferChps_first {i : Nat} {pl : Place} (hpl : p.places[i]? = some pl) (owes : pl.waitsForChp)
    (first : ∀ j x, j < i → p.places[j]? = some x → ¬x.waitsForChp) (room : p.bli.queue.length < 8) :
    (reofferChps p).places[i]? = some (pl.owesChp false)
      ∧ (reofferChps p).bli.holds .chp (.oven pl.oven.number) [byteOf pl.oven.number] := by
  obtain ⟨hi, -⟩ := List.getElem?_eq_some_iff.mp hpl
  obtain ⟨m, hm⟩ := Nat.exists_eq_add_of_lt hi
  have split : List.range p.places.length = List.range i ++ i :: List.range' (i + 1) m := by
    rw [hm, Nat.add_assoc, List.range_eq_range', List.range_eq_range', ← List.range'_succ, ← List.range'_append_1, Nat.zero_add]
  let n := pl.oven.number
  let offered := (p.offer .chp (.oven n) [byteOf n]).modifyOven i fun o => { o with chpPending := false }
  have before : (List.range i).foldl reofferChp p = p :=
    foldl_eq_of_inert _ _ _ fun j hj => reofferChp_inert fun x hx => first j x (List.mem_range.mp hj) hx
  have here : reofferChp p i = offered := by
    have takes : p.takes .chp (.oven pl.oven.number) [byteOf pl.oven.number] = true := offer_taken_of_room room ..
    have owes' : pl.oven.chpPending = true ∧ pl.oven.kept.phase = .charging := owes
    simp only [reofferChp, hpl, owes', takes, and_self, if_true]
    rfl
  have meaning : reofferChps p = (List.range' (i + 1) m).foldl reofferChp offered := by
    rw [reofferChps, split, List.foldl_append, before, List.foldl_cons, here]
  rw [meaning]
  refine List.foldlRecOn _ _ (motive := fun q : Part => q.places[i]? = some (pl.owesChp false) ∧ q.bli.holds .chp (.oven n) [byteOf n])
    ⟨?_, Part.holds_of_room room ..⟩ fun q hq j hj => ?_
  · simp [offered, Part.modifyOven, hpl, Place.owesChp]
  · have later : j ≠ i := by
      have := (List.mem_range'_1.mp hj).1
      omega
    refine ⟨(reofferChp_place_other q later).trans hq.1, reofferChp_holds hq.2 (fun _ m hm => ?_) j⟩
    cases hm
    rfl

/-- The first entry of the pending list, of an oven named once, has its PDN queued and is gone. -/
theorem reofferPdns_first {e : PendingPdn} {rest : List PendingPdn} (h : p.psq.pendingPdn = e :: rest)
    (once : ∀ y ∈ rest, y.oven ≠ e.oven) (room : p.bli.queue.length < 8) :
    (∀ y ∈ (reofferPdns p).psq.pendingPdn, y ∈ rest)
      ∧ (reofferPdns p).bli.holds .pdn (.oven e.oven) (pdnPayload e) := by
  let offered : Part := { p.offer .pdn (.oven e.oven) (pdnPayload e) with
    psq := { p.psq with pendingPdn := p.psq.pendingPdn.filter fun x => x.oven != e.oven } }
  have first : reofferPdn p e = offered := if_pos (offer_taken_of_room room ..)
  rw [reofferPdns, h, List.foldl_cons, first]
  refine List.foldlRecOn _ _
    (motive := fun q : Part => (∀ y ∈ q.psq.pendingPdn, y ∈ rest) ∧ q.bli.holds .pdn (.oven e.oven) (pdnPayload e))
    ⟨fun y hy => ?_, Part.holds_of_room room ..⟩ fun q hq z hz => ?_
  · obtain ⟨mem, hne⟩ := List.mem_filter.mp hy
    rw [h] at mem
    exact (List.mem_cons.mp mem).resolve_left fun k => by simp [k] at hne
  · refine ⟨fun y hy => hq.1 y (reofferPdn_pending hy), reofferPdn_holds hq.2 fun _ k => once z hz ?_⟩
    exact (Subject.oven.inj k).symm

end

/-! ## The clean echo -/

theorem qcoPayload_eq (o : Order) : qcoPayload o = Claims.qco o := by
  simp only [qcoPayload, Claims.qco]
  cases o.kind <;> rfl

section
variable {s : State} {c : Configuration} {a : Attempt}

theorem attemptSucceeded_runs (hc : s.part.config = some c) : s.Runs .attemptSucceeded (succeed c s.part) := by
  change s.whenLoaded succeed = _
  rw [State.whenLoaded_some hc]

/-- With nothing owed to the queue the producer is told and the echo taken, and that is all. -/
theorem succeed_quiet (ha : s.part.bli.attempt = some a) (ho : s.part.qou.noneWaits)
    (hchp : ∀ pl ∈ s.part.places, pl.oven.chpPending = false) (hpdn : s.part.psq.pendingPdn = []) :
    succeed c s.part = routeEcho c a.kind a.subject (heardBack c a.kind a.subject (Claims.heard c a s.part)) := by
  let heard := Claims.heard c a s.part
  obtain ⟨places, psq, -⟩ := heardBack_frame c a.kind a.subject heard
  have inert : tellRemoval (heardBack c a.kind a.subject heard) = heardBack c a.kind a.subject heard := by
    refine tellRemoval_inert (heardBack_noneWaits c a.kind a.subject (p := heard) ho) (fun pl hpl owes => ?_) ?_
    · rw [places] at hpl
      exact Bool.false_ne_true ((hchp pl hpl).symm.trans owes.1)
    · rw [psq]
      exact hpdn
  rw [succeed_eq ha, inert, ite_self]

/-- The removal of an entry leaves room in a sound queue. -/
theorem heard_room (hsound : s.part.bli.Sound) (hr : a.replaced = false)
    (he : ∃ e ∈ s.part.bli.queue, e.kind = a.kind ∧ e.subject = a.subject) :
    (heardBack c a.kind a.subject (Claims.heard c a s.part)).bli.queue.length < 8 := by
  obtain ⟨e, mem, item⟩ := he
  rw [(heardBack_frame c a.kind a.subject _).bli]
  have shorter : (s.part.bli.queue.filter fun e => decide (¬(e.kind = a.kind ∧ e.subject = a.subject))).length
      < s.part.bli.queue.length := List.length_filter_lt_length_iff_exists.mpr ⟨e, mem, by simp [item]⟩
  have : s.part.bli.queue.length ≤ 8 := hsound.1
  simp only [Claims.heard, hr, Bool.false_eq_true, if_false]
  omega

end

/-- Settles O56, by the producer told, and the first of the offers that wait for room. -/
theorem cleanEchoRemovesTheTelegram : Obligations.CleanEchoRemovesTheTelegram := by
  intro s c a hc ha p
  have runs := attemptSucceeded_runs hc
  let told := heardBack c a.kind a.subject p
  constructor
  · intro ho hchp hpdn
    have quiet : s.Runs .attemptSucceeded (routeEcho c a.kind a.subject told) := runs.congr (succeed_quiet ha ho hchp hpdn)
    refine ⟨fun hb hq hd => ?_, fun hb hround => ?_, fun hb hround => ?_, fun id head rest hq hs horders hid hqueued => ?_,
      fun id hq hs hother => ?_, fun n hd hs h₁ h₂ => ?_⟩
    · refine quiet.congr ?_
      rw [routeEcho_other c _ _ hd]
      exact heardBack_other c _ _ hb hq
    · refine quiet.congr ?_
      rw [routeEcho_other c _ _ (by simp [hb])]
      simp only [told, hb, heardBack]
      exact if_pos hround
    · refine quiet.congr ?_
      rw [routeEcho_other c _ _ (by simp [hb])]
      simp only [told, hb, heardBack]
      exact if_neg hround
    · refine quiet.congr ?_
      rw [routeEcho_other c _ _ (by simp [hq])]
      have orders : p.qou.orders = head :: rest := horders
      simp only [told, hq, hs, heardBack, orderHeardBack, orders]
      exact if_pos ⟨hid, hqueued⟩
    · refine quiet.congr ?_
      rw [routeEcho_other c _ _ (by simp [hq])]
      simp only [told, hq, hs, heardBack, orderHeardBack]
      split
      · rfl
      · next head rest orders =>
        have other := hother head (by rw [show s.part.qou.orders = head :: rest from orders]; rfl)
        exact if_neg fun k => other.elim (fun h => h k.1) fun h => h k.2
    · refine quiet.congr ?_
      have same : told = p := heardBack_other c _ _ (by simp [hd]) (by simp [hd])
      rw [same]
      simp only [hd, hs, routeEcho]
      exact if_pos ⟨h₁, h₂⟩
  · intro hsound hr he taken owesChp
    have room : told.bli.queue.length < 8 := heard_room hsound hr he
    obtain ⟨places, psq, -⟩ := heardBack_frame c a.kind a.subject p
    obtain ⟨lvt, routed⟩ := routeEcho_frame c a.kind a.subject (tellRemoval told)
    have removes : s.Runs .attemptSucceeded { tellRemoval told with lvt := lvt } := by
      refine runs.congr ?_
      rw [succeed_eq ha, hr, ← routed]
      rfl
    refine ⟨fun head rest horders hqueued hoffered hkind => ?_, fun ho => ⟨fun i pl hpl owes first => ?_, fun e rest hnone hpdn once => ?_⟩⟩
    · have orders : told.qou.orders = head :: rest := by
        rw [heardBack_qou c a.subject p hkind]
        exact horders
      obtain ⟨offered, queued⟩ := tellRemoval_order orders hqueued hoffered room
      rw [qcoPayload_eq] at queued
      exact ⟨_, removes, offered, queued⟩
    · have noHead : qouOfferHead told = told := qouOfferHead_inert (heardBack_noneWaits c a.kind a.subject (p := p) ho)
      obtain ⟨place, queued⟩ := reofferChps_first (p := told) (by rw [places]; exact hpl) owes
        (fun j x hj hx => first j x hj (by rw [places] at hx; exact hx)) room
      refine ⟨_, removes, ?_, ?_⟩
      · change (tellRemoval told).places[i]? = _
        rw [tellRemoval, noHead, (reofferPdns_keeps _).2]
        exact place
      · change (tellRemoval told).bli.holds _ _ _
        rw [tellRemoval, noHead]
        exact reofferPdns_holds queued (by decide)
    · have noHead : qouOfferHead told = told := qouOfferHead_inert (heardBack_noneWaits c a.kind a.subject (p := p) ho)
      have noChp : reofferChps told = told := reofferChps_inert (by rw [places]; exact hnone)
      have same : tellRemoval told = reofferPdns told := by rw [tellRemoval, noHead, noChp]
      obtain ⟨gone, queued⟩ := reofferPdns_first (p := told) (by rw [psq]; exact hpdn) once room
      refine ⟨_, removes, ?_, ?_⟩
      · change ∀ y ∈ (tellRemoval told).psq.pendingPdn, y ∈ rest
        rw [same]
        exact gone
      · change (tellRemoval told).bli.holds _ _ _
        rw [same]
        have payload : pdnPayload e = [BitVec.ofNat 8 e.oven, BitVec.ofNat 8 e.stroke, if e.unpermitted then 1 else 0] := by
          cases h : e.unpermitted <;> simp [pdnPayload, byteOf, h]
        exact payload ▸ queued

end Sys2Proof.Machine

/-! SUPPORT. What the bid round and the peer activity list rest on, and the operations that leave all of it alone. -/

namespace Sys2Proof.Machine

open Sys2Proof

/-! ## The abstraction -/

/-- The bid unit, the peer activity list, and the configuration that tells the own station. -/
def Part.rounds (p : Part) : Bsu × List Peer × Option Configuration := (p.bsu, p.lvt.peers, p.config)

theorem OvenOnly.rounds_eq {i : Nat} {p q : Part} (h : OvenOnly i p q) : q.rounds = p.rounds := by rw [h.rest]; rfl

theorem OrdersOnly.rounds_eq {p q : Part} (h : OrdersOnly p q) : q.rounds = p.rounds := by rw [h]; rfl

section
variable (c : Configuration) (i : Nat) (p : Part)

@[simp] theorem rounds_ite (b : Prop) [Decidable b] (q : Part) :
    (if b then p else q).rounds = if b then p.rounds else q.rounds := apply_ite ..

@[simp] theorem rounds_withPsq (x : Psq) : ({ p with psq := x } : Part).rounds = p.rounds := rfl
@[simp] theorem rounds_withQou (x : Qou) : ({ p with qou := x } : Part).rounds = p.rounds := rfl
@[simp] theorem rounds_withBli (x : Bli) : ({ p with bli := x } : Part).rounds = p.rounds := rfl
@[simp] theorem rounds_withFls (x : Fls) : ({ p with fls := x } : Part).rounds = p.rounds := rfl
@[simp] theorem rounds_withAsr (x : Asr) : ({ p with asr := x } : Part).rounds = p.rounds := rfl

@[simp] theorem rounds_withLocal (n : Nat) (f : Nat → Part) (h : ∀ i, (f i).rounds = p.rounds) :
    (withLocal c n p f).rounds = p.rounds := by
  unfold withLocal
  split
  · rfl
  · exact h _

theorem rounds_foldl {α : Type} {f : Part → α → Part} (h : ∀ p a, (f p a).rounds = p.rounds) (l : List α) (p : Part) :
    (l.foldl f p).rounds = p.rounds := by
  induction l generalizing p with
  | nil => rfl
  | cons a l ih => exact (ih _).trans (h p a)

/-! ## Alarms, phases, doors and offtakes -/

@[simp] theorem rounds_modifyOven (f : Oven → Oven) : (p.modifyOven i f).rounds = p.rounds := rfl
@[simp] theorem rounds_offer (k : Kind) (sub : Subject) (b : List Byte) : (p.offer k sub b).rounds = p.rounds := rfl
@[simp] theorem rounds_offerChr (n : Nat) (r : ChrReason) : (offerChr n r p).rounds = p.rounds := rfl
@[simp] theorem rounds_offerPrf (n : Nat) (r : PrfReason) : (offerPrf n r p).rounds = p.rounds := rfl
@[simp] theorem rounds_modifyContext (f : Context → Context) : (modifyContext f p).rounds = p.rounds := rfl
@[simp] theorem rounds_setStationAlarms (set : Byte) : (setStationAlarms c set p).rounds = p.rounds := rfl
@[simp] theorem rounds_raiseStation (a : StationAlarm) : (raiseStation c a p).rounds = p.rounds := rfl
@[simp] theorem rounds_removeStation (a : StationAlarm) : (removeStation c a p).rounds = p.rounds := rfl
@[simp] theorem rounds_holdStation (a : StationAlarm) (on : Bool) : (holdStation c a on p).rounds = p.rounds := by
  simp [holdStation]

@[simp] theorem rounds_offerOvs : (p.offerOvs i).rounds = p.rounds := (OvenOnly.offerOvs i p).rounds_eq
@[simp] theorem rounds_setAlarms (set : Word16) : (setOvenAlarms c i set p).rounds = p.rounds :=
  (OvenOnly.setAlarms c i set p).rounds_eq
@[simp] theorem rounds_raise (a : OvenAlarm) : (raiseOven c i a p).rounds = p.rounds := (OvenOnly.raise c i a p).rounds_eq
@[simp] theorem rounds_evalOverdue : (evalOverdue c i p).rounds = p.rounds := (OvenOnly.evalOverdue c i p).rounds_eq
@[simp] theorem rounds_commitDoor (side : Side) (d : Door) : (commitDoor c i side d p).rounds = p.rounds :=
  (OvenOnly.commitDoor c i side d p).rounds_eq
@[simp] theorem rounds_permitPass : (permitPass c i p).rounds = p.rounds := (OvenOnly.permitPass c i p).rounds_eq
@[simp] theorem rounds_commitOfftake (o : Offtake) : (commitOfftake i o p).rounds = p.rounds :=
  (OvenOnly.commitOfftake i o p).rounds_eq
@[simp] theorem rounds_settle (o : Offtake) : (settleOfftake c i o p).rounds = p.rounds := (OvenOnly.settle c i o p).rounds_eq
@[simp] theorem rounds_setPhase (new : Phase) : (setPhase c i new p).rounds = p.rounds :=
  (OvenOnly.setPhase c i new p).rounds_eq
@[simp] theorem rounds_setByAge : (setByAge c i p).rounds = p.rounds := (OvenOnly.setByAge c i p).rounds_eq
@[simp] theorem rounds_setHold (hold : Bool) : (setHold i hold p).rounds = p.rounds := (OvenOnly.setHold i hold p).rounds_eq
@[simp] theorem rounds_validSample (code : Nat) : (validSample c i code p).rounds = p.rounds :=
  (OvenOnly.validSample c i code p).rounds_eq
@[simp] theorem rounds_invalidSample : (invalidSample c i p).rounds = p.rounds := (OvenOnly.invalidSample c i p).rounds_eq
@[simp] theorem rounds_loseOven : (loseOven c i p).rounds = p.rounds := (OvenOnly.loseOven c i p).rounds_eq
@[simp] theorem rounds_minuteAt : (minuteAt c p i).rounds = p.rounds := (OvenOnly.minuteAt c p i).rounds_eq

/-! ## The car orders and the push -/

@[simp] theorem rounds_offerHead : (qouOfferHead p).rounds = p.rounds := (OrdersOnly.offerHead p).rounds_eq
@[simp] theorem rounds_append (kind : OrderKind) : (qouAppend kind p).rounds = p.rounds := (OrdersOnly.append kind p).rounds_eq
@[simp] theorem rounds_withdraw : (qouWithdraw p).rounds = p.rounds := (OrdersOnly.withdraw p).rounds_eq

@[simp] theorem rounds_setContext (x : Option Context) : (setContext c i x p).rounds = p.rounds :=
  rounds_permitPass c i { p with psq := { p.psq with context := x } }

@[simp] theorem rounds_testArmed (n : Nat) : (testArmed c n p).rounds = p.rounds := by
  unfold testArmed
  split
  · rfl
  · refine rounds_withLocal _ _ _ _ fun i => ?_
    split <;> simp

@[simp] theorem rounds_endReturn : (endReturn c i p).rounds = p.rounds := by simp [endReturn]

@[simp] theorem rounds_askPi : (askPi c i p).rounds = p.rounds := by
  unfold askPi
  split <;> simp

@[simp] theorem rounds_askIsolate : (askIsolate c i p).rounds = p.rounds := by
  unfold askIsolate
  split <;> simp

@[simp] theorem rounds_returnDoorsTest : (returnDoorsTest c i p).rounds = p.rounds := by
  unfold returnDoorsTest
  split <;> simp

@[simp] theorem rounds_abort (r : AbortReason) : (abort c r p).rounds = p.rounds := by
  unfold abort
  split <;> simp

@[simp] theorem rounds_abortIfOpen (n : Nat) (r : AbortReason) : (abortIfOpen c n r p).rounds = p.rounds := by
  unfold abortIfOpen
  split <;> simp

@[simp] theorem rounds_closingDoorsTest : (closingDoorsTest c i p).rounds = p.rounds := by
  unfold closingDoorsTest
  split <;> simp

@[simp] theorem rounds_returnToPrepare (x : Context) : (returnToPrepare c i x p).rounds = p.rounds := by
  simp [returnToPrepare]

@[simp] theorem rounds_returnAnswered (n : Nat) : (returnAnswered c i n p).rounds = p.rounds := by
  unfold returnAnswered
  split <;> simp

@[simp] theorem rounds_takeOutcome (r : Outcome) : (takeOutcome c r p).rounds = p.rounds := by
  unfold takeOutcome
  split
  · rfl
  · cases r <;> simp

@[simp] theorem rounds_takeWin (n : Nat) : (takeWin c n p).rounds = p.rounds := by simp [takeWin, orderSpot]

@[simp] theorem rounds_carReply (id verdict : Nat) : (carReply c id verdict p).rounds = p.rounds := by
  unfold carReply
  split
  · next head rest v _ _ => cases v <;> simp [headReply, acceptHead, headLeaves]
  · rfl

@[simp] theorem rounds_deadline : (deadline c p).rounds = p.rounds := by
  unfold deadline
  split <;> simp [deadlineExpires]

@[simp] theorem rounds_pushAsk (n : Nat) : (pushAsk c i n p).rounds = p.rounds := by
  have answered : (answerArmed c i n p).rounds = p.rounds := by
    unfold answerArmed
    split <;> simp
  unfold pushAsk
  split <;> simp [answered]

@[simp] theorem rounds_ramStarts (n : Nat) : (ramStarts c i n p).rounds = p.rounds := by
  have inContext (x : Context) : (ramInContext c i x p).rounds = p.rounds := by
    unfold ramInContext
    split <;> simp [startRam]
  unfold ramStarts
  split <;> simp [ramOutside, inContext]

@[simp] theorem rounds_offerPdn (e : PendingPdn) : (offerPdn e p).rounds = p.rounds := by simp [offerPdn]

@[simp] theorem rounds_orderAtHome (kind : OrderKind) : (orderAtHome c kind p).rounds = p.rounds := by simp [orderAtHome]

@[simp] theorem rounds_ramHome (x : Context) (stroke : Nat) : (ramHome c i x stroke p).rounds = p.rounds := by
  simp [ramHome]

@[simp] theorem rounds_prepareLimit : (prepareLimit c p).rounds = p.rounds := by
  unfold prepareLimit
  split <;> simp

@[simp] theorem rounds_armedLimit : (armedLimit c p).rounds = p.rounds := by
  unfold armedLimit
  split <;> simp

@[simp] theorem rounds_rmhLimit : (rmhLimit c p).rounds = p.rounds := by
  unfold rmhLimit
  split <;> simp

@[simp] theorem rounds_doorLimit : (doorLimit c p).rounds = p.rounds := by
  unfold doorLimit
  split <;> simp

@[simp] theorem rounds_panelAbort (n : Nat) : (panelAbort c n p).rounds = p.rounds := by
  unfold panelAbort
  split <;> simp

/-! ## Reports and door changes told -/

@[simp] theorem rounds_chargeBegins : (chargeBegins c i p).rounds = p.rounds := by
  unfold chargeBegins
  split <;> simp

@[simp] theorem rounds_chargeFails : (chargeFails c i p).rounds = p.rounds := by
  unfold chargeFails
  split <;> simp

@[simp] theorem rounds_tellReport (n : Nat) (r : Report) : (tellReport c i n r p).rounds = p.rounds := by
  cases r <;> simp [tellReport]

@[simp] theorem rounds_tellOfftake (new : Offtake) (alarm : Option OvenAlarm) :
    (tellOfftake c i new alarm p).rounds = p.rounds := by
  unfold tellOfftake
  split
  · rfl
  · next pl _ => cases alarm <;> cases reportOf pl.offtake new <;> simp

@[simp] theorem rounds_cancelOnDoor (new : DoorState) : (cancelOnDoor c i new p).rounds = p.rounds := by
  unfold cancelOnDoor
  split <;> simp

@[simp] theorem rounds_psqDoorChange (old new : DoorState) (x : Context) : (psqDoorChange c i old new x p).rounds = p.rounds := by
  unfold psqDoorChange
  split <;> simp

@[simp] theorem rounds_tellDoor (old new : DoorState) : (tellDoor c i old new p).rounds = p.rounds := by
  unfold tellDoor
  split
  · rfl
  · split
    · rfl
    · dsimp only
      split <;> simp

@[simp] theorem rounds_changeDoor (side : Side) (d : Door) : (changeDoor c i side d p).rounds = p.rounds := by
  unfold changeDoor
  split
  · rfl
  · dsimp only
    rw [rounds_tellDoor, rounds_foldl fun p a => rounds_raise c i p a, rounds_commitDoor]

@[simp] theorem rounds_deliver (input : SwitchInput) (level : Bool) : (deliver c i input level p).rounds = p.rounds := by
  unfold deliver
  split
  · unfold offtakeSwitch
    split <;> simp
  · unfold doorSwitch
    split
    · rfl
    · dsimp only
      split <;> simp

@[simp] theorem rounds_debounce (input : SwitchInput) : (debounce i input p).rounds = p.rounds := by
  unfold debounce
  split
  · rfl
  · dsimp only
    split
    · split <;> simp
    · rfl

@[simp] theorem rounds_leakExpires (side : Side) : (leakExpires c side i p).rounds = p.rounds := by
  unfold leakExpires
  split <;> simp

@[simp] theorem rounds_clearExpires (side : Side) : (clearExpires c side i p).rounds = p.rounds := by
  unfold clearExpires
  split <;> simp

@[simp] theorem rounds_leakingSpellExpires (side : Side) : (leakingSpellExpires c side i p).rounds = p.rounds := by
  unfold leakingSpellExpires
  split <;> simp

@[simp] theorem rounds_sealedSpellExpires (side : Side) : (sealedSpellExpires c side i p).rounds = p.rounds := by
  unfold sealedSpellExpires
  split <;> simp

@[simp] theorem rounds_valveTimerExpires : (valveTimerExpires c i p).rounds = p.rounds := by
  unfold valveTimerExpires
  split <;> simp

@[simp] theorem rounds_capTimerExpires : (capTimerExpires c i p).rounds = p.rounds := by
  unfold capTimerExpires
  split <;> simp

@[simp] theorem rounds_highTimerExpires : (highTimerExpires c i p).rounds = p.rounds := by
  unfold highTimerExpires
  split <;> simp

@[simp] theorem rounds_aspirateHoldExpires : (aspirateHoldExpires c i p).rounds = p.rounds := by
  unfold aspirateHoldExpires
  split <;> simp

/-! ## The oven commands -/

@[simp] theorem rounds_minute : (minute p).rounds = p.rounds := by
  unfold minute
  split
  · rfl
  · next c _ => exact rounds_foldl (fun p i => rounds_minuteAt c i p) _ p

@[simp] theorem rounds_takeOut : (takeOut c i p).rounds = p.rounds := by simp [takeOut]

@[simp] theorem rounds_panelOut : (panelOut c i p).rounds = p.rounds := by
  unfold panelOut
  split <;> simp

@[simp] theorem rounds_panelIn : (panelIn c i p).rounds = p.rounds := by simp [panelIn]

@[simp] theorem rounds_panelTarget (value : Word16) : (panelTarget value c i p).rounds = p.rounds := by
  unfold panelTarget
  split <;> simp

@[simp] theorem rounds_panelDeclare (value : Word16) (phase : Byte) : (panelDeclare value phase c i p).rounds = p.rounds := by
  unfold panelDeclare
  split
  · split <;> simp [declareCoking]
  · rfl

@[simp] theorem rounds_panelClear (n : Nat) : (panelClear c n p).rounds = p.rounds := by
  unfold panelClear
  split
  · simp
  · refine rounds_withLocal _ _ _ _ fun i => ?_
    unfold clearOvenAlarms
    split <;> simp

@[simp] theorem rounds_chargeAsk : (chargeAsk c i p).rounds = p.rounds := by
  unfold chargeAsk
  split
  · rfl
  · have asked (q : Part) : (askAspirate c i q).rounds = q.rounds := by
      unfold askAspirate
      split <;> simp
    simp [asked]

@[simp] theorem rounds_chargeEnd : (chargeEnd c i p).rounds = p.rounds := by simp [chargeEnd]

@[simp] theorem rounds_chargeLimit : (chargeLimit c i p).rounds = p.rounds := by
  unfold chargeLimit
  split <;> simp

/-! ## The scan, the outputs and the line -/

@[simp] theorem rounds_endScan (early : Bool) : (endScan c early p).rounds = p.rounds := by simp [endScan]

@[simp] theorem rounds_nextPlace : (nextPlace c p).rounds = p.rounds := by simp [nextPlace, startTransaction]

@[simp] theorem rounds_failRest : (failRest c p).rounds = p.rounds := rounds_foldl (fun p i => rounds_invalidSample c i p) _ p

@[simp] theorem rounds_sendStop : p.sendStop.rounds = p.rounds := rfl

@[simp] theorem rounds_transactionDone (code : Nat) : (transactionDone c code p).rounds = p.rounds := by
  simp [transactionDone]

@[simp] theorem rounds_channelNack : (channelNack c p).rounds = p.rounds := by simp [channelNack]

@[simp] theorem rounds_addressFails : (addressFails c p).rounds = p.rounds := by simp [addressFails]

@[simp] theorem rounds_clockFails : (clockFails c p).rounds = p.rounds := by simp [clockFails]

@[simp] theorem rounds_startScan : (startScan c p).rounds = p.rounds := by
  unfold startScan
  split <;> rfl

@[simp] theorem rounds_roundRobinOvs : (roundRobinOvs c p).rounds = p.rounds :=
  (rounds_withAsr _ _).trans (rounds_offerOvs _ p)

@[simp] theorem rounds_compareMatch : (compareMatch i p).rounds = p.rounds := by
  unfold compareMatch
  split <;> simp

@[simp] theorem rounds_millisecond (pins : Pins) : (millisecond pins p).rounds = p.rounds := by
  unfold millisecond
  split <;> rfl

@[simp] theorem rounds_scsPeriod : (scsPeriod c p).rounds = p.rounds := by
  unfold scsPeriod
  split <;> rfl

@[simp] theorem rounds_beginAttempt : (beginAttempt c p).rounds = p.rounds := by
  unfold beginAttempt
  split <;> simp

@[simp] theorem rounds_loseContention (urgency station : Nat) : (loseContention c urgency station p).rounds = p.rounds := by
  unfold loseContention
  split <;> simp

@[simp] theorem rounds_tellRemoval : (tellRemoval p).rounds = p.rounds := by
  have chp (p : Part) (i : Nat) : (reofferChp p i).rounds = p.rounds := by
    unfold reofferChp
    split <;> simp
  have pdn (p : Part) (e : PendingPdn) : (reofferPdn p e).rounds = p.rounds := by
    unfold reofferPdn
    split <;> rfl
  unfold tellRemoval reofferPdns reofferChps
  rw [rounds_foldl pdn, rounds_foldl chp, rounds_offerHead]

@[simp] theorem rounds_fail : (fail c p).rounds = p.rounds := by
  unfold fail
  split
  · rfl
  · dsimp only
    split
    · unfold enterSilence
      rw [rounds_foldl fun p _ => rounds_tellRemoval p]
      rfl
    · rfl

/-! ## Views but the peer list -/

@[simp] theorem rounds_takeMst (station : Nat) (position activity load aligned owner : Byte) :
    (takeMst c station position activity load aligned owner p).rounds = p.rounds := by
  unfold takeMst
  split
  · split <;> rfl
  · split
    · split <;> rfl
    · split
      · split <;> rfl
      · rfl

@[simp] theorem rounds_takeOvs (n : Nat) (phase : Phase) (age : Nat) : (takeOvs c n phase age p).rounds = p.rounds := by
  unfold takeOvs
  dsimp only
  split
  · rfl
  · split
    · rfl
    · split <;> rfl

@[simp] theorem rounds_takePdn (n : Nat) : (takePdn c n p).rounds = p.rounds := by
  unfold takePdn
  split <;> rfl

@[simp] theorem rounds_routeEcho (k : Kind) (sub : Subject) : (routeEcho c k sub p).rounds = p.rounds := by
  unfold routeEcho
  split <;> simp

end

end Sys2Proof.Machine

/-! SUPPORT. The promises about the bid round and the peer activity list, kept by every command. -/

namespace Sys2Proof.Machine

open Sys2Proof

/-! ## What the bid unit does keeps it sound (R25 to R33) -/

theorem Bsu.start_sound : Bsu.start.Sound := by simp [Bsu.Sound, Bsu.start, Timer.active]

section
variable {b : Bsu} (h : b.Sound)
include h

/-- Outside DEFERRING no deferral runs and no station is deferred to. -/
theorem Bsu.Sound.not_deferring (hr : b.round ≠ .deferring) : b.deferral.active = false ∧ b.deferredTo = none := by
  obtain ⟨-, -, -, -, deferral, station⟩ := h
  simpa [hr] using And.intro deferral station

/-- Outside BIDDING there is no record and no rival. -/
theorem Bsu.Sound.not_bidding (hr : b.round ≠ .bidding) : b.record = none ∧ b.rivals = [] := by
  obtain ⟨record, rivals, -⟩ := h
  exact ⟨by simpa [hr] using record, rivals hr⟩

theorem Bsu.Sound.bidFor (hr : b.round ≠ .deferring) (oven : Nat) (lateness : Int) : (b.bidFor oven lateness).Sound := by
  obtain ⟨timer, station⟩ := h.not_deferring hr
  simp [Bsu.Sound, Bsu.bidFor, timer, station]

theorem Bsu.Sound.lose (hr : b.round ≠ .deferring) : b.lose.Sound := by
  obtain ⟨timer, station⟩ := h.not_deferring hr
  simp [Bsu.Sound, Bsu.lose, timer, station]

theorem Bsu.Sound.win (hr : b.round ≠ .deferring) : b.win.Sound := by
  obtain ⟨timer, station⟩ := h.not_deferring hr
  simp [Bsu.Sound, Bsu.win, timer, station]

theorem Bsu.Sound.deferTo (hr : b.round ≠ .bidding) (c : Configuration) (station : Nat) :
    (b.deferTo c station).Sound := by
  obtain ⟨record, rivals⟩ := h.not_bidding hr
  simp [Bsu.Sound, Bsu.deferTo, record, rivals, Timer.active]

theorem Bsu.Sound.endDeferral (hr : b.round ≠ .bidding) : b.endDeferral.Sound := by
  obtain ⟨record, rivals⟩ := h.not_bidding hr
  simp [Bsu.Sound, Bsu.endDeferral, record, rivals, Timer.active]

theorem Bsu.Sound.withWindow (t : Timer) :
    ({ b with record := b.record.map fun r => { r with window := t } } : Bsu).Sound := by
  simpa [Bsu.Sound] using h

end

theorem storeRival_stations_of_listed {r : Rival} {rivals : List Rival} (h : ∃ x ∈ rivals, x.station = r.station) :
    (storeRival r rivals).map (·.station) = rivals.map (·.station) := by
  have listed : rivals.any (·.station == r.station) = true := by simpa using h
  simp only [storeRival, listed, if_true, List.map_map]
  refine List.map_congr_left fun x _ => ?_
  by_cases same : x.station = r.station <;> simp [same]

/-- A rival of no station listed takes the end of a list with room. -/
theorem storeRival_of_new {r : Rival} {rivals : List Rival} (h : ∀ x ∈ rivals, x.station ≠ r.station) :
    storeRival r rivals = if rivals.length < 8 then rivals ++ [r] else rivals := by
  have new : rivals.any (·.station == r.station) = false := by simpa using h
  simp only [storeRival, new, Bool.false_eq_true, if_false]
  rfl

theorem storeRival_length {r : Rival} {rivals : List Rival} (hl : rivals.length ≤ 8) :
    (storeRival r rivals).length ≤ 8 := by
  by_cases listed : ∃ x ∈ rivals, x.station = r.station
  · have same := congrArg List.length (storeRival_stations_of_listed listed)
    simp only [List.length_map] at same
    omega
  · rw [storeRival_of_new (by simpa using listed)]
    split
    · simpa
    · exact hl

theorem storeRival_nodup {r : Rival} {rivals : List Rival} (hn : (rivals.map (·.station)).Nodup) :
    ((storeRival r rivals).map (·.station)).Nodup := by
  by_cases listed : ∃ x ∈ rivals, x.station = r.station
  · rwa [storeRival_stations_of_listed listed]
  · have new : ∀ x ∈ rivals, x.station ≠ r.station := by simpa using listed
    rw [storeRival_of_new new]
    split
    · simpa [List.nodup_append, hn] using new
    · exact hn

theorem Bsu.Sound.storeRival {b : Bsu} (h : b.Sound) (hr : b.round = .bidding) (r : Rival) :
    ({ b with rivals := storeRival r b.rivals } : Bsu).Sound := by
  obtain ⟨record, -, length, nodup, deferral, station⟩ := h
  exact ⟨record, fun k => absurd hr k, storeRival_length length, storeRival_nodup nodup, deferral, station⟩

/-! ## What is done to the peer list keeps it in order (R116 to R118) -/

/-- At most eight entries, none of a station twice or of the own one, every refresh timer running. -/
structure PeersInOrder (own : Option Nat) (peers : List Peer) : Prop where
  length : peers.length ≤ 8
  nodup : (peers.map (·.station)).Nodup
  active : ∀ e ∈ peers, e.refresh.active = true
  other : ∀ e ∈ peers, own ≠ some e.station

theorem peersSound_iff (p : Part) : p.PeersSound ↔ PeersInOrder (p.config.map (·.station)) p.lvt.peers := by
  have other : (∀ c ∈ p.config.toList, ∀ e ∈ p.lvt.peers, e.station ≠ c.station)
      ↔ ∀ e ∈ p.lvt.peers, p.config.map (·.station) ≠ some e.station := by
    cases p.config <;> simp [eq_comm]
  exact ⟨fun ⟨length, nodup, active, own⟩ => ⟨length, nodup, active, other.mp own⟩,
    fun ⟨length, nodup, active, own⟩ => ⟨length, nodup, active, other.mpr own⟩⟩

/-- A station listed is refreshed to the end. -/
theorem withPeer_of_listed {n : Nat} {peers : List Peer} (h : ∃ e ∈ peers, e.station = n) :
    withPeer n peers = withoutPeer n peers ++ [⟨n, .running 6000⟩] := by
  have listed : peers.any (·.station == n) = true := by simpa using h
  simp only [withPeer, listed, if_true]
  rfl

/-- Any other is added at the end, in place of the first of a full list. -/
theorem withPeer_of_new {n : Nat} {peers : List Peer} (h : ∀ e ∈ peers, e.station ≠ n) :
    withPeer n peers = (if peers.length < 8 then peers else peers.tail) ++ [⟨n, .running 6000⟩] := by
  have new : peers.any (·.station == n) = false := by simpa using h
  simp only [withPeer, new, Bool.false_eq_true, if_false]
  exact (apply_ite (· ++ [_]) _ _ _).symm

section
variable {own : Option Nat} {peers : List Peer} (h : PeersInOrder own peers) (n : Nat)
include h

theorem PeersInOrder.sublist {fewer : List Peer} (hs : fewer.Sublist peers) : PeersInOrder own fewer where
  length := hs.length_le.trans h.length
  nodup := h.nodup.sublist (hs.map _)
  active e he := h.active e (hs.mem he)
  other e he := h.other e (hs.mem he)

theorem PeersInOrder.without : PeersInOrder own (withoutPeer n peers) := h.sublist List.filter_sublist

/-- An entry of another station, not yet listed, at the end of a list with room. -/
theorem PeersInOrder.append (hl : peers.length < 8) (hn : ∀ e ∈ peers, e.station ≠ n) (ho : own ≠ some n) (toward : Nat) :
    PeersInOrder own (peers ++ [⟨n, .running toward⟩]) where
  length := by simpa using hl
  nodup := by simpa [List.nodup_append, h.nodup] using hn
  active e he := by
    rcases List.mem_append.mp he with he | he
    · exact h.active e he
    · cases List.mem_singleton.mp he; rfl
  other e he := by
    rcases List.mem_append.mp he with he | he
    · exact h.other e he
    · cases List.mem_singleton.mp he; exact ho

theorem PeersInOrder.withPeer (ho : own ≠ some n) : PeersInOrder own (withPeer n peers) := by
  by_cases listed : ∃ e ∈ peers, e.station = n
  · have gone : ∀ e ∈ withoutPeer n peers, e.station ≠ n := by simp [withoutPeer]
    have shorter : (withoutPeer n peers).length < peers.length :=
      List.length_filter_lt_length_iff_exists.mpr (by simpa using listed)
    have room := shorter.trans_le h.length
    rw [withPeer_of_listed listed]
    exact (h.without n).append n room gone ho _
  · have new : ∀ e ∈ peers, e.station ≠ n := by simpa using listed
    rw [withPeer_of_new new]
    split
    · next room => exact h.append n room new ho _
    · have room : peers.tail.length < 8 := by
        have := h.length
        simp only [List.length_tail]
        omega
      exact (h.sublist peers.tail_sublist).append n room (fun e he => new e (List.mem_of_mem_tail he)) ho _

end

/-! ## What a command keeps -/

/-- What one part promises about the bid round and the peer list, the other does. -/
structure Part.KeepsRounds (p q : Part) : Prop where
  bsu : p.bsu.Sound → q.bsu.Sound
  peers : p.PeersSound → q.PeersSound

namespace Part.KeepsRounds

variable {p q r : Part}

theorem refl (p : Part) : p.KeepsRounds p := ⟨id, id⟩

theorem trans (h : p.KeepsRounds q) (k : q.KeepsRounds r) : p.KeepsRounds r := ⟨k.bsu ∘ h.bsu, k.peers ∘ h.peers⟩

theorem of_rounds_eq (h : q.rounds = p.rounds) : p.KeepsRounds q := by
  simp only [Part.rounds, Prod.mk.injEq] at h
  obtain ⟨bsu, peers, config⟩ := h
  constructor
  · rw [bsu]; exact id
  · rw [peersSound_iff, peersSound_iff, peers, config]; exact id

/-- Another bid unit, sound if the first was. -/
theorem withBsu {b : Bsu} (h : p.bsu.Sound → b.Sound) : p.KeepsRounds { p with bsu := b } := ⟨h, id⟩

/-- Another peer list, in order if the first was. -/
theorem withPeers {l : Lvt}
    (h : ∀ own, p.config.map (·.station) = own → PeersInOrder own p.lvt.peers → PeersInOrder own l.peers) :
    p.KeepsRounds { p with lvt := l } := by
  refine ⟨id, ?_⟩
  rw [peersSound_iff, peersSound_iff]
  exact h _ rfl

/-- A part whose blocks hold their start values promises both whatever came before. -/
theorem of_start (hb : q.bsu = .start) (hl : q.lvt.peers = []) : p.KeepsRounds q := by
  refine ⟨fun _ => hb ▸ Bsu.start_sound, fun _ => ?_⟩
  rw [peersSound_iff, hl]
  exact ⟨by simp, by simp, by simp, by simp⟩

theorem ite {b : Prop} [Decidable b] (h : b → p.KeepsRounds q) : p.KeepsRounds (if b then q else p) := by
  split
  · next hb => exact h hb
  · exact refl p

end Part.KeepsRounds

/-! ## The bid round (R26 to R36) -/

section
variable (c : Configuration) (p : Part)

theorem startRound_keepsRounds (key : BidKey) (hr : p.bsu.round = .idle) : p.KeepsRounds (startRound key p) := by
  have idle : p.bsu.round ≠ .deferring := by simp [hr]
  unfold startRound
  dsimp only
  split
  · exact (Part.KeepsRounds.of_rounds_eq (rounds_offer ..)).trans (.withBsu fun h => h.bidFor idle _ _)
  · exact .withBsu fun h => h.lose idle

theorem evaluateRound_keepsRounds : p.KeepsRounds (evaluateRound c p) := by
  unfold evaluateRound
  refine .ite fun ⟨idle, _⟩ => ?_
  split
  · exact .refl p
  · exact startRound_keepsRounds p _ idle

theorem answerRival_keepsRounds (r : Rival) (hr : p.bsu.round = .idle) : p.KeepsRounds (answerRival c r p) := by
  have deferred : p.KeepsRounds { p with bsu := p.bsu.deferTo c r.station } :=
    .withBsu fun h => h.deferTo (by simp [hr]) c r.station
  unfold answerRival
  dsimp only
  split
  · split
    · exact deferred
    · split
      · exact startRound_keepsRounds p _ hr
      · exact deferred
  · exact deferred

theorem takeBid_keepsRounds (r : Rival) : p.KeepsRounds (takeBid c r p) := by
  unfold takeBid
  split
  · exact .refl p
  · split
    · exact .of_rounds_eq (rounds_raiseStation ..)
    · split
      · next idle => exact answerRival_keepsRounds c p r idle
      · exact .refl p
      · next bidding => exact .withBsu fun h => h.storeRival bidding r

theorem decideRound_keepsRounds : p.KeepsRounds (decideRound c p) := by
  unfold decideRound
  split
  · next record bidding _ =>
    have inRound : p.bsu.round ≠ .deferring := by simp [bidding]
    refine .ite fun _ => ?_
    split
    · exact (Part.KeepsRounds.withBsu fun h => h.win inRound).trans (.of_rounds_eq (rounds_takeWin ..))
    · exact .withBsu fun h => h.lose inRound
  · exact .refl p

theorem holdOff_keepsRounds : p.KeepsRounds { p with bsu := { p.bsu with holdOff := .stopped } } := .withBsu id

theorem endDeferral_keepsRounds (hr : p.bsu.round = .deferring) : p.KeepsRounds { p with bsu := p.bsu.endDeferral } :=
  .withBsu fun h => h.endDeferral (by simp [hr])

theorem heardBack_keepsRounds (k : Kind) (sub : Subject) : p.KeepsRounds (heardBack c k sub p) := by
  unfold heardBack
  split
  · unfold bidHeardBack
    exact .ite fun _ => .withBsu fun h => h.withWindow _
  · unfold orderHeardBack
    split
    · exact .refl p
    · exact .ite fun _ => .of_rounds_eq rfl
  · exact .refl p

theorem succeed_keepsRounds : p.KeepsRounds (succeed c p) := by
  cases ha : p.bli.attempt with
  | none => simpa [succeed, ha] using Part.KeepsRounds.refl p
  | some a =>
    have counted : p.KeepsRounds (Claims.heard c a p) := .of_rounds_eq rfl
    refine (counted.trans (heardBack_keepsRounds c _ a.kind a.subject)).trans (.of_rounds_eq ?_)
    rw [succeed_eq ha]
    simp

/-! ## The peer list (R116 to R118) -/

theorem withoutPeer_keepsRounds (n : Nat) :
    p.KeepsRounds { p with lvt := { p.lvt with peers := withoutPeer n p.lvt.peers } } :=
  .withPeers fun _ _ h => h.without n

theorem peerAdded_keepsRounds (n : Nat) : p.KeepsRounds (peerAdded n p) := by
  unfold peerAdded
  exact .ite fun ⟨deferring, _⟩ => endDeferral_keepsRounds p deferring

theorem takeScs_keepsRounds {n : Nat} (hc : p.config = some c) (hn : n ≠ c.station) (stage : Nat) :
    p.KeepsRounds (takeScs n stage p) := by
  have listed : p.KeepsRounds { p with lvt := { p.lvt with peers := withPeer n p.lvt.peers } } := by
    refine .withPeers fun own e h => h.withPeer n ?_
    rw [← e, hc]
    simpa using hn.symm
  unfold takeScs
  split
  · exact .refl p
  · split
    · exact withoutPeer_keepsRounds p n
    · dsimp only
      split
      · exact listed
      · exact listed.trans (peerAdded_keepsRounds _ n)

/-! ## Loads, supplies and resets (R147 to R149) -/

theorem loadDone_keepsRounds (acked : Bool) (block : List Byte) (low : Bool) :
    p.KeepsRounds (loadDone acked block low p) := by
  unfold loadDone
  refine .ite fun reading => ?_
  split
  · exact .of_rounds_eq (by simp [Part.rounds, failLoad, Part.config, reading])
  · exact .of_start rfl rfl

theorem loadTimeout_keepsRounds : p.KeepsRounds (if p.load = .reading then failLoad p else p) :=
  .ite fun reading => .of_rounds_eq (by simp [Part.rounds, failLoad, Part.config, reading])

theorem retry_keepsRounds : p.KeepsRounds (if p.load = .failed ∧ p.retry.active = true then beginLoad p else p) :=
  .ite fun ⟨failed, _⟩ => .of_rounds_eq (by simp [Part.rounds, beginLoad, Part.config, failed])

theorem assertReset_keepsRounds : p.KeepsRounds (assertReset p) := by
  unfold assertReset
  split
  · exact .refl p
  · split
    · exact .of_start rfl rfl
    · exact .of_rounds_eq rfl

theorem releaseReset_keepsRounds : p.KeepsRounds (releaseReset p) := by
  unfold releaseReset
  refine .ite fun _ => ?_
  split
  · exact .of_start rfl rfl
  · exact .of_rounds_eq rfl

theorem applyMain_keepsRounds : p.KeepsRounds (applyMain p) := by
  unfold applyMain
  split
  · exact .refl p
  · split <;> exact .of_start rfl rfl

theorem loseMain_keepsRounds : p.KeepsRounds (loseMain p) := by
  unfold loseMain
  refine .ite fun _ => ?_
  dsimp only
  split <;> exact .of_start rfl rfl

theorem loseBackup_keepsRounds : p.KeepsRounds (loseBackup p) := by
  unfold loseBackup
  dsimp only
  split <;> exact .of_rounds_eq rfl

end

/-! ## Every command -/

/-- Whatever next state an answer gives keeps what `s` promises of the bid round and the peer list. -/
def State.AnswerKeepsRounds (s : State) (r : Host.Outcome State Fault Refusal) : Prop :=
  ∀ t, r = .next t → s.part.KeepsRounds t.part

section
variable {s : State}

theorem State.update_keepsRounds {f : Part → Part} (h : s.part.KeepsRounds (f s.part)) :
    s.AnswerKeepsRounds (s.update f) := by
  intro t e
  cases e
  exact h

theorem State.whenLoaded_keepsRounds {f : Configuration → Part → Part}
    (h : ∀ c, s.part.config = some c → s.part.KeepsRounds (f c s.part)) : s.AnswerKeepsRounds (s.whenLoaded f) := by
  refine State.update_keepsRounds ?_
  cases hc : s.part.config with
  | none => exact .refl _
  | some c => exact h c hc

/-- A command that leaves alone what the bid round and the peer list rest on. -/
theorem State.update_sameRounds {f : Part → Part} (h : (f s.part).rounds = s.part.rounds) :
    s.AnswerKeepsRounds (s.update f) := State.update_keepsRounds (.of_rounds_eq h)

theorem State.whenLoaded_sameRounds {f : Configuration → Part → Part} (h : ∀ c, (f c s.part).rounds = s.part.rounds) :
    s.AnswerKeepsRounds (s.whenLoaded f) := State.whenLoaded_keepsRounds fun c _ => .of_rounds_eq (h c)

theorem panelAt_sameRounds {h : Header} {oven : Byte} {f : Configuration → Nat → Part → Part}
    (hf : ∀ c i p, (f c i p).rounds = p.rounds) : s.AnswerKeepsRounds (panelAt h oven f s) :=
  State.whenLoaded_sameRounds fun c => by simp [hf]

end

/-- Every command keeps the bid round and the peer list sound. -/
theorem exec_keepsRounds (i : Instr) (s : State) : s.AnswerKeepsRounds (exec i s) := by
  cases i with
  | minuteExpiry => exact State.update_sameRounds (by simp)
  | pnlHold h oven => exact panelAt_sameRounds (by simp)
  | pnlRelease h oven => exact panelAt_sameRounds (by simp)
  | pnlOut h oven => exact panelAt_sameRounds (by simp)
  | pnlIn h oven => exact panelAt_sameRounds (by simp)
  | pnlTarget h oven value => exact panelAt_sameRounds (by simp)
  | pnlDeclare h oven value phase => exact panelAt_sameRounds (by simp)
  | pnlAbort h oven => exact State.whenLoaded_sameRounds (by simp)
  | pnlClear h oven => exact State.whenLoaded_sameRounds (by simp)
  | cha h oven => exact State.whenLoaded_sameRounds (by simp)
  | che h oven => exact State.whenLoaded_sameRounds (by simp)
  | chargeLimitExpiry oven =>
    unfold exec execChargeLimitExpiry
    exact State.whenLoaded_sameRounds (by simp)
  | evaluationExpiry low =>
    unfold exec execEvaluationExpiry
    refine State.whenLoaded_keepsRounds fun c _ => (evaluateRound_keepsRounds c s.part).trans (.of_rounds_eq ?_)
    exact rounds_holdStation ..
  | bid h oven lateness => exact State.whenLoaded_keepsRounds fun c _ => .ite fun _ => takeBid_keepsRounds c s.part _
  | windowExpiry => exact State.whenLoaded_keepsRounds fun c _ => decideRound_keepsRounds c s.part
  | holdOffExpiry =>
    unfold exec execHoldOffExpiry
    exact State.whenLoaded_keepsRounds fun _ _ => holdOff_keepsRounds s.part
  | deferralExpiry =>
    exact State.whenLoaded_keepsRounds fun _ _ => .ite fun ⟨deferring, _⟩ => endDeferral_keepsRounds s.part deferring
  | pas h oven => exact State.whenLoaded_sameRounds (by simp)
  | rms h oven => exact State.whenLoaded_sameRounds (by simp)
  | rmh h oven stroke =>
    refine State.whenLoaded_sameRounds fun c => ?_
    cases s.part.psq.context <;> simp
  | prepareLimitExpiry => exact State.whenLoaded_sameRounds (by simp)
  | armedLimitExpiry => exact State.whenLoaded_sameRounds (by simp)
  | permitTimerExpiry => exact State.whenLoaded_sameRounds (by simp)
  | rmhLimitExpiry => exact State.whenLoaded_sameRounds (by simp)
  | doorLimitExpiry => exact State.whenLoaded_sameRounds (by simp)
  | debounceExpiry place input =>
    unfold exec execDebounceExpiry
    exact State.update_sameRounds (by simp)
  | leakTimerExpiry oven side =>
    unfold exec execLeakTimerExpiry
    exact State.whenLoaded_sameRounds (by simp)
  | clearTimerExpiry oven side =>
    unfold exec execClearTimerExpiry
    exact State.whenLoaded_sameRounds (by simp)
  | leakingSpellExpiry oven side =>
    unfold exec execLeakingSpellExpiry
    exact State.whenLoaded_sameRounds (by simp)
  | sealedSpellExpiry oven side =>
    unfold exec execSealedSpellExpiry
    exact State.whenLoaded_sameRounds (by simp)
  | valveMotionTimerExpiry oven =>
    unfold exec execValveMotionTimerExpiry
    exact State.whenLoaded_sameRounds (by simp)
  | capMotionTimerExpiry oven =>
    unfold exec execCapMotionTimerExpiry
    exact State.whenLoaded_sameRounds (by simp)
  | pressureHighTimerExpiry oven =>
    unfold exec execPressureHighTimerExpiry
    exact State.whenLoaded_sameRounds (by simp)
  | aspirateHoldExpiry oven =>
    unfold exec execAspirateHoldExpiry
    exact State.whenLoaded_sameRounds (by simp)
  | quarterSecondExpiry =>
    unfold exec execQuarterSecondExpiry
    exact State.whenLoaded_sameRounds (by simp)
  | transactionComplete first second => exact State.whenLoaded_sameRounds (by simp)
  | channelByteNack => exact State.whenLoaded_sameRounds (by simp)
  | addressNack => exact State.whenLoaded_sameRounds (by simp)
  | clockHoldTimeout => exact State.whenLoaded_sameRounds (by simp)
  | pwmPeriodEnd => exact State.update_sameRounds rfl
  | qcr h id verdict reason => exact State.whenLoaded_sameRounds (by simp)
  | deadlineExpiry => exact State.whenLoaded_sameRounds (by simp)
  | mst h position activity load aligned owner => exact State.whenLoaded_sameRounds (by simp)
  | machineViewFreshnessExpiry view =>
    unfold exec execMachineViewFreshnessExpiry
    exact State.whenLoaded_sameRounds fun _ => by cases view <;> rfl
  | ovs h oven stateWord lateness doors offtake pressure alarms =>
    refine State.whenLoaded_sameRounds fun c => ?_
    cases phaseOfCode (stateWordPhase stateWord) <;> simp
  | neighbourViewFreshnessExpiry view =>
    unfold exec execNeighbourViewFreshnessExpiry
    exact State.whenLoaded_sameRounds fun _ => by cases view <;> rfl
  | pdn h oven stroke unpermitted => exact State.whenLoaded_sameRounds (by simp)
  | scs h stage oven reason anchor count head alarms =>
    refine State.whenLoaded_keepsRounds fun c hc => .ite fun other => takeScs_keepsRounds c s.part hc ?_ _
    simp only [fromOther, Bool.and_eq_true, bne_iff_ne] at other
    exact other.2
  | refreshTimerExpiry station =>
    unfold exec execRefreshTimerExpiry
    exact State.whenLoaded_keepsRounds fun _ _ => withoutPeer_keepsRounds s.part station
  | settleTimerExpiry => exact State.whenLoaded_keepsRounds fun _ _ => .ite fun _ => .of_rounds_eq rfl
  | lineIdleAttempt => exact State.whenLoaded_sameRounds (by simp)
  | lostContention urgency station => exact State.whenLoaded_sameRounds (by simp)
  | attemptSucceeded => exact State.whenLoaded_keepsRounds fun c _ => succeed_keepsRounds c s.part
  | attemptFailed => exact State.whenLoaded_sameRounds (by simp)
  | silentExpiry => exact State.whenLoaded_sameRounds (by simp)
  | scsPeriodExpiry => exact State.whenLoaded_sameRounds (by simp)
  | configLoadComplete acked block low => exact State.update_keepsRounds (loadDone_keepsRounds s.part acked block low)
  | configLoadClockTimeout => exact State.update_keepsRounds (loadTimeout_keepsRounds s.part)
  | configRetryExpiry => exact State.update_keepsRounds (retry_keepsRounds s.part)
  | resetAsserted => exact State.update_keepsRounds (assertReset_keepsRounds s.part)
  | resetReleased => exact State.update_keepsRounds (releaseReset_keepsRounds s.part)
  | mainSupplyApplied => exact State.update_keepsRounds (applyMain_keepsRounds s.part)
  | mainSupplyLost => exact State.update_keepsRounds (loseMain_keepsRounds s.part)
  | backupSupplyLost => exact State.update_keepsRounds (loseBackup_keepsRounds s.part)
  | millisecondExpiry pins => exact State.update_sameRounds (by simp)
  | pwmCompareMatch place =>
    unfold exec execPwmCompareMatch
    exact State.update_sameRounds (by simp)

/-- Settles O12, by the promises about the bid round and the peer list that every command keeps. -/
theorem roundsAndPeersStayInOrder : Obligations.RoundsAndPeersStayInOrder := by
  intro s t next
  have keeps : s.part.KeepsRounds t.part := by
    unfold step at next
    split at next
    · cases next
      exact .refl _
    · next i rest _ => exact exec_keepsRounds i { s with pending := rest } t next
  exact ⟨keeps.bsu, keeps.peers⟩

end Sys2Proof.Machine

/-! SUPPORT. Series arithmetic: the classes one after another fill the positions 0 to N - 1 (R20, R21). -/

namespace Sys2Proof.Machine

open Sys2Proof

/-! ## Blocks laid one after another -/

/-- Where the block of `a` begins when the blocks of a list, each of its size, are laid one after another. -/
def blockStart (size : Nat → Nat) (l : List Nat) (a : Nat) : Nat := ((l.takeWhile (· != a)).map size).sum

section
variable {size : Nat → Nat} {l : List Nat} {a b : Nat}

theorem blockStart_cons_self : blockStart size (a :: l) a = 0 := by simp [blockStart]

theorem blockStart_cons_other (h : b ≠ a) : blockStart size (b :: l) a = size b + blockStart size l a := by
  simp [blockStart, h]

/-- What stands before the first `a` of a list is what `blockStart` sums. -/
theorem blockStart_split (h : a ∈ l) : ∃ before after, l = before ++ a :: after
    ∧ blockStart size l a = (before.map size).sum := by
  obtain ⟨before, after, rfl, new⟩ := List.eq_append_cons_of_mem h
  have others : ∀ x ∈ before, (x != a) = true := fun x hx => by simpa using fun e : x = a => new (e ▸ hx)
  exact ⟨before, after, rfl, by simp [blockStart, List.takeWhile_append_of_pos others]⟩

/-- No block ends beyond the last. -/
theorem blockStart_add_size_le (h : a ∈ l) : blockStart size l a + size a ≤ (l.map size).sum := by
  obtain ⟨before, after, rfl, start⟩ := blockStart_split (size := size) h
  simp only [start, List.map_append, List.sum_append, List.map_cons, List.sum_cons]
  omega

/-- Of two blocks one ends before the other begins. -/
theorem blocks_apart (ha : a ∈ l) (hb : b ∈ l) (hne : a ≠ b) :
    blockStart size l a + size a ≤ blockStart size l b ∨ blockStart size l b + size b ≤ blockStart size l a := by
  induction l with
  | nil => simp at ha
  | cons x l ih =>
    by_cases hxa : x = a
    · subst hxa
      rw [blockStart_cons_self, blockStart_cons_other hne]
      omega
    · by_cases hxb : x = b
      · subst hxb
        rw [blockStart_cons_self, blockStart_cons_other hxa]
        omega
      · rw [blockStart_cons_other hxa, blockStart_cons_other hxb]
        have ha' : a ∈ l := (List.mem_cons.mp ha).resolve_left (Ne.symm hxa)
        have hb' : b ∈ l := (List.mem_cons.mp hb).resolve_left (Ne.symm hxb)
        have apart := ih ha' hb'
        omega

end

/-! ## The classes (R20) -/

theorem seriesPosition_eq (c : Configuration) (n : Nat) :
    seriesPosition c n = blockStart (classSize c) c.classOrder (classOf c n) + (n - 1) / c.step := rfl

/-- The sizes of the classes add up to the ovens: one oven more makes one class larger by one. -/
theorem sum_classSizes (step ovens : Nat) (h : 1 ≤ step) :
    ((List.range step).map fun r => (ovens + step - 1 - r) / step).sum = ovens := by
  induction ovens with
  | zero =>
    refine List.sum_eq_zero fun x hx => ?_
    obtain ⟨r, -, rfl⟩ := List.mem_map.mp hx
    exact Nat.div_eq_of_lt (by omega)
  | succ m ih =>
    have shift := (List.sum_range_succ' (fun r => (m + step - r) / step) step).symm.trans (List.sum_range_succ _ step)
    have first : (m + step - 0) / step = m / step + 1 := Nat.add_div_right m h
    have last : (m + step - step) / step = m / step := by rw [Nat.add_sub_cancel]
    have fewer : (fun r => (m + step - (r + 1)) / step) = fun r => (m + step - 1 - r) / step := by
      funext r
      congr 1
      omega
    have more : (fun r => (m + 1 + step - 1 - r) / step) = fun r => (m + step - r) / step := by
      funext r
      congr 1
      omega
    rw [first, last, fewer, ih] at shift
    rw [more]
    omega

/-- An oven's index in its class is below the class's size. -/
theorem index_lt_classSize {c : Configuration} (hs : 1 ≤ c.step) {n : Nat} (h1 : 1 ≤ n)
    (hN : n ≤ c.batteryOvens) : (n - 1) / c.step < classSize c (classOf c n) := by
  rw [classSize, Nat.lt_iff_add_one_le, Nat.le_div_iff_mul_le hs, Nat.add_mul, Nat.mul_comm]
  have parts := Nat.div_add_mod (n - 1) c.step
  have := Nat.mod_lt (n - 1) hs
  unfold classOf
  omega

section
variable {c : Configuration} (h : Claims.seriesConfig c)
include h

theorem classOf_mem (n : Nat) : classOf c n ∈ c.classOrder :=
  h.2.mem_iff.mpr (List.mem_range.mpr (Nat.mod_lt _ h.1))

theorem classSizes_sum : (c.classOrder.map (classSize c)).sum = c.batteryOvens := by
  rw [(h.2.map (classSize c)).sum_eq]
  exact sum_classSizes c.step c.batteryOvens h.1

theorem seriesPosition_lt {n : Nat} (h1 : 1 ≤ n) (hN : n ≤ c.batteryOvens) : seriesPosition c n < c.batteryOvens := by
  have inClass := index_lt_classSize h.1 h1 hN
  have inSeries := blockStart_add_size_le (size := classSize c) (classOf_mem h n)
  rw [classSizes_sum h] at inSeries
  rw [seriesPosition_eq]
  omega

theorem seriesPosition_injective {n m : Nat} (hn : 1 ≤ n) (hnN : n ≤ c.batteryOvens) (hm : 1 ≤ m)
    (hmN : m ≤ c.batteryOvens) (same : seriesPosition c n = seriesPosition c m) : n = m := by
  have inClass := index_lt_classSize h.1 hn hnN
  have inClass' := index_lt_classSize h.1 hm hmN
  rw [seriesPosition_eq, seriesPosition_eq] at same
  by_cases sameClass : classOf c n = classOf c m
  · rw [sameClass] at same
    have index : (n - 1) / c.step = (m - 1) / c.step := by omega
    have parts : n - 1 = m - 1 := Nat.ext_div_mod index sameClass
    omega
  · have apart := blocks_apart (size := classSize c) (classOf_mem h n) (classOf_mem h m) sameClass
    generalize (n - 1) / c.step = index, (m - 1) / c.step = index' at *
    omega

end

/-- Settles O26, by the classes laid one after another. -/
theorem positionsFillTheSeries : Obligations.PositionsFillTheSeries := by
  intro c h
  refine ⟨fun n => seriesPosition_lt h, fun n m => seriesPosition_injective h, fun n _ _ => ?_⟩
  obtain ⟨before, after, split, start⟩ := blockStart_split (size := classSize c) (classOf_mem h n)
  refine ⟨before, after, split, ?_⟩
  rw [seriesPosition_eq, start]
  congr 2
  refine List.map_congr_left fun r hr => ?_
  have below : r < c.step := List.mem_range.mp (h.2.mem_iff.mp (split ▸ List.mem_append_left _ hr))
  unfold classSize
  rcases Nat.lt_or_ge c.batteryOvens r with beyond | within
  · rw [Nat.div_eq_of_lt (by omega), Nat.div_eq_of_lt (by omega)]
  · congr 1
    omega

/-! ## The distance (R21) -/

/-- Settles O27, by the positions turned round to the anchor's. -/
theorem distanceFromTheAnchor : Obligations.DistanceFromTheAnchor := by
  intro c n h hn hnN
  refine ⟨rfl, fun a ha haN => ?_⟩
  have anchor := seriesPosition_lt h ha haN
  have turned (m : Nat) : distance c (some a) m
      = (seriesPosition c m + (c.batteryOvens - (seriesPosition c a + 1))) % c.batteryOvens := by
    rw [distance, Nat.add_sub_assoc anchor]
  refine ⟨?_, Nat.mod_lt _ (by omega), ?_, fun m hm hmN same => ?_⟩
  · rw [turned]
    push_cast [Nat.cast_sub (Nat.succ_le_of_lt anchor)]
    congr 1
    omega
  · have own := seriesPosition_lt h hn hnN
    have last : seriesPosition c n + c.batteryOvens - (seriesPosition c n + 1) = c.batteryOvens - 1 := by omega
    rw [distance, last, Nat.mod_eq_of_lt (by omega)]
  · rw [turned, turned] at same
    have positions : seriesPosition c n ≡ seriesPosition c m [MOD c.batteryOvens] := Nat.ModEq.add_right_cancel' _ same
    exact seriesPosition_injective h hn hnN hm hmN
      (positions.eq_of_lt_of_lt (seriesPosition_lt h hn hnN) (seriesPosition_lt h hm hmN))

end Sys2Proof.Machine

/-! SUPPORT. Wall support (R24), eligibility and the candidate (R22, R23). -/

namespace Sys2Proof.Machine

open Sys2Proof

/-! ## Wall support (R24) -/

theorem givesSupport_iff (c : Configuration) (ph : Phase) (age : Nat) :
    givesSupport c ph age = true ↔ (ph = .coking ∨ ph = .ready) ∧ c.supportAge ≤ age := by
  simp [givesSupport]

theorem viewSupports_iff (c : Configuration) (v : Option NeighbourView) : viewSupports c v = true
    ↔ ∃ x, v = some x ∧ x.fresh.active = true ∧ (x.phase = .coking ∨ x.phase = .ready) ∧ c.supportAge ≤ x.age := by
  cases v <;> simp [viewSupports, givesSupport_iff]

/-- A local oven gives support by its record. -/
theorem placeSupports_iff {p : Part} (hs : p.PlacesSound) {c : Configuration} (hc : p.config = some c) (j : Nat) :
    placeSupports c p j = true ↔ ∃ x ∈ p.places, x.oven.number = c.firstOven + j
      ∧ (x.oven.kept.phase = .coking ∨ x.oven.kept.phase = .ready) ∧ c.supportAge ≤ x.oven.kept.age := by
  have record : placeSupports c p j = true
      ↔ ∃ x, p.places[j]? = some x ∧ givesSupport c x.oven.kept.phase x.oven.kept.age = true := by
    cases h : p.places[j]? <;> simp [placeSupports, h]
  simp only [record, ← PlacesSound.mem_iff hs hc j, givesSupport_iff, and_assoc]

theorem supportBelow_local (c : Configuration) (p : Part) (j : Nat) : supportBelow c p (j + 1) = placeSupports c p j := by
  simp [supportBelow]

theorem supportAbove_local {c : Configuration} (p : Part) {i : Nat} (hi : i + 1 ≠ c.ovenCount) :
    supportAbove c p i = placeSupports c p (i + 1) := by
  simp [supportAbove, hi]

/-- Settles O28, by the place's side: the battery's end, a local neighbour or the neighbour view. -/
theorem wallSupportBySide : Obligations.WallSupportBySide := by
  intro s c n i pl ho hs old byRecord byView
  obtain ⟨hc, hi, -, -⟩ := ho
  obtain ⟨rfl, hlt⟩ := placeOf_eq hi
  obtain ⟨⟨-, -, -, -, first, -, -, last, -⟩, -⟩ := hs.2 c (by simp [hc])
  have record (j : Nat) : byRecord (c.firstOven + j) ↔ placeSupports c s.part j = true := (placeSupports_iff hs hc j).symm
  have view (v : Option NeighbourView) : byView v ↔ viewSupports c v = true := (viewSupports_iff c v).symm
  constructor
  · rw [view]
    cases i with
    | zero => by_cases h1 : c.firstOven = 1 <;> simp [supportBelow, h1]
    | succ j =>
      have below : c.firstOven + (j + 1) - 1 = c.firstOven + j := by omega
      have h1 : c.firstOven + (j + 1) ≠ 1 := by omega
      rw [below, record, supportBelow_local]
      simp [h1]
  · rw [view, Nat.add_assoc, record]
    by_cases hend : i + 1 = c.ovenCount
    · by_cases hn : c.firstOven + i = c.batteryOvens <;> simp [supportAbove, hend, hn]
    · have hn : c.firstOven + i ≠ c.batteryOvens := by omega
      rw [supportAbove_local s.part hend]
      simp [hend, hn]

/-! ## Eligibility (R23) -/

theorem isContextOven_eq_false_iff (p : Part) (n : Nat) :
    isContextOven p n = false ↔ ∀ x, p.psq.context = some x → x.oven ≠ n := by
  cases h : p.psq.context <;> simp [isContextOven, h]

theorem eligible_iff (c : Configuration) (p : Part) (i : Nat) : eligible c p i = true ↔ ∃ pl, p.places[i]? = some pl
    ∧ (pl.oven.kept.phase = .ready ∧ pl.oven.kept.hold = false)
    ∧ (∀ x, p.psq.context = some x → x.oven ≠ pl.oven.number)
    ∧ ((pl.doorP.state = .sealed ∨ pl.doorP.state = .leaking) ∧ (pl.doorC.state = .sealed ∨ pl.doorC.state = .leaking))
    ∧ pl.offtake.sub ≠ some .failed ∧ supportBelow c p i = true ∧ supportAbove c p i = true := by
  cases h : p.places[i]? with
  | none => simp [eligible, h]
  | some pl =>
    simp [eligible, h, wallSupport, bothLatched_iff, isLatched_iff, ← isContextOven_eq_false_iff, and_assoc]

/-! ## The order of the keys (R22) -/

/-- A key comes before another: by distance, then by lateness, the later first, then by oven number. -/
def BidKey.before (a b : BidKey) : Prop :=
  a.distance < b.distance ∨ (a.distance = b.distance ∧ a.negLateness < b.negLateness)
    ∨ (a.distance = b.distance ∧ a.negLateness = b.negLateness ∧ a.oven < b.oven)

theorem BidKey.beats_iff (a b : BidKey) : a.beats b = true ↔ a.before b := by
  unfold BidKey.beats BidKey.before
  split
  · simp only [decide_eq_true_eq]; omega
  · split <;> simp only [decide_eq_true_eq] <;> omega

theorem BidKey.not_before_self (a : BidKey) : ¬a.before a := by
  unfold BidKey.before
  omega

/-- What a key is not before, nothing after that key is before either. -/
theorem BidKey.not_before_trans {a b d : BidKey} (hab : ¬b.before a) (hbd : ¬d.before b) : ¬d.before a := by
  unfold BidKey.before at *
  omega

theorem BidKey.before.asymm {a b : BidKey} (h : a.before b) : ¬b.before a := by
  unfold BidKey.before at *
  omega

/-! ## The candidate (R23) -/

/-- The key that an eligible oven at a place bids with. -/
def Part.keyAt (c : Configuration) (p : Part) (i : Nat) : Option BidKey :=
  if eligible c p i then
    (p.places[i]?).map fun pl => bidKey c p.lvt.anchor pl.oven.number pl.oven.kept.lateness
  else none

theorem keyAt_eq_some_iff (c : Configuration) (p : Part) (i : Nat) (key : BidKey) : p.keyAt c i = some key
    ↔ ∃ pl, p.places[i]? = some pl ∧ eligible c p i = true
      ∧ key = bidKey c p.lvt.anchor pl.oven.number pl.oven.kept.lateness := by
  cases he : eligible c p i <;> simp [Part.keyAt, he, eq_comm]

theorem keyAt_eq_none_iff (c : Configuration) (p : Part) (i : Nat) : p.keyAt c i = none ↔ eligible c p i = false := by
  cases he : eligible c p i
  · simp [Part.keyAt, he]
  · obtain ⟨pl, hpl, -⟩ := (eligible_iff c p i).mp he
    simp [Part.keyAt, he, hpl]

/-- The lower of the best key so far and another place's. -/
def lowerKey (best : Option BidKey) : Option BidKey → Option BidKey
  | none => best
  | some key =>
    match best with
    | none => some key
    | some b => if key.beats b then some key else some b

theorem betterCandidate_eq (c : Configuration) (p : Part) (best : Option BidKey) (i : Nat) :
    betterCandidate c p best i = lowerKey best (p.keyAt c i) := by
  cases hpl : p.places[i]? with
  | none => simp [betterCandidate, Part.keyAt, lowerKey, hpl]
  | some pl =>
    cases he : eligible c p i
    · simp [betterCandidate, Part.keyAt, lowerKey, hpl, he]
    · cases best <;> simp [betterCandidate, Part.keyAt, lowerKey, hpl, he]

/-- The best of the first `n` places: none just when none has a key, else a key of theirs that none comes before. -/
structure BestBelow (keys : Nat → Option BidKey) (n : Nat) (best : Option BidKey) : Prop where
  none_iff : best = none ↔ ∀ i < n, keys i = none
  held : ∀ key, best = some key → ∃ i < n, keys i = some key
  lowest : ∀ key, best = some key → ∀ i < n, ∀ other, keys i = some other → ¬other.before key

namespace BestBelow

variable {keys : Nat → Option BidKey} {n : Nat} {best : Option BidKey}

/-- A place without a key leaves the best. -/
theorem skip (h : BestBelow keys n best) (hn : keys n = none) : BestBelow keys (n + 1) best where
  none_iff := by simp only [h.none_iff, Nat.forall_lt_succ_right, hn, and_true]
  held key e := by
    obtain ⟨i, hi, hk⟩ := h.held key e
    exact ⟨i, by omega, hk⟩
  lowest key e := by
    refine Nat.forall_lt_succ_right.mpr ⟨h.lowest key e, fun other ho => ?_⟩
    simp [hn] at ho

/-- A key that comes before the best, or the first of all, takes its place. -/
theorem replace (h : BestBelow keys n best) {key : BidKey} (hn : keys n = some key) (hb : ∀ b ∈ best, key.before b) :
    BestBelow keys (n + 1) (some key) where
  none_iff := by simp only [reduceCtorEq, false_iff]; exact fun k => by simp [k n (by omega)] at hn
  held k e := ⟨n, by omega, by rw [hn, ← e]⟩
  lowest k e := by
    cases e
    refine Nat.forall_lt_succ_right.mpr ⟨fun i hi other ho => ?_, fun other ho => ?_⟩
    · cases best with
      | none => simp [h.none_iff.mp rfl i hi] at ho
      | some b => exact BidKey.not_before_trans (hb b rfl).asymm (h.lowest b rfl i hi other ho)
    · cases hn.symm.trans ho
      exact key.not_before_self

/-- A key that does not come before the best leaves it. -/
theorem keep {key b : BidKey} (h : BestBelow keys n (some b)) (hn : keys n = some key) (hb : ¬key.before b) :
    BestBelow keys (n + 1) (some b) where
  none_iff := by simp only [reduceCtorEq, false_iff]; exact fun k => by simp [k n (by omega)] at hn
  held k e := by
    obtain ⟨i, hi, hk⟩ := h.held k e
    exact ⟨i, by omega, hk⟩
  lowest k e := by
    cases e
    refine Nat.forall_lt_succ_right.mpr ⟨h.lowest b rfl, fun other ho => ?_⟩
    cases hn.symm.trans ho
    exact hb

theorem succ (h : BestBelow keys n best) : BestBelow keys (n + 1) (lowerKey best (keys n)) := by
  cases hn : keys n with
  | none => exact h.skip hn
  | some key =>
    cases best with
    | none => exact h.replace hn (by simp)
    | some b =>
      simp only [lowerKey]
      split
      · next beats => exact h.replace hn (by simpa using (BidKey.beats_iff key b).mp beats)
      · next fails => exact h.keep hn (mt (BidKey.beats_iff key b).mpr fails)

end BestBelow

theorem candidate_best (c : Configuration) (p : Part) : BestBelow (p.keyAt c) p.places.length (candidate c p) := by
  unfold candidate
  induction p.places.length with
  | zero => exact ⟨by simp, by simp, by simp⟩
  | succ n ih =>
    rw [List.range_succ, List.foldl_append, List.foldl_cons, List.foldl_nil, betterCandidate_eq]
    exact ih.succ

/-- Settles O29, by the lowest key of the places looked through one after another. -/
theorem candidateHasTheLowestKey : Obligations.CandidateHasTheLowestKey := by
  intro c p keyOf latched
  obtain ⟨none_iff, held, lowest⟩ := candidate_best c p
  refine ⟨eligible_iff c p, by simpa only [keyAt_eq_none_iff] using none_iff, fun key hkey => ⟨?_, fun i pl hpl he => ?_⟩⟩
  · obtain ⟨i, -, hk⟩ := held key hkey
    obtain ⟨pl, hpl, he, e⟩ := (keyAt_eq_some_iff c p i key).mp hk
    exact ⟨i, pl, hpl, he, e⟩
  · exact lowest key hkey i (List.getElem?_eq_some_iff.mp hpl).1 _ ((keyAt_eq_some_iff c p i _).mpr ⟨pl, hpl, he, rfl⟩)

end Sys2Proof.Machine

/-! SUPPORT. The bid round's commands (R26 to R35): the evaluation, a rival's BID, the window and the two waits. -/

namespace Sys2Proof.Machine

open Sys2Proof

/-- A command that is a meaning of the loaded part runs it. -/
theorem runs_of_whenLoaded {s : State} {c : Configuration} (hc : s.part.config = some c) {i : Instr}
    {f : Configuration → Part → Part} (e : exec i s = s.whenLoaded f) : s.Runs i (f c s.part) :=
  e.trans (State.whenLoaded_some hc f)

theorem entryConditions_iff (p : Part) : entryConditions p = true ↔ Claims.roundMayStart p := by
  simp only [entryConditions, Claims.roundMayStart, Bool.and_eq_true, carFree_iff, pusherReady_iff, beq_iff_eq,
    Option.isNone_iff_eq_none, List.isEmpty_iff, and_assoc]

theorem startRound_eq (key : BidKey) (p : Part) : startRound key p = Claims.roundBegun key p := rfl

/-! ## The evaluation expiry (R26, R27, R146) -/

theorem holdBackup_eq (c : Configuration) (low : Bool) (p : Part) :
    holdStation c .backupLow low (p.hearBackup low) = Claims.withBackup c low p := by
  cases low <;> rfl

theorem evaluation_runs {s : State} {c : Configuration} (hc : s.part.config = some c) (low : Bool) :
    s.Runs (.evaluationExpiry low) (Claims.withBackup c low (evaluateRound c s.part)) := by
  rw [← holdBackup_eq]
  exact runs_of_whenLoaded hc
    (f := fun c p => holdStation c .backupLow low ((evaluateRound c p).hearBackup low)) rfl

/-- Settles O30, by the entry conditions and the candidate. -/
theorem evaluationStartsARound : Obligations.EvaluationStartsARound := by
  intro s c low hc
  have runs := evaluation_runs hc low
  constructor
  · intro key idle may found
    have begun : evaluateRound c s.part = Claims.roundBegun key s.part := by
      simp only [evaluateRound, idle, (entryConditions_iff _).mpr may, found, startRound_eq, and_self, if_true]
    exact begun ▸ runs
  · intro fails
    have left : evaluateRound c s.part = s.part := by
      unfold evaluateRound
      split
      · next h =>
        split
        · rfl
        · next key found => exact absurd ⟨h.1, (entryConditions_iff _).mp h.2, by simp [found]⟩ fails
      · rfl
    rw [left] at runs
    exact runs

/-! ## A rival's BID (R28, R32 to R35) -/

theorem isLocal_eq (c : Configuration) (n : Nat) : isLocal c n = (placeOf c n).isSome := by
  unfold isLocal placeOf
  split <;> simp_all

theorem raiseOverlap_eq (c : Configuration) (p : Part) : raiseStation c .sectionOverlap p = { p with asr := { p.asr with
    station := p.asr.station ||| 0x40
    relay := relayDecision c p.places (p.asr.station ||| 0x40) p.asr.configFault } } := rfl

theorem bid_runs {s : State} {c : Configuration} {h : Header} (hc : s.part.config = some c) (hf : fromOther h c = true)
    (oven : Byte) (lateness : Word16) :
    s.Runs (.bid h oven lateness) (takeBid c ⟨h.station.toNat, oven.toNat, lateness.toInt⟩ s.part) := by
  have runs := runs_of_whenLoaded hc (i := .bid h oven lateness) rfl
  rw [if_pos hf] at runs
  exact runs

/-- A rival's BID for an oven of another station goes by the round's state. -/
theorem takeBid_foreign {c : Configuration} {r : Rival} {p : Part} (h1 : 1 ≤ r.oven) (hN : r.oven ≤ c.batteryOvens)
    (hl : placeOf c r.oven = none) : takeBid c r p = match p.bsu.round with
      | .idle => answerRival c r p
      | .deferring => p
      | .bidding => { p with bsu := { p.bsu with rivals := storeRival r p.bsu.rivals } } := by
  have inside : ¬(r.oven = 0 ∨ c.batteryOvens < r.oven) := by omega
  have foreign : isLocal c r.oven = false := by rw [isLocal_eq, hl]; rfl
  unfold takeBid
  rw [if_neg inside, foreign]
  rfl

/-- A rival of a station listed stands in its place. -/
theorem storeRival_of_listed {r : Rival} {rivals : List Rival} (h : ∃ x ∈ rivals, x.station = r.station) :
    storeRival r rivals = rivals.map fun x => if x.station = r.station then r else x := by
  have listed : rivals.any (·.station == r.station) = true := by simpa using h
  simp only [storeRival, listed, if_true]

theorem answerRival_of_beats {c : Configuration} {r : Rival} {p : Part} {key : BidKey} (may : Claims.roundMayStart p)
    (found : candidate c p = some key) (beats : key.beats (bidKey c p.lvt.anchor r.oven r.lateness) = true) :
    answerRival c r p = Claims.roundBegun key p := by
  simp only [answerRival, (entryConditions_iff p).mpr may, found, beats, if_true, startRound_eq]

theorem answerRival_of_not_beats {c : Configuration} {r : Rival} {p : Part} (h : ¬(Claims.roundMayStart p
      ∧ ∃ key, candidate c p = some key ∧ key.beats (bidKey c p.lvt.anchor r.oven r.lateness) = true)) :
    answerRival c r p = { p with bsu := p.bsu.deferTo c r.station } := by
  unfold answerRival
  dsimp only
  split
  · next may =>
    split
    · rfl
    · next key found =>
      refine if_neg fun beats => h ⟨(entryConditions_iff p).mp may, key, found, beats⟩
  · rfl

/-- Settles O31, by the oven's range and the round's state. -/
theorem rivalBidsAreTakenByState : Obligations.RivalBidsAreTakenByState := by
  intro s c h oven lateness hc hf n rival set rivalRuns
  have runs := bid_runs hc hf oven lateness
  refine ⟨fun outside => runs.ignores (if_pos outside), fun h1 hN hl => ?_, fun h1 hN hl => ?_⟩
  · have inside : ¬(n = 0 ∨ c.batteryOvens < n) := by omega
    have overlaps : isLocal c n = true := by rw [isLocal_eq, hl]
    refine runs.congr ?_
    rw [takeBid, if_neg inside, if_pos overlaps, raiseOverlap_eq]
  · have taken := takeBid_foreign (r := rival) (p := s.part) h1 hN hl
    refine ⟨fun deferring => ?_, fun bidding => ?_, fun key idle may found beats => ?_, fun idle fails => ?_⟩
    · rw [deferring] at taken
      exact runs.ignores taken
    · rw [bidding] at taken
      exact ⟨_, runs.congr taken, storeRival_of_listed, storeRival_of_new⟩
    · rw [idle] at taken
      exact runs.congr (taken.trans (answerRival_of_beats may found beats))
    · rw [idle] at taken
      exact runs.congr (taken.trans (answerRival_of_not_beats fails))

/-! ## The end of a round and the two waits (R29, R31, R33) -/

theorem roundWon_iff (c : Configuration) (s : State) (record : BidRecord) :
    roundWon c record s.part = true ↔ Claims.roundIsWon c s record := by
  refine ⟨fun h => ?_, roundWon_of_claim⟩
  simp only [roundWon, Bool.and_eq_true, carFree_iff, pusherReady_iff, Option.isNone_iff_eq_none, beatsAll,
    List.all_eq_true] at h
  obtain ⟨⟨⟨⟨noPush, here⟩, car⟩, pusher⟩, rivals⟩ := h
  refine ⟨noPush, ?_, car, pusher, rivals⟩
  split at here
  · exact absurd here (by decide)
  · next i hi => exact ⟨i, hi, here⟩

/-- Settles O32, by the win conditions and the two timers. -/
theorem roundsAreLostAndWaitsEnd : Obligations.RoundsAreLostAndWaitsEnd := by
  intro s c hc
  have window : s.Runs .windowExpiry (decideRound c s.part) := runs_of_whenLoaded hc rfl
  have holdOff := runs_of_whenLoaded hc (i := .holdOffExpiry)
    (f := fun _ p => { p with bsu := { p.bsu with holdOff := .stopped } }) rfl
  have deferral := runs_of_whenLoaded hc (i := .deferralExpiry) rfl
  refine ⟨fun record bidding held runs fails => window.congr ?_, holdOff, fun deferring active => ?_,
    fun other => deferral.ignores (if_neg fun h => other h.1)⟩
  · have lost : roundWon c record s.part = false := by simpa using mt (roundWon_iff c s record).mp fails
    simp only [decideRound, bidding, held, runs, lost, if_true]
    rfl
  · exact deferral.congr (if_pos ⟨deferring, active⟩)

end Sys2Proof.Machine

/-! SUPPORT. What other stations report (R113 to R119): the neighbour views, the anchor, the peer list and the settle timer. -/

namespace Sys2Proof.Machine

open Sys2Proof

/-! ## OVS (R35, R113, R114) -/

theorem phaseOfCode_phaseCode (ph : Phase) : phaseOfCode (Claims.phaseCode ph) = some ph := by cases ph <;> rfl

theorem ovs_runs {s : State} {c : Configuration} {h : Header} (hc : s.part.config = some c) (hf : fromOther h c = true)
    (oven : Byte) (word lateness : Word16) (doors : Byte) (offtake pressure alarms : Word16) :
    s.Runs (.ovs h oven word lateness doors offtake pressure alarms)
      (match phaseOfCode (word.toNat / 4096 % 8) with
      | none => s.part
      | some ph => takeOvs c oven.toNat ph (word.toNat % 4096) s.part) := by
  have runs := runs_of_whenLoaded hc (i := .ovs h oven word lateness doors offtake pressure alarms) rfl
  rw [if_pos hf] at runs
  exact runs

section
variable {c : Configuration} {n : Nat} (ph : Phase) (age : Nat) (p : Part)

theorem takeOvs_local (hl : (placeOf c n).isSome = true) : takeOvs c n ph age p = raiseStation c .sectionOverlap p := by
  rw [takeOvs, isLocal_eq, hl]
  rfl

section
variable (hl : placeOf c n = none)
include hl

theorem takeOvs_lower (h1 : 1 ≤ n) (hn : n + 1 = c.firstOven) :
    takeOvs c n ph age p = { p with lvt := { p.lvt with lower := some ⟨ph, age, .running 6000⟩ } } := by
  have foreign : isLocal c n = false := by rw [isLocal_eq, hl]; rfl
  have lower : hasLower c = true ∧ n + 1 = c.firstOven := ⟨decide_eq_true (by omega), hn⟩
  simp only [takeOvs, foreign, Bool.false_eq_true, if_false]
  exact if_pos lower

theorem takeOvs_upper (h1 : 1 ≤ n) (hN : n ≤ c.batteryOvens) (hn : n = c.firstOven + c.ovenCount) :
    takeOvs c n ph age p = { p with lvt := { p.lvt with upper := some ⟨ph, age, .running 6000⟩ } } := by
  have foreign : isLocal c n = false := by rw [isLocal_eq, hl]; rfl
  have notLower : ¬(hasLower c = true ∧ n + 1 = c.firstOven) := by omega
  have upper : hasUpper c = true ∧ n = c.firstOven + c.ovenCount := ⟨decide_eq_true (by omega), hn⟩
  simp only [takeOvs, foreign, Bool.false_eq_true, if_false, notLower]
  exact if_pos upper

/-- An oven beside neither end of the section has no view. -/
theorem takeOvs_elsewhere (hlower : n = 0 ∨ n + 1 ≠ c.firstOven)
    (hupper : c.batteryOvens < n ∨ n ≠ c.firstOven + c.ovenCount) : takeOvs c n ph age p = p := by
  have foreign : isLocal c n = false := by rw [isLocal_eq, hl]; rfl
  have notLower : ¬(hasLower c = true ∧ n + 1 = c.firstOven) := by
    simp only [hasLower, decide_eq_true_eq]
    omega
  have notUpper : ¬(hasUpper c = true ∧ n = c.firstOven + c.ovenCount) := by
    simp only [hasUpper, decide_eq_true_eq]
    omega
  simp only [takeOvs, foreign, Bool.false_eq_true, if_false, notLower, notUpper]

end
end

/-! ## PDN (R115) -/

theorem pdn_runs {s : State} {c : Configuration} {h : Header} (hc : s.part.config = some c) (hf : fromOther h c = true)
    (oven stroke unpermitted : Byte) : s.Runs (.pdn h oven stroke unpermitted) (takePdn c oven.toNat s.part) := by
  have runs := runs_of_whenLoaded hc (i := .pdn h oven stroke unpermitted) rfl
  rw [if_pos hf] at runs
  exact runs

/-! ## SCS (R33, R116, R117) -/

theorem scs_runs {s : State} {c : Configuration} {h : Header} (hc : s.part.config = some c) (hf : fromOther h c = true)
    (stage oven reason anchor count head alarms : Byte) :
    s.Runs (.scs h stage oven reason anchor count head alarms) (takeScs h.station.toNat stage.toNat s.part) := by
  have runs := runs_of_whenLoaded hc (i := .scs h stage oven reason anchor count head alarms) rfl
  rw [if_pos hf] at runs
  exact runs

theorem withoutPeer_eq (n : Nat) (peers : List Peer) :
    withoutPeer n peers = peers.filter fun x => decide (x.station ≠ n) := by
  refine List.filter_congr fun x _ => ?_
  rw [Bool.eq_iff_iff]
  simp

/-- An addition to the peer list ends a deferral to its station. -/
theorem peerAdded_eq (n : Nat) (p : Part) : peerAdded n p = { p with
    bsu := if p.bsu.round = .deferring ∧ p.bsu.deferredTo = some n then p.bsu.endDeferral else p.bsu } := by
  unfold peerAdded
  split <;> rfl

section
variable {n stage : Nat} {p : Part} (h1 : 1 ≤ stage) (h5 : stage ≤ 5)
include h1 h5

theorem takeScs_listed (h : ∃ x ∈ p.lvt.peers, x.station = n) : takeScs n stage p
    = { p with lvt := { p.lvt with peers := withoutPeer n p.lvt.peers ++ [⟨n, .running 6000⟩] } } := by
  have listed : p.lvt.peers.any (·.station == n) = true := by simpa using h
  rw [takeScs, if_neg (by omega), if_neg (by omega), if_pos listed, withPeer_of_listed h]

theorem takeScs_new (h : ∀ x ∈ p.lvt.peers, x.station ≠ n) : takeScs n stage p
    = peerAdded n { p with lvt := { p.lvt with
        peers := (if p.lvt.peers.length < 8 then p.lvt.peers else p.lvt.peers.tail) ++ [⟨n, .running 6000⟩] } } := by
  have new : ¬p.lvt.peers.any (·.station == n) = true := by simpa using h
  rw [takeScs, if_neg (by omega), if_neg (by omega), if_neg new, withPeer_of_new h]

end

/-- Settles O54, by the meaning of each report and expiry. -/
theorem reportsFillTheViews : Obligations.ReportsFillTheViews := by
  intro s c h hc hf lvtBecomes
  refine ⟨fun oven word lateness doors offtake pressure alarms => ⟨fun other => ?_, fun ph code => ?_⟩, ?_, ?_,
    fun oven stroke unpermitted => ?_, fun stage oven reason anchor count head alarms => ?_, fun n => ?_, fun active => ?_,
    fun stopped => ?_⟩
  · have runs := ovs_runs hc hf oven word lateness doors offtake pressure alarms
    rw [other] at runs
    exact runs
  · have runs := ovs_runs hc hf oven word lateness doors offtake pressure alarms
    rw [code, phaseOfCode_phaseCode] at runs
    intro view set
    exact ⟨fun hl => runs.congr ((takeOvs_local ph _ _ hl).trans (raiseOverlap_eq c s.part)),
      fun hl h1 hn => runs.congr (takeOvs_lower ph _ _ hl h1 hn),
      fun hl h1 hN hn => runs.congr (takeOvs_upper ph _ _ hl h1 hN hn),
      fun hl hlower hupper => runs.ignores (takeOvs_elsewhere ph _ _ hl hlower hupper)⟩
  · exact runs_of_whenLoaded hc (f := fun _ p => { p with lvt := p.lvt.neighbourStale .lower }) rfl
  · exact runs_of_whenLoaded hc (f := fun _ p => { p with lvt := p.lvt.neighbourStale .upper }) rfl
  · have runs := pdn_runs hc hf oven stroke unpermitted
    refine ⟨fun h1 hN => runs.congr (if_pos ⟨h1, hN⟩), fun outside => runs.ignores (if_neg ?_)⟩
    rw [byte_eq_zero_iff] at outside
    omega
  · have runs := scs_runs hc hf stage oven reason anchor count head alarms
    intro e n others entry listed bsu
    have without : withoutPeer n s.part.lvt.peers = others := withoutPeer_eq ..
    refine ⟨fun beyond => runs.ignores (if_pos beyond), fun none => runs.congr ?_, fun h1 h5 hl => runs.congr ?_,
      fun h1 h5 hl room => runs.congr ?_, fun h1 h5 hl full => runs.congr ?_⟩
    · subst none
      rw [← without]
      rfl
    · rw [takeScs_listed h1 h5 hl, without]
    · have new : ∀ x ∈ s.part.lvt.peers, x.station ≠ n := fun x hx k => hl ⟨x, hx, k⟩
      rw [takeScs_new h1 h5 new, if_pos room, peerAdded_eq]
      rfl
    · have new : ∀ x ∈ s.part.lvt.peers, x.station ≠ n := fun x hx k => hl ⟨x, hx, k⟩
      rw [takeScs_new h1 h5 new, if_neg (by omega), peerAdded_eq]
      rfl
  · have runs := runs_of_whenLoaded hc (i := .refreshTimerExpiry n)
      (f := fun _ p => { p with lvt := { p.lvt with peers := withoutPeer n p.lvt.peers } }) rfl
    rw [withoutPeer_eq] at runs
    exact runs
  · exact (runs_of_whenLoaded hc (i := .settleTimerExpiry) rfl).congr (if_pos active)
  · exact (runs_of_whenLoaded hc (i := .settleTimerExpiry) rfl).ignores (if_neg (by simp [stopped]))

end Sys2Proof.Machine

/-! SUPPORT. The promises about the push unit (R38, R49): the contexts that the stages allow, and the operations that keep them. -/

namespace Sys2Proof.Machine

open Sys2Proof

/-! ## The contexts of the stages (R38 to R55) -/

namespace Context.Sound

variable {x : Context}

theorem of_won (oven : Nat) : (Context.won oven).Sound := by
  simp [Context.Sound, Context.won, Context.fresh, Timer.active]

theorem of_unannounced (oven : Nat) : (Context.unannounced oven).Sound := by
  simp [Context.Sound, Context.unannounced, Context.fresh, Timer.active]

theorem arm (h : x.Sound) (hs : x.stage = .prepare) (hd : x.spotDone = true) : x.arm.Sound := by
  obtain ⟨-, permit, rmh, door, -, reason, pi, spot, -⟩ := h
  simp_all [Context.Sound, Context.arm, Timer.active]

theorem aborted (h : x.Sound) (hs : x.stage = .prepare ∨ x.stage = .armed) (r : AbortReason) : (x.aborted r).Sound := by
  obtain ⟨-, -, rmh, -, -, -, -, -, -⟩ := h
  have still : x.rmhLimit.active ≠ true := fun on => by simp [rmh on] at hs
  exact ⟨by simp [Context.aborted, Timer.active], nofun, fun on => absurd on still, fun _ => .inr rfl, fun k => absurd rfl k,
    by simp [Context.aborted], fun _ => rfl, nofun, nofun⟩

theorem ramStart (h : x.Sound) (unpermitted : Bool) : (x.ramStart unpermitted).Sound := by
  obtain ⟨-, -, -, -, -, -, -, spot, -⟩ := h
  simpa [Context.Sound, Context.ramStart, Timer.active] using spot

theorem home (h : x.Sound) (hs : x.stage = .pushing) (stroke : Nat) : (x.home stroke).Sound := by
  obtain ⟨armed, permit, -, -, prepare, reason, pi, spot, -⟩ := h
  simp_all [Context.Sound, Context.home, Timer.active]

theorem backToPrepare (h : x.Sound) (hs : x.stage = .armed) :
    ({ x with stage := .prepare, armedLimit := .stopped, permit := .stopped } : Context).Sound := by
  obtain ⟨-, -, rmh, door, -, reason, pi, spot, -⟩ := h
  simp_all [Context.Sound, Timer.active]

theorem askedPi (h : x.Sound) (hs : x.stage = .returning) : ({ x with piRequested := true } : Context).Sound := by
  obtain ⟨armed, permit, rmh, door, prepare, reason, -, spot, done⟩ := h
  exact ⟨armed, permit, rmh, door, prepare, reason, fun _ => hs, spot, done⟩

theorem piTakenBack (h : x.Sound) : ({ x with piRequested := false } : Context).Sound := by
  obtain ⟨armed, permit, rmh, door, prepare, reason, -, spot, done⟩ := h
  exact ⟨armed, permit, rmh, door, prepare, reason, nofun, spot, done⟩

theorem permitStopped (h : x.Sound) : ({ x with permit := .stopped } : Context).Sound := by
  obtain ⟨armed, -, rmh, door, prepare, reason, pi, spot, done⟩ := h
  exact ⟨armed, nofun, rmh, door, prepare, reason, pi, spot, done⟩

theorem permitted (h : x.Sound) (hs : x.stage = .armed) (toward : Nat) :
    ({ x with permit := .running toward } : Context).Sound := by
  obtain ⟨armed, -, rmh, door, prepare, reason, pi, spot, done⟩ := h
  exact ⟨armed, fun _ => hs, rmh, door, prepare, reason, pi, spot, done⟩

theorem prepareExpired (h : x.Sound) (ht : x.prepareLimit.active = true) :
    ({ x with prepareLimit := .expired } : Context).Sound := by
  obtain ⟨armed, permit, rmh, door, prepare, reason, pi, spot, done⟩ := h
  exact ⟨armed, permit, rmh, door, fun _ => prepare fun e => by simp [e, Limit.active] at ht, reason, pi, spot, done⟩

theorem rmhStopped (h : x.Sound) : ({ x with rmhLimit := .stopped } : Context).Sound := by
  obtain ⟨armed, permit, -, door, prepare, reason, pi, spot, done⟩ := h
  exact ⟨armed, permit, nofun, door, prepare, reason, pi, spot, done⟩

theorem doorStopped (h : x.Sound) : ({ x with doorLimit := .stopped } : Context).Sound := by
  obtain ⟨armed, permit, rmh, -, prepare, reason, pi, spot, done⟩ := h
  exact ⟨armed, permit, rmh, nofun, prepare, reason, pi, spot, done⟩

theorem spotAsked (h : x.Sound) (hd : x.spotDone = false) : ({ x with spotAwaited := true } : Context).Sound := by
  obtain ⟨armed, permit, rmh, door, prepare, reason, pi, -, done⟩ := h
  exact ⟨armed, permit, rmh, door, prepare, reason, pi, fun _ => hd, done⟩

theorem spotHeard (h : x.Sound) : ({ x with spotAwaited := false } : Context).Sound := by
  obtain ⟨armed, permit, rmh, door, prepare, reason, pi, -, done⟩ := h
  exact ⟨armed, permit, rmh, door, prepare, reason, pi, nofun, done⟩

theorem spotTaken (h : x.Sound) : ({ x with spotAwaited := false, spotDone := true } : Context).Sound := by
  obtain ⟨armed, permit, rmh, door, prepare, reason, pi, -, -⟩ := h
  exact ⟨armed, permit, rmh, door, prepare, reason, pi, nofun, fun _ => rfl⟩

end Context.Sound

/-! ## The pending PDN list (R49) -/

/-- In rising oven number, no oven twice. -/
def PdnsInOrder (l : List PendingPdn) : Prop := l.Pairwise fun a b => a.oven < b.oven

theorem mem_insertPdn {e y : PendingPdn} {l : List PendingPdn} (h : y ∈ insertPdn e l) : y = e ∨ y ∈ l := by
  induction l with
  | nil => simpa [insertPdn] using h
  | cons x xs ih =>
    unfold insertPdn at h
    split at h
    · exact (List.mem_cons.mp h).imp_right (List.mem_cons_of_mem x)
    · split at h
      · exact List.mem_cons.mp h
      · rcases List.mem_cons.mp h with rfl | h
        · exact .inr List.mem_cons_self
        · exact (ih h).imp_right (List.mem_cons_of_mem x)

theorem PdnsInOrder.insert {l : List PendingPdn} (h : PdnsInOrder l) (e : PendingPdn) : PdnsInOrder (insertPdn e l) := by
  induction l with
  | nil => exact List.pairwise_singleton _ e
  | cons x xs ih =>
    obtain ⟨first, rest⟩ := List.pairwise_cons.mp h
    unfold insertPdn
    split
    · next same => exact List.pairwise_cons.mpr ⟨fun y hy => same ▸ first y hy, rest⟩
    · split
      · next below =>
        refine List.pairwise_cons.mpr ⟨fun y hy => ?_, h⟩
        rcases List.mem_cons.mp hy with rfl | hy
        · exact below
        · exact below.trans (first y hy)
      · next differs notBelow =>
        refine List.pairwise_cons.mpr ⟨fun y hy => ?_, ih rest⟩
        rcases mem_insertPdn hy with rfl | hy
        · omega
        · exact first y hy

/-! ## What keeps the push unit sound -/

theorem modifyContext_context {p : Part} {x : Context} (hx : p.psq.context = some x) (f : Context → Context) :
    (modifyContext f p).psq.context = some (f x) := by
  rw [modifyContext_psq, hx]
  rfl

/-- The promises about the push unit. -/
structure Psq.Sound (q : Psq) : Prop where
  context : ∀ x, q.context = some x → x.Sound
  pending : PdnsInOrder q.pendingPdn

theorem contextSound_iff (p : Part) : p.ContextSound ↔ p.psq.Sound := by
  simp only [Part.ContextSound, Option.mem_toList]
  exact ⟨fun h => ⟨h.1, h.2⟩, fun h => ⟨h.context, h.pending⟩⟩

theorem Psq.start_sound : Psq.start.Sound := ⟨fun _ h => (nomatch h), List.Pairwise.nil⟩

/-- What holds of the push unit in `p` holds of it in `q`. -/
def Part.KeepsPush (p q : Part) : Prop := p.psq.Sound → q.psq.Sound

namespace Part.KeepsPush

variable {p q r : Part}

theorem refl (p : Part) : p.KeepsPush p := id

theorem trans (h : p.KeepsPush q) (k : q.KeepsPush r) : p.KeepsPush r := k ∘ h

theorem of_psq_eq (h : q.psq = p.psq) : p.KeepsPush q := by
  unfold Part.KeepsPush
  rw [h]
  exact id

/-- After a change that leaves the push unit. -/
theorem after (k : q.KeepsPush r) (h : q.psq = p.psq) : p.KeepsPush r := (of_psq_eq h).trans k

theorem of_start (h : q.psq = .start) : p.KeepsPush q := fun _ => h ▸ Psq.start_sound

theorem of_ovenOnly {i : Nat} (h : OvenOnly i p q) : p.KeepsPush q := .of_psq_eq h.psq_eq

theorem of_ordersOnly (h : OrdersOnly p q) : p.KeepsPush q := .of_psq_eq h.psq_eq

theorem ite {b : Prop} [Decidable b] (h : b → p.KeepsPush q) : p.KeepsPush (if b then q else p) := by
  split
  · next hb => exact h hb
  · exact .refl p

theorem ite_both {b : Prop} [Decidable b] (h : p.KeepsPush q) (k : p.KeepsPush r) : p.KeepsPush (if b then q else r) := by
  split
  · exact h
  · exact k

theorem withLocal {c : Configuration} {n : Nat} {f : Nat → Part} (h : ∀ i, p.KeepsPush (f i)) :
    p.KeepsPush (withLocal c n p f) := by
  unfold Machine.withLocal
  split
  · exact .refl p
  · exact h _

theorem foldl {α : Type} {f : Part → α → Part} (h : ∀ (p : Part) a, p.KeepsPush (f p a)) (l : List α) (p : Part) :
    p.KeepsPush (l.foldl f p) := by
  induction l generalizing p with
  | nil => exact .refl p
  | cons a l ih => exact (h p a).trans (ih _)

theorem modifyContext {f : Context → Context} (h : ∀ x, p.psq.context = some x → x.Sound → (f x).Sound) :
    p.KeepsPush (modifyContext f p) := fun ⟨context, pending⟩ => by
  refine ⟨fun y hy => ?_, pending⟩
  obtain ⟨x, hx, rfl⟩ := Option.map_eq_some_iff.mp hy
  exact h x hx (context x hx)

theorem setContext {c : Configuration} {i : Nat} {x : Context} (h : p.psq.Sound → x.Sound) :
    p.KeepsPush (setContext c i (some x) p) := fun sound => by
  rw [setContext_psq]
  exact ⟨fun y hy => by cases hy; exact h sound, sound.pending⟩

theorem removeContext (c : Configuration) (i : Nat) (p : Part) : p.KeepsPush (Machine.setContext c i none p) := fun sound => by
  rw [setContext_psq]
  exact ⟨fun _ h => (nomatch h), sound.pending⟩

end Part.KeepsPush

end Sys2Proof.Machine

/-! SUPPORT. The operations of a push keep its promises (R38 to R56). -/

namespace Sys2Proof.Machine

open Sys2Proof

section
variable (c : Configuration) (i : Nat) (p : Part)

/-! ## Arming, ISOLATE and PI (R40, R55) -/

theorem testArmed_keepsPush (n : Nat) : p.KeepsPush (testArmed c n p) := by
  unfold testArmed
  split
  · exact .refl p
  · next x hx =>
    refine .withLocal fun i => ?_
    split
    · exact .refl p
    · next pl _ =>
      refine .ite fun ⟨_, stage, ready⟩ => .setContext fun sound => ?_
      obtain ⟨-, -, -, -, done⟩ := (readyToArm_iff pl x).mp ready
      exact (sound.context x hx).arm stage done

theorem askIsolate_keepsPush : p.KeepsPush (askIsolate c i p) := by
  unfold askIsolate
  split
  · exact .refl p
  · next pl _ =>
    have settled := Part.KeepsPush.of_ovenOnly (OvenOnly.settle c i (pl.offtake.callMode c (p.offtakeLevels i) .isolate) p)
    exact .ite_both (settled.trans (testArmed_keepsPush c _ _)) settled

theorem endReturn_keepsPush : p.KeepsPush (endReturn c i p) :=
  ((Part.KeepsPush.of_ovenOnly (.setHold i true p)).trans (.removeContext c i _)).trans (.of_ovenOnly (.setByAge c i _))

/-- PI is asked for in RETURN only. -/
theorem askPi_keepsPush (h : ∀ x, p.psq.context = some x → x.stage = .returning) : p.KeepsPush (askPi c i p) := by
  unfold askPi
  split
  · exact .refl p
  · next pl _ =>
    have asked : p.KeepsPush (modifyContext (fun x => { x with piRequested := true }) p) :=
      .modifyContext fun x hx sound => sound.askedPi (h x hx)
    have settled := asked.trans (.of_ovenOnly (.settle c i (pl.offtake.callMode c (p.offtakeLevels i) .control) _))
    exact .ite_both (settled.trans (endReturn_keepsPush c i _)) settled

theorem returnDoorsTest_keepsPush : p.KeepsPush (returnDoorsTest c i p) := by
  unfold returnDoorsTest
  split
  · next x pl hx _ =>
    refine .ite fun ⟨stage, _, _⟩ => askPi_keepsPush c i p fun y hy => ?_
    rw [hx] at hy
    cases hy
    exact stage
  · exact .refl p

/-! ## Aborts (R51, R52) -/

/-- A push is aborted in PREPARE and ARMED only. -/
theorem abort_keepsPush (r : AbortReason) (h : ∀ x, p.psq.context = some x → x.stage = .prepare ∨ x.stage = .armed) :
    p.KeepsPush (abort c r p) := by
  unfold abort
  split
  · exact .refl p
  · refine .withLocal fun i => ?_
    have aborted : p.KeepsPush (modifyContext (·.aborted r) p) := .modifyContext fun x hx sound => sound.aborted (h x hx) r
    exact (((aborted.trans (.of_ovenOnly (.raise c i .pushAborted _))).trans (.of_ordersOnly (.withdraw _))).trans
      (.of_ovenOnly (.permitPass c i _))).trans (returnDoorsTest_keepsPush c i _)

theorem abort_keepsPush_of_stage {x : Context} (hx : p.psq.context = some x) (r : AbortReason)
    (hs : x.stage = .prepare ∨ x.stage = .armed) : p.KeepsPush (abort c r p) :=
  abort_keepsPush c p r fun y hy => by
    rw [hx] at hy
    cases hy
    exact hs

theorem abortIfOpen_keepsPush (n : Nat) (r : AbortReason) : p.KeepsPush (abortIfOpen c n r p) := by
  unfold abortIfOpen
  split
  · exact .refl p
  · next x hx => exact .ite fun ⟨_, stage⟩ => abort_keepsPush_of_stage c p hx r stage

theorem panelAbort_keepsPush (n : Nat) : p.KeepsPush (panelAbort c n p) := by
  unfold panelAbort
  split
  · exact .refl p
  · exact .ite fun _ => abortIfOpen_keepsPush c p _ _

/-! ## Ram start and ram home (R44 to R50) -/

theorem closingDoorsTest_keepsPush : p.KeepsPush (closingDoorsTest c i p) := by
  unfold closingDoorsTest
  split
  · exact .ite fun _ => (Part.KeepsPush.of_ovenOnly (.setPhase c i .empty p)).trans (.removeContext c i _)
  · exact .refl p

theorem ramInContext_keepsPush {x : Context} (hx : p.psq.context = some x) : p.KeepsPush (ramInContext c i x p) := by
  have started (u : Bool) : p.KeepsPush (startRam c i x u p) := .setContext fun sound => (sound.context x hx).ramStart u
  have unpermitted := (started true).trans (.of_ovenOnly (.raise c i .pushUnpermitted _))
  unfold ramInContext
  split
  · exact .ite_both (started false) unpermitted
  · exact unpermitted
  · exact unpermitted.trans (askIsolate_keepsPush c i _)
  · exact .refl p
  · exact .of_ovenOnly (.raise c i .pushUnpermitted p)

theorem ramOutside_keepsPush (n : Nat) : p.KeepsPush (ramOutside c i n p) := by
  have begun : p.KeepsPush (setContext c i (some (Context.unannounced n)) (setPhase c i .pushing p)) :=
    (Part.KeepsPush.of_ovenOnly (.setPhase c i .pushing p)).trans (.setContext fun _ => .of_unannounced n)
  exact .ite_both ((begun.trans (.of_ovenOnly (.raise c i .pushUnpermitted _))).trans (askIsolate_keepsPush c i _))
    (.of_ovenOnly (.loseOven c i p))

theorem ramStarts_keepsPush (n : Nat) : p.KeepsPush (ramStarts c i n p) := by
  unfold ramStarts
  split
  · exact ramOutside_keepsPush c i p n
  · next x hx => exact .ite_both (ramInContext_keepsPush c i p hx) (.of_ovenOnly (.loseOven c i p))

theorem offerPdn_keepsPush (e : PendingPdn) : p.KeepsPush (offerPdn e p) :=
  .ite_both (.of_psq_eq rfl) fun ⟨context, pending⟩ => ⟨context, pending.insert e⟩

theorem orderAtHome_psq (kind : OrderKind) : (orderAtHome c kind p).psq = p.psq := by
  unfold orderAtHome
  split
  · exact (OrdersOnly.append kind p).psq_eq
  · rfl

theorem offerPdn_context (e : PendingPdn) : (offerPdn e p).psq.context = p.psq.context := by
  unfold offerPdn
  split <;> rfl

theorem ramHome_keepsPush {x : Context} (hx : p.psq.context = some x) (hs : x.stage = .pushing) (stroke : Nat) :
    p.KeepsPush (ramHome c i x stroke p) := by
  let done := offerPdn ⟨x.oven, stroke, x.unpermitted⟩ p
  let ordered := orderAtHome c .dump (orderAtHome c (.quench c.quenchTime) done)
  have same : ordered.psq = done.psq := (orderAtHome_psq ..).trans (orderAtHome_psq ..)
  have context : ordered.psq.context = some x := by rw [same, offerPdn_context, hx]
  exact (((offerPdn_keepsPush p _).trans (.of_psq_eq same)).trans
    (.setContext fun sound => (sound.context x context).home hs stroke)).trans (closingDoorsTest_keepsPush c i _)

/-! ## Push asks and limits (R41 to R50, R55) -/

theorem pushAsk_keepsPush (n : Nat) : p.KeepsPush (pushAsk c i n p) := by
  have refused (r : PrfReason) : p.KeepsPush (offerPrf n r p) := .of_psq_eq rfl
  unfold pushAsk
  split
  · exact refused _
  · next x hx =>
    split
    · next armed =>
      unfold answerArmed
      split
      · exact (refused _).trans (.modifyContext fun _ _ sound => sound.permitStopped)
      · have offered : p.KeepsPush (p.offer .ppm (.oven n) [byteOf n]) := .of_psq_eq rfl
        refine .ite fun _ => offered.trans (.modifyContext fun y hy sound => sound.permitted ?_ _)
        rw [offer_psq, hx] at hy
        cases hy
        exact armed.2
    · exact refused _

theorem prepareLimit_keepsPush : p.KeepsPush (prepareLimit c p) := by
  unfold prepareLimit
  split
  · exact .refl p
  · next x hx =>
    refine .ite fun running => ?_
    have marked : p.KeepsPush (modifyContext (fun x => { x with prepareLimit := .expired }) p) :=
      .modifyContext fun y hy sound => by
        rw [hx] at hy
        cases hy
        exact sound.prepareExpired running
    dsimp only
    split
    · next stage => exact marked.trans (abort_keepsPush_of_stage c _ (modifyContext_context hx _) _ (.inl stage))
    · exact marked

theorem armedLimit_keepsPush : p.KeepsPush (armedLimit c p) := by
  unfold armedLimit
  split
  · exact .refl p
  · next x hx => exact .ite fun ⟨_, stage⟩ => abort_keepsPush_of_stage c p hx _ (.inr stage)

theorem rmhLimit_keepsPush : p.KeepsPush (rmhLimit c p) := by
  unfold rmhLimit
  split
  · exact .refl p
  · refine .ite fun _ => .withLocal fun i => ?_
    exact Part.KeepsPush.trans (.modifyContext fun _ _ sound => sound.rmhStopped) (.of_ovenOnly (.raise c i .ramLate _))

theorem doorLimit_keepsPush : p.KeepsPush (doorLimit c p) := by
  unfold doorLimit
  split
  · exact .refl p
  · refine .ite fun _ => .withLocal fun i => ?_
    exact Part.KeepsPush.trans (.modifyContext fun _ _ sound => sound.doorStopped) (.of_ovenOnly (.raise c i .doorLate _))

/-! ## The round won and the SPOT's outcome (R39, R53, R56) -/

/-- Before its SPOT is done a push is not armed. -/
theorem testArmed_of_spot (n : Nat) (h : ∀ x, p.psq.context = some x → x.spotDone = false) : testArmed c n p = p := by
  unfold testArmed
  split
  · rfl
  · next x hx =>
    unfold withLocal
    split
    · rfl
    · dsimp only
      split
      · rfl
      · exact if_neg fun ⟨_, _, ready⟩ => by simp [readyToArm, h x hx] at ready

theorem askIsolate_psq_of_spot (h : ∀ x, p.psq.context = some x → x.spotDone = false) : (askIsolate c i p).psq = p.psq := by
  unfold askIsolate
  split
  · rfl
  · next pl _ =>
    have settled := (OvenOnly.settle c i (pl.offtake.callMode c (p.offtakeLevels i) .isolate) p).psq_eq
    dsimp only
    split
    · rw [testArmed_of_spot c _ _ fun x hx => h x (settled ▸ hx), settled]
    · exact settled

theorem orderSpot_keepsPush (n : Nat) (h : p.psq.context = some (Context.won n)) : p.KeepsPush (orderSpot c n p) := by
  unfold orderSpot
  split
  · refine (Part.KeepsPush.of_ordersOnly (.append _ p)).trans (.modifyContext fun x hx sound => sound.spotAsked ?_)
    rw [(OrdersOnly.append _ p).psq_eq, h] at hx
    cases hx
    rfl
  · exact abort_keepsPush_of_stage c p h _ (.inl rfl)

theorem takeWin_keepsPush (n : Nat) : p.KeepsPush (takeWin c n p) := by
  refine .withLocal fun i => .ite fun _ => ?_
  let begun := setContext c i (some (Context.won n)) (setPhase c i .pushing p)
  have context : begun.psq.context = some (Context.won n) := by rw [setContext_psq]
  have undone : ∀ x, begun.psq.context = some x → x.spotDone = false := fun x hx => by
    rw [context] at hx
    cases hx
    rfl
  have begins : p.KeepsPush begun :=
    (Part.KeepsPush.of_ovenOnly (.setPhase c i .pushing p)).trans (.setContext fun _ => .of_won n)
  have asked := askIsolate_psq_of_spot c i begun undone
  exact (begins.trans (.of_psq_eq asked)).trans (orderSpot_keepsPush c _ n (asked ▸ context))

theorem takeOutcome_keepsPush (r : Outcome) : p.KeepsPush (takeOutcome c r p) := by
  unfold takeOutcome
  split
  · exact .refl p
  · next x hx =>
    refine .ite fun _ => ?_
    have heard : p.KeepsPush (modifyContext (fun x => { x with spotAwaited := false }) p) :=
      .modifyContext fun _ _ sound => sound.spotHeard
    have failed (reason : AbortReason) : p.KeepsPush
        (if x.stage = .prepare then abort c reason (modifyContext (fun x => { x with spotAwaited := false }) p)
          else modifyContext (fun x => { x with spotAwaited := false }) p) := by
      split
      · next stage => exact heard.trans (abort_keepsPush_of_stage c _ (modifyContext_context hx _) _ (.inl stage))
      · exact heard
    cases r with
    | done =>
      have taken : p.KeepsPush (modifyContext (fun x => { x with spotDone := true })
          (modifyContext (fun x => { x with spotAwaited := false }) p)) := fun sound =>
        ⟨fun y hy => by
          simp only [modifyContext_psq, hx, Option.map_some, Option.some.injEq] at hy
          exact hy ▸ (sound.context x hx).spotTaken, sound.pending⟩
      exact taken.trans (testArmed_keepsPush c _ _)
    | refused => exact failed _
    | timeout => exact failed _

/-! ## Car replies and deadlines (R100 to R105) -/

theorem headLeaves_keepsPush (head : Order) (left : List Order) (r : Outcome) :
    p.KeepsPush (headLeaves c head left r p) := by
  have removed : p.KeepsPush { p with qou := { p.qou with orders := left } } := .of_psq_eq rfl
  exact Part.KeepsPush.trans (.ite_both (removed.trans (takeOutcome_keepsPush c _ r)) removed) (.of_ordersOnly (.offerHead _))

theorem carReply_keepsPush (id verdict : Nat) : p.KeepsPush (carReply c id verdict p) := by
  unfold carReply
  split
  · next head rest v _ _ =>
    refine .ite fun _ => .ite fun _ => ?_
    cases v with
    | accept => exact .ite_both (.refl p) (.of_psq_eq rfl)
    | done => exact headLeaves_keepsPush c p head rest .done
    | refuse => exact headLeaves_keepsPush c p head _ .refused
  · exact .refl p

theorem deadline_keepsPush : p.KeepsPush (deadline c p) := by
  unfold deadline
  split
  · exact .refl p
  · next head rest _ =>
    let emptied := raiseStation c .carTimeout { p with qou := { p.qou with orders := [] } }
    let alarmed := if hotCar p head then raiseStation c .hotCar emptied else emptied
    have quiet : p.KeepsPush alarmed := .ite_both (.of_psq_eq rfl) (.of_psq_eq rfl)
    exact .ite fun _ => .ite_both (quiet.trans (takeOutcome_keepsPush c alarmed .timeout)) quiet

end

end Sys2Proof.Machine

/-! SUPPORT. The reports and door changes told keep the push unit sound, and so does every command. -/

namespace Sys2Proof.Machine

open Sys2Proof

section
variable (c : Configuration) (i : Nat) (p : Part)

/-! ## Reports told (R14, R15, R40, R51, R55) -/

theorem chargeBegins_keepsPush : p.KeepsPush (chargeBegins c i p) := by
  unfold chargeBegins
  split
  · exact .refl p
  · have freed : p.KeepsPush (p.modifyOven i fun o => { o with inFlight := false }) := .of_psq_eq rfl
    have charging := freed.trans (.of_ovenOnly (.setPhase c i .charging _))
    exact .ite fun _ => .ite_both (charging.trans (.of_psq_eq rfl)) (charging.trans (.of_psq_eq rfl))

/-- A charge start cancelled with its request for ISOLATE. -/
theorem chargeCancelled_keepsPush (n : Nat) (r : ChrReason) : p.KeepsPush (chargeCancelled c i n r p) :=
  (askIsolate_keepsPush c i _).after rfl

theorem chargeFails_keepsPush : p.KeepsPush (chargeFails c i p) := by
  unfold chargeFails
  split
  · exact .refl p
  · exact .ite fun _ => chargeCancelled_keepsPush c i p _ .cap

theorem returnAnswered_keepsPush (n : Nat) : p.KeepsPush (returnAnswered c i n p) := by
  unfold returnAnswered
  split
  · exact .refl p
  · exact .ite fun _ => endReturn_keepsPush c i p

theorem tellReport_keepsPush (n : Nat) (r : Report) : p.KeepsPush (tellReport c i n r p) := by
  cases r with
  | aspirateReached => exact chargeBegins_keepsPush c i p
  | aspirateFailed =>
    exact chargeFails_keepsPush c i p
  | isolateReached => exact testArmed_keepsPush c p n
  | isolateFailed => exact abortIfOpen_keepsPush c p n .isolateFail
  | piEntered => exact returnAnswered_keepsPush c i p n
  | returnFailed => exact returnAnswered_keepsPush c i p n

theorem tellOfftake_keepsPush (new : Offtake) (alarm : Option OvenAlarm) : p.KeepsPush (tellOfftake c i new alarm p) := by
  unfold tellOfftake
  split
  · exact .refl p
  · next pl _ =>
    have stored : p.KeepsPush (commitOfftake i new p) := .of_ovenOnly (.commitOfftake i new p)
    refine Part.KeepsPush.trans ?_ (.of_ovenOnly (.permitPass c i _))
    have told (q : Part) (h : p.KeepsPush q) : p.KeepsPush
        (match reportOf pl.offtake new with | none => q | some r => tellReport c i pl.oven.number r q) := by
      split
      · exact h
      · exact h.trans (tellReport_keepsPush c i q _ _)
    cases alarm with
    | none => exact told _ stored
    | some a => exact told _ (stored.trans (.of_ovenOnly (.raise c i a _)))

/-! ## Door changes told (R16, R40 to R55) -/

theorem returnToPrepare_keepsPush {x : Context} (hx : p.psq.context = some x) (hs : x.stage = .armed) :
    p.KeepsPush (returnToPrepare c i x p) := by
  have back : p.KeepsPush (setContext c i (some { x with stage := .prepare, armedLimit := .stopped, permit := .stopped }) p) :=
    .setContext fun sound => (sound.context x hx).backToPrepare hs
  exact .ite_both (back.trans (abort_keepsPush_of_stage c _ (by rw [setContext_psq]) _ (.inl rfl))) back

theorem psqDoorChange_keepsPush {x : Context} (hx : p.psq.context = some x) (old new : DoorState) :
    p.KeepsPush (psqDoorChange c i old new x p) := by
  unfold psqDoorChange
  split
  · next stage => exact .ite_both (abort_keepsPush_of_stage c p hx _ (.inl stage)) (testArmed_keepsPush c p _)
  · next stage =>
    exact .ite_both (abort_keepsPush_of_stage c p hx _ (.inr stage)) (.ite fun _ => returnToPrepare_keepsPush c i p hx stage)
  · exact .refl p
  · exact closingDoorsTest_keepsPush c i p
  · have takenBack : p.KeepsPush (modifyContext (fun x => { x with piRequested := false }) p) :=
      .modifyContext fun _ _ sound => sound.piTakenBack
    exact .ite_both (takenBack.trans (askIsolate_keepsPush c i _)) (returnDoorsTest_keepsPush c i p)

theorem cancelOnDoor_keepsPush (new : DoorState) : p.KeepsPush (cancelOnDoor c i new p) := by
  unfold cancelOnDoor
  split
  · exact .refl p
  · exact .ite fun _ => chargeCancelled_keepsPush c i p _ .doors

theorem tellDoor_keepsPush (old new : DoorState) : p.KeepsPush (tellDoor c i old new p) := by
  have cancelled := cancelOnDoor_keepsPush c i p new
  unfold tellDoor
  split
  · exact .refl p
  · split
    · exact .refl p
    · dsimp only
      split
      · exact cancelled
      · next x hx => exact .ite_both (cancelled.trans (psqDoorChange_keepsPush c i _ hx old new)) cancelled

theorem changeDoor_keepsPush (side : Side) (d : Door) : p.KeepsPush (changeDoor c i side d p) := by
  unfold changeDoor
  split
  · exact .refl p
  · exact ((Part.KeepsPush.of_ovenOnly (.commitDoor c i side d p)).trans
      (.foldl (fun q a => .of_ovenOnly (.raise c i a q)) _ _)).trans (tellDoor_keepsPush c i _ _ _)

/-! ## Switches and timers -/

theorem deliver_keepsPush (input : SwitchInput) (level : Bool) : p.KeepsPush (deliver c i input level p) := by
  unfold deliver
  split
  · unfold offtakeSwitch
    split
    · exact .refl p
    · exact .ite_both (tellOfftake_keepsPush c i p _ _) (tellOfftake_keepsPush c i p _ _)
  · unfold doorSwitch
    split
    · exact .refl p
    · dsimp only
      split
      · exact changeDoor_keepsPush c i p _ _
      · exact changeDoor_keepsPush c i p _ _
      · exact changeDoor_keepsPush c i p _ _
      · exact .refl p

theorem debounce_keepsPush (input : SwitchInput) : p.KeepsPush (debounce i input p) := by
  unfold debounce
  split
  · exact .refl p
  · refine .ite fun _ => ?_
    dsimp only
    split
    · exact (deliver_keepsPush _ i _ input _).after rfl
    · exact .of_psq_eq rfl

theorem leakExpires_keepsPush (side : Side) : p.KeepsPush (leakExpires c side i p) := by
  unfold leakExpires
  split
  · exact .refl p
  · exact .ite fun _ => changeDoor_keepsPush c i p side _

theorem clearExpires_keepsPush (side : Side) : p.KeepsPush (clearExpires c side i p) := by
  unfold clearExpires
  split
  · exact .refl p
  · exact .ite fun _ => changeDoor_keepsPush c i p side _

theorem leakingSpellExpires_keepsPush (side : Side) : p.KeepsPush (leakingSpellExpires c side i p) := by
  unfold leakingSpellExpires
  split
  · exact .refl p
  · exact .ite fun _ => .of_ovenOnly (.commitDoor c i side _ p)

theorem sealedSpellExpires_keepsPush (side : Side) : p.KeepsPush (sealedSpellExpires c side i p) := by
  unfold sealedSpellExpires
  split
  · exact .refl p
  · exact .ite fun _ => .of_ovenOnly (.commitDoor c i side _ p)

theorem valveTimerExpires_keepsPush : p.KeepsPush (valveTimerExpires c i p) := by
  unfold valveTimerExpires
  split
  · exact .refl p
  · exact .ite fun _ => tellOfftake_keepsPush c i p _ _

theorem capTimerExpires_keepsPush : p.KeepsPush (capTimerExpires c i p) := by
  unfold capTimerExpires
  split
  · exact .refl p
  · exact .ite fun _ => tellOfftake_keepsPush c i p _ _

theorem highTimerExpires_keepsPush : p.KeepsPush (highTimerExpires c i p) := by
  unfold highTimerExpires
  split
  · exact .refl p
  · exact .ite fun _ => .of_ovenOnly ((OvenOnly.commitOfftake i _ p).trans (.raise c i .pressureHigh _))

theorem aspirateHoldExpires_keepsPush : p.KeepsPush (aspirateHoldExpires c i p) := by
  unfold aspirateHoldExpires
  split
  · exact .refl p
  · exact .ite fun _ => .of_ovenOnly (.settle c i _ p)

/-! ## The oven commands (R2 to R18) -/

theorem minute_keepsPush : p.KeepsPush (minute p) := by
  unfold minute
  split
  · exact .of_psq_eq rfl
  · exact .foldl (fun q i => .of_ovenOnly (.minuteAt _ q i)) _ p

theorem takeOut_keepsPush : p.KeepsPush (takeOut c i p) :=
  (Part.KeepsPush.of_ovenOnly ((OvenOnly.setPhase c i .out p).trans (.setHold i false _))).trans (askIsolate_keepsPush c i _)

theorem panelOut_keepsPush : p.KeepsPush (panelOut c i p) := by
  unfold panelOut
  split
  · exact takeOut_keepsPush c i p
  · exact takeOut_keepsPush c i p
  · exact .refl p

theorem panelIn_keepsPush : p.KeepsPush (panelIn c i p) := .ite fun _ => .of_ovenOnly (.setPhase c i .empty p)

theorem panelTarget_keepsPush (value : Word16) : p.KeepsPush (panelTarget value c i p) := by
  unfold panelTarget
  split
  · exact .refl p
  · have set : p.KeepsPush (p.modifyOven i fun o => { o with kept := { o.kept with target := clampTarget value.toNat } }) :=
      .of_psq_eq rfl
    exact Part.KeepsPush.trans (.ite_both (set.trans (.of_ovenOnly (.setByAge c i _))) set)
      (.of_ovenOnly (.evalOverdue c i _))

theorem panelDeclare_keepsPush (value : Word16) (phase : Byte) : p.KeepsPush (panelDeclare value phase c i p) := by
  refine .ite fun _ => ?_
  split
  · have aged : p.KeepsPush (p.modifyOven i fun o => { o with kept := { o.kept with age := min maxAge value.toNat } }) :=
      .of_psq_eq rfl
    exact aged.trans (.of_ovenOnly ((OvenOnly.setByAge c i _).trans (.evalOverdue c i _)))
  · exact takeOut_keepsPush c i p
  · exact .refl p

theorem panelClear_keepsPush (n : Nat) : p.KeepsPush (panelClear c n p) := by
  refine .ite_both (.of_psq_eq rfl) (.withLocal fun i => ?_)
  unfold clearOvenAlarms
  split
  · exact .refl p
  · exact .of_ovenOnly (.setAlarms c i _ p)

theorem chargeAsk_keepsPush : p.KeepsPush (chargeAsk c i p) := by
  have asked (q : Part) : q.KeepsPush (askAspirate c i q) := by
    unfold askAspirate
    split
    · exact .refl q
    · exact tellOfftake_keepsPush c i q _ none
  have answered (n : Nat) (r : ChrReason) : p.KeepsPush (offerChr n r p) := .of_psq_eq rfl
  unfold chargeAsk
  split
  · exact .refl p
  · refine .ite_both (answered _ _) (.ite_both (answered _ _) (.ite_both (answered _ _) ?_))
    exact (asked _).after rfl

theorem chargeEnd_keepsPush : p.KeepsPush (chargeEnd c i p) :=
  .ite fun _ => (Part.KeepsPush.of_ovenOnly (.setPhase c i .coking _)).after rfl

theorem chargeLimit_keepsPush : p.KeepsPush (chargeLimit c i p) := by
  unfold chargeLimit
  split
  · exact .refl p
  · exact .ite fun _ => (Part.KeepsPush.of_ovenOnly (.raise c i .chargeLate _)).after rfl

/-! ## The bid round (R26 to R35) -/

theorem startRound_keepsPush (key : BidKey) : p.KeepsPush (startRound key p) := .ite_both (.of_psq_eq rfl) (.of_psq_eq rfl)

theorem evaluateRound_keepsPush : p.KeepsPush (evaluateRound c p) := by
  unfold evaluateRound
  refine .ite fun _ => ?_
  split
  · exact .refl p
  · exact startRound_keepsPush p _

theorem holdStation_psq (a : StationAlarm) (on : Bool) : (holdStation c a on p).psq = p.psq := by cases on <;> rfl

theorem takeBid_keepsPush (r : Rival) : p.KeepsPush (takeBid c r p) := by
  refine .ite_both (.refl p) (.ite_both (.of_psq_eq rfl) ?_)
  split
  · have deferred : p.KeepsPush { p with bsu := p.bsu.deferTo c r.station } := .of_psq_eq rfl
    refine .ite_both ?_ deferred
    split
    · exact deferred
    · exact .ite_both (startRound_keepsPush p _) deferred
  · exact .refl p
  · exact .of_psq_eq rfl

theorem decideRound_keepsPush : p.KeepsPush (decideRound c p) := by
  have own (b : Bsu) : p.KeepsPush { p with bsu := b } := .of_psq_eq rfl
  unfold decideRound
  split
  · exact .ite fun _ => .ite_both ((own p.bsu.win).trans (takeWin_keepsPush c _ _)) (own _)
  · exact .refl p

/-! ## The scan (R125 to R128) -/

theorem endScan_keepsPush (early : Bool) : p.KeepsPush (endScan c early p) :=
  .ite_both (.ite_both (.of_psq_eq rfl) (.of_psq_eq rfl)) (.ite_both (.of_psq_eq rfl) (.of_psq_eq rfl))

theorem nextPlace_keepsPush : p.KeepsPush (nextPlace c p) := .ite_both (.of_psq_eq rfl) (endScan_keepsPush c p false)

theorem failRest_keepsPush : p.KeepsPush (failRest c p) := .foldl (fun q i => .of_ovenOnly (.invalidSample c i q)) _ p

theorem sendStop_keepsPush : p.KeepsPush p.sendStop := .of_psq_eq rfl

theorem transactionDone_keepsPush (code : Nat) : p.KeepsPush (transactionDone c code p) :=
  .ite fun _ => Part.KeepsPush.trans (.ite_both (.of_ovenOnly (.validSample c _ code p)) (.of_ovenOnly (.invalidSample c _ p)))
    (nextPlace_keepsPush c _)

theorem channelNack_keepsPush : p.KeepsPush (channelNack c p) :=
  .ite fun _ => ((Part.KeepsPush.of_ovenOnly (.invalidSample c _ p)).trans (nextPlace_keepsPush c _)).trans
    (sendStop_keepsPush _)

theorem addressFails_keepsPush : p.KeepsPush (addressFails c p) :=
  .ite fun _ => (((failRest_keepsPush c _).trans (endScan_keepsPush c _ true)).trans (sendStop_keepsPush _)).after rfl

theorem clockFails_keepsPush : p.KeepsPush (clockFails c p) :=
  .ite fun _ => ((failRest_keepsPush c p).trans (endScan_keepsPush c _ true)).trans (sendStop_keepsPush _)

theorem startScan_keepsPush : p.KeepsPush (startScan c p) := .ite_both (.refl p) (.of_psq_eq rfl)

theorem roundRobinOvs_keepsPush : p.KeepsPush (roundRobinOvs c p) := .of_psq_eq (offerOvs_psq p _)

theorem compareMatch_keepsPush : p.KeepsPush (compareMatch i p) := by
  unfold compareMatch
  split
  · exact .refl p
  · exact .ite fun _ => .of_psq_eq rfl

theorem millisecond_keepsPush (pins : Pins) : p.KeepsPush (millisecond pins p) := by
  unfold millisecond
  split
  · exact .refl p
  · exact .of_psq_eq rfl

/-! ## The battery line (R49, R131 to R135, R143) -/

theorem reofferPdn_keepsPush (e : PendingPdn) : p.KeepsPush (reofferPdn p e) :=
  .ite fun _ ⟨context, pending⟩ => ⟨context, pending.sublist List.filter_sublist⟩

theorem reofferChp_keepsPush : p.KeepsPush (reofferChp p i) := by
  unfold reofferChp
  split
  · exact .refl p
  · exact .ite fun _ => .ite fun _ => .of_psq_eq rfl

theorem tellRemoval_keepsPush : p.KeepsPush (tellRemoval p) :=
  ((Part.KeepsPush.of_ordersOnly (.offerHead p)).trans (.foldl (fun q i => reofferChp_keepsPush i q) _ _)).trans
    (.foldl reofferPdn_keepsPush _ _)

theorem heardBack_keepsPush (k : Kind) (sub : Subject) : p.KeepsPush (heardBack c k sub p) := by
  unfold heardBack
  split
  · exact .ite fun _ => .of_psq_eq rfl
  · unfold orderHeardBack
    split
    · exact .refl p
    · exact .ite fun _ => .of_psq_eq rfl
  · exact .refl p

theorem routeEcho_keepsPush (k : Kind) (sub : Subject) : p.KeepsPush (routeEcho c k sub p) := by
  unfold routeEcho
  split
  · exact .ite fun _ => .of_psq_eq rfl
  · exact .refl p

theorem succeed_keepsPush : p.KeepsPush (succeed c p) := by
  unfold succeed
  split
  · exact .refl p
  · next a _ =>
    have counted : p.KeepsPush (removeStation c .lineSilent { p with bli := { p.bli.endAttempt with failed := 0 } }) :=
      .of_psq_eq rfl
    have heard := counted.trans (heardBack_keepsPush c _ a.kind a.subject)
    refine Part.KeepsPush.trans ?_ (routeEcho_keepsPush c _ _ _)
    exact .ite_both heard (heard.trans ((tellRemoval_keepsPush _).after rfl))

theorem fail_keepsPush : p.KeepsPush (fail c p) := by
  unfold fail
  split
  · exact .refl p
  · have counted : p.KeepsPush { p with bli := { p.bli.endAttempt with failed := p.bli.failed + 1 } } := .of_psq_eq rfl
    have removing (l : List TxEntry) (q : Part) : q.KeepsPush (l.foldl (fun q _ => tellRemoval q) q) :=
      .foldl (fun q _ => tellRemoval_keepsPush q) l q
    exact .ite_both ((removing _ _).after rfl) counted

theorem beginAttempt_keepsPush : p.KeepsPush (beginAttempt c p) := by
  unfold beginAttempt
  split
  · exact .ite_both (.refl p) (.of_psq_eq rfl)
  · exact .refl p

theorem loseContention_keepsPush (urgency station : Nat) : p.KeepsPush (loseContention c urgency station p) := by
  unfold loseContention
  split
  · exact .refl p
  · exact .ite fun _ => .of_psq_eq rfl

/-! ## Views (R110 to R119) -/

theorem takeMst_keepsPush (station : Nat) (position activity load aligned owner : Byte) :
    p.KeepsPush (takeMst c station position activity load aligned owner p) := by
  have viewed (l : Lvt) : p.KeepsPush { p with lvt := l } := .of_psq_eq rfl
  refine .ite_both ?_ (.ite_both ?_ (.ite fun _ => ?_))
  · cases pusherViewOf c position activity
    · exact .refl p
    · exact viewed _
  · cases guideViewOf c position activity aligned
    · exact .refl p
    · exact viewed _
  · cases carViewOf c position activity load owner
    · exact .refl p
    · exact viewed _

theorem takeOvs_keepsPush (n : Nat) (phase : Phase) (age : Nat) : p.KeepsPush (takeOvs c n phase age p) :=
  .ite_both (.of_psq_eq rfl) (.ite_both (.of_psq_eq rfl) (.ite fun _ => .of_psq_eq rfl))

theorem takeScs_keepsPush (station stage : Nat) : p.KeepsPush (takeScs station stage p) := by
  have listed (peers : List Peer) : p.KeepsPush { p with lvt := { p.lvt with peers := peers } } := .of_psq_eq rfl
  exact .ite_both (.refl p) (.ite_both (listed _)
    (.ite_both (listed _) ((listed _).trans (.ite fun _ => .of_psq_eq rfl))))

/-! ## Loads, supplies and resets (R147 to R149) -/

theorem loadDone_keepsPush (acked : Bool) (block : List Byte) (low : Bool) : p.KeepsPush (loadDone acked block low p) := by
  refine .ite fun _ => ?_
  split
  · exact .of_psq_eq rfl
  · exact .of_start rfl

theorem assertReset_keepsPush : p.KeepsPush (assertReset p) :=
  .ite_both (.refl p) (.ite_both (.of_start rfl) (.of_psq_eq rfl))

theorem releaseReset_keepsPush : p.KeepsPush (releaseReset p) :=
  .ite fun _ => .ite_both (.of_start rfl) (.of_psq_eq rfl)

theorem applyMain_keepsPush : p.KeepsPush (applyMain p) :=
  .ite_both (.refl p) (.ite_both (.of_start rfl) (.of_start rfl))

theorem loseMain_keepsPush : p.KeepsPush (loseMain p) :=
  .ite fun _ => .ite_both (.of_start rfl) (.of_start rfl)

theorem loseBackup_keepsPush : p.KeepsPush (loseBackup p) := .ite_both (.of_psq_eq rfl) (.of_psq_eq rfl)

end

/-! ## Every command -/

/-- Whatever next state an answer gives keeps the push unit's promises. -/
def State.AnswerKeepsPush (s : State) (r : Host.Outcome State Fault Refusal) : Prop :=
  ∀ t, r = .next t → s.part.KeepsPush t.part

section
variable {s : State}

theorem State.update_keepsPush {f : Part → Part} (h : s.part.KeepsPush (f s.part)) : s.AnswerKeepsPush (s.update f) := by
  intro t e
  cases e
  exact h

theorem State.whenLoaded_keepsPush {f : Configuration → Part → Part} (h : ∀ c, s.part.KeepsPush (f c s.part)) :
    s.AnswerKeepsPush (s.whenLoaded f) := by
  refine State.update_keepsPush ?_
  cases s.part.config with
  | none => exact .refl _
  | some c => exact h c

theorem panelAt_keepsPush {h : Header} {oven : Byte} {f : Configuration → Nat → Part → Part}
    (hf : ∀ c i, s.part.KeepsPush (f c i s.part)) : s.AnswerKeepsPush (panelAt h oven f s) :=
  State.whenLoaded_keepsPush fun c => .ite fun _ => .withLocal fun i => hf c i

/-- The expiry of a timer of one oven. -/
theorem ovenTimer_keepsPush {oven : Nat} {f : Configuration → Nat → Part → Part}
    (hf : ∀ c i, s.part.KeepsPush (f c i s.part)) :
    s.AnswerKeepsPush (s.whenLoaded fun c p => withLocal c oven p fun i => f c i p) :=
  State.whenLoaded_keepsPush fun c => .withLocal fun i => hf c i

end

/-- Every command keeps the push unit's promises. -/
theorem exec_keepsPush (i : Instr) (s : State) : s.AnswerKeepsPush (exec i s) := by
  cases i with
  | minuteExpiry => exact State.update_keepsPush (minute_keepsPush _)
  | pnlHold h oven => exact panelAt_keepsPush fun _ i => .of_ovenOnly (.setHold i true _)
  | pnlRelease h oven => exact panelAt_keepsPush fun _ i => .of_ovenOnly (.setHold i false _)
  | pnlOut h oven => exact panelAt_keepsPush fun c i => panelOut_keepsPush c i _
  | pnlIn h oven => exact panelAt_keepsPush fun c i => panelIn_keepsPush c i _
  | pnlTarget h oven value => exact panelAt_keepsPush fun c i => panelTarget_keepsPush c i _ value
  | pnlDeclare h oven value phase => exact panelAt_keepsPush fun c i => panelDeclare_keepsPush c i _ value phase
  | pnlAbort h oven => exact State.whenLoaded_keepsPush fun c => .ite fun _ => panelAbort_keepsPush c _ _
  | pnlClear h oven => exact State.whenLoaded_keepsPush fun c => .ite fun _ => panelClear_keepsPush c _ _
  | cha h oven => exact State.whenLoaded_keepsPush fun c => .ite fun _ => .withLocal fun i => chargeAsk_keepsPush c i _
  | che h oven => exact State.whenLoaded_keepsPush fun c => .ite fun _ => .withLocal fun i => chargeEnd_keepsPush c i _
  | chargeLimitExpiry oven => exact ovenTimer_keepsPush fun c i => chargeLimit_keepsPush c i _
  | evaluationExpiry low =>
    unfold exec execEvaluationExpiry
    exact State.whenLoaded_keepsPush fun c => (evaluateRound_keepsPush c _).trans (.of_psq_eq (holdStation_psq ..))
  | bid h oven lateness => exact State.whenLoaded_keepsPush fun c => .ite fun _ => takeBid_keepsPush c _ _
  | windowExpiry => exact State.whenLoaded_keepsPush fun c => decideRound_keepsPush c _
  | holdOffExpiry =>
    unfold exec execHoldOffExpiry
    exact State.whenLoaded_keepsPush fun _ => .of_psq_eq rfl
  | deferralExpiry => exact State.whenLoaded_keepsPush fun _ => .ite fun _ => .of_psq_eq rfl
  | pas h oven => exact State.whenLoaded_keepsPush fun c => .ite fun _ => .withLocal fun i => pushAsk_keepsPush c i _ _
  | rms h oven => exact State.whenLoaded_keepsPush fun c => .ite fun _ => .withLocal fun i => ramStarts_keepsPush c i _ _
  | rmh h oven stroke =>
    refine State.whenLoaded_keepsPush fun c => .ite fun _ => ?_
    split
    · exact .refl _
    · next x hx => exact .ite fun ⟨_, stage⟩ => .withLocal fun i => ramHome_keepsPush c i _ hx stage _
  | prepareLimitExpiry => exact State.whenLoaded_keepsPush fun c => prepareLimit_keepsPush c _
  | armedLimitExpiry => exact State.whenLoaded_keepsPush fun c => armedLimit_keepsPush c _
  | permitTimerExpiry =>
    exact State.whenLoaded_keepsPush fun _ => .modifyContext fun _ _ sound => sound.permitStopped
  | rmhLimitExpiry => exact State.whenLoaded_keepsPush fun c => rmhLimit_keepsPush c _
  | doorLimitExpiry => exact State.whenLoaded_keepsPush fun c => doorLimit_keepsPush c _
  | debounceExpiry place input =>
    unfold exec execDebounceExpiry
    exact State.update_keepsPush (.ite_both (.refl _) (debounce_keepsPush _ _ input))
  | leakTimerExpiry oven side => exact ovenTimer_keepsPush fun c i => leakExpires_keepsPush c i _ side
  | clearTimerExpiry oven side => exact ovenTimer_keepsPush fun c i => clearExpires_keepsPush c i _ side
  | leakingSpellExpiry oven side => exact ovenTimer_keepsPush fun c i => leakingSpellExpires_keepsPush c i _ side
  | sealedSpellExpiry oven side => exact ovenTimer_keepsPush fun c i => sealedSpellExpires_keepsPush c i _ side
  | valveMotionTimerExpiry oven => exact ovenTimer_keepsPush fun c i => valveTimerExpires_keepsPush c i _
  | capMotionTimerExpiry oven => exact ovenTimer_keepsPush fun c i => capTimerExpires_keepsPush c i _
  | pressureHighTimerExpiry oven => exact ovenTimer_keepsPush fun c i => highTimerExpires_keepsPush c i _
  | aspirateHoldExpiry oven => exact ovenTimer_keepsPush fun c i => aspirateHoldExpires_keepsPush c i _
  | quarterSecondExpiry =>
    unfold exec execQuarterSecondExpiry
    exact State.whenLoaded_keepsPush fun c => (startScan_keepsPush c _).trans (roundRobinOvs_keepsPush c _)
  | transactionComplete first second => exact State.whenLoaded_keepsPush fun c => transactionDone_keepsPush c _ _
  | channelByteNack => exact State.whenLoaded_keepsPush fun c => channelNack_keepsPush c _
  | addressNack => exact State.whenLoaded_keepsPush fun c => addressFails_keepsPush c _
  | clockHoldTimeout => exact State.whenLoaded_keepsPush fun c => clockFails_keepsPush c _
  | pwmPeriodEnd => exact State.update_keepsPush (.of_psq_eq rfl)
  | qcr h id verdict reason => exact State.whenLoaded_keepsPush fun c => .ite fun _ => carReply_keepsPush c _ _ _
  | deadlineExpiry => exact State.whenLoaded_keepsPush fun c => deadline_keepsPush c _
  | mst h position activity load aligned owner =>
    exact State.whenLoaded_keepsPush fun c => .ite fun _ => takeMst_keepsPush c _ _ _ _ _ _ _
  | machineViewFreshnessExpiry view =>
    unfold exec execMachineViewFreshnessExpiry
    exact State.whenLoaded_keepsPush fun _ => .of_psq_eq rfl
  | ovs h oven stateWord lateness doors offtake pressure alarms =>
    refine State.whenLoaded_keepsPush fun c => .ite fun _ => ?_
    split
    · exact .refl _
    · exact takeOvs_keepsPush c _ _ _ _
  | neighbourViewFreshnessExpiry view =>
    unfold exec execNeighbourViewFreshnessExpiry
    exact State.whenLoaded_keepsPush fun _ => .of_psq_eq rfl
  | pdn h oven stroke unpermitted =>
    exact State.whenLoaded_keepsPush fun c => .ite fun _ => .ite fun _ => .of_psq_eq rfl
  | scs h stage oven reason anchor count head alarms =>
    exact State.whenLoaded_keepsPush fun _ => .ite fun _ => takeScs_keepsPush _ _ _
  | refreshTimerExpiry station =>
    unfold exec execRefreshTimerExpiry
    exact State.whenLoaded_keepsPush fun _ => .of_psq_eq rfl
  | settleTimerExpiry => exact State.whenLoaded_keepsPush fun _ => .ite fun _ => .of_psq_eq rfl
  | lineIdleAttempt => exact State.whenLoaded_keepsPush fun c => beginAttempt_keepsPush c _
  | lostContention urgency station => exact State.whenLoaded_keepsPush fun c => loseContention_keepsPush c _ _ _
  | attemptSucceeded => exact State.whenLoaded_keepsPush fun c => succeed_keepsPush c _
  | attemptFailed => exact State.whenLoaded_keepsPush fun c => fail_keepsPush c _
  | silentExpiry => exact State.whenLoaded_keepsPush fun _ => .ite fun _ => .of_psq_eq rfl
  | scsPeriodExpiry => exact State.whenLoaded_keepsPush fun _ => .ite fun _ => .of_psq_eq rfl
  | configLoadComplete acked block low => exact State.update_keepsPush (loadDone_keepsPush _ acked block low)
  | configLoadClockTimeout => exact State.update_keepsPush (.ite fun _ => .of_psq_eq rfl)
  | configRetryExpiry => exact State.update_keepsPush (.ite fun _ => .of_psq_eq rfl)
  | resetAsserted => exact State.update_keepsPush (assertReset_keepsPush _)
  | resetReleased => exact State.update_keepsPush (releaseReset_keepsPush _)
  | mainSupplyApplied => exact State.update_keepsPush (applyMain_keepsPush _)
  | mainSupplyLost => exact State.update_keepsPush (loseMain_keepsPush _)
  | backupSupplyLost => exact State.update_keepsPush (loseBackup_keepsPush _)
  | millisecondExpiry pins => exact State.update_keepsPush (millisecond_keepsPush _ pins)
  | pwmCompareMatch place =>
    unfold exec execPwmCompareMatch
    exact State.update_keepsPush (.ite_both (.refl _) (compareMatch_keepsPush _ _))

/-- Settles O8, by the promises about the push unit that every command keeps. -/
theorem stagesKeepTheirFields : Obligations.StagesKeepTheirFields := by
  intro s t sound next
  rw [contextSound_iff] at sound ⊢
  unfold step at next
  split at next
  · cases next
    exact sound
  · next i rest _ => exact exec_keepsPush i { s with pending := rest } t next sound

end Sys2Proof.Machine

/-! SUPPORT. The push asks, limits, ram starts and ram home of the context's oven (R41 to R50). -/

namespace Sys2Proof.Machine

open Sys2Proof

theorem modifyContext_eq {p : Part} {x : Context} (hx : p.psq.context = some x) (f : Context → Context) :
    modifyContext f p = { p with psq := { p.psq with context := some (f x) } } := by
  rw [modifyContext, hx]
  rfl

/-! ## Limits that keep the stage (R41, R44, R46, R50, R55) -/

/-- An alarm raised as a limit of the context stops. -/
theorem limitStops {s : State} {c : Configuration} {n i : Nat} {pl : Place} {x : Context} (ho : s.HasOven c n i pl)
    (hx : s.part.psq.context = some x) (f : Context → Context) (a : OvenAlarm) :
    OvenOnly i { s.part with psq := { s.part.psq with context := some (f x) } } (raiseOven c i a (modifyContext f s.part))
      ∧ (raiseOven c i a (modifyContext f s.part)).places[i]?
        = some { pl with oven := { pl.oven with alarms := pl.oven.alarms ||| ovenBit a } } := by
  constructor
  · rw [← modifyContext_eq hx]
    exact .raise c i a _
  · exact ((ho.shows.modifyContext f).raise c a).place

/-- Settles O38, by the meaning of each expiry. -/
theorem limitsThatKeepTheStage : Obligations.LimitsThatKeepTheStage := by
  intro s c i pl x ho hx withContext
  obtain ⟨hc, hi, -, -⟩ := id ho
  refine ⟨fun hs hl => ?_, ?_, fun hl => ?_, fun hl => ?_⟩
  · refine (runs_of_whenLoaded hc (i := .prepareLimitExpiry) rfl).congr ?_
    have armed : x.stage ≠ .prepare := by simp [hs]
    simp only [prepareLimit, hx, hl, if_true, if_neg armed]
    exact modifyContext_eq hx _
  · exact (runs_of_whenLoaded hc (i := .permitTimerExpiry) rfl).congr (modifyContext_eq hx _)
  · refine ⟨_, (runs_of_whenLoaded hc (i := .rmhLimitExpiry) rfl).congr ?_,
      limitStops ho hx (fun x => { x with rmhLimit := .stopped }) .ramLate⟩
    simp only [rmhLimit, hx, hl, if_true, withLocal_some hi]
  · refine ⟨_, (runs_of_whenLoaded hc (i := .doorLimitExpiry) rfl).congr ?_,
      limitStops ho hx (fun x => { x with doorLimit := .stopped }) .doorLate⟩
    simp only [doorLimit, hx, hl, if_true, withLocal_some hi]

/-! ## Push asks (R42, R44) -/

theorem pusherAt_iff (p : Part) (n : Nat) : pusherAt p n = true ↔ Claims.pusherThere p n := by
  cases h : p.lvt.pusher <;> simp [pusherAt, Claims.pusherThere, h]

theorem guideAt_iff (p : Part) (n : Nat) : guideAt p n = true ↔ Claims.guideThere p n := by
  cases h : p.lvt.guide <;> simp [guideAt, Claims.guideThere, h, and_assoc]

theorem carAt_iff (p : Part) (n : Nat) : carAt p n = true ↔ Claims.carThere p n := by
  cases h : p.lvt.car <;> simp [carAt, Claims.carThere, h, and_assoc]

section
variable {s : State} {c : Configuration} {h : Header} {oven : Byte} {i : Nat} {x : Context}

/-- A push ask of the pusher's runs its meaning at the oven's place. -/
theorem pas_runs (hf : isFrom h c c.pusherStation = true) (hc : s.part.config = some c) :
    s.Runs (.pas h oven) (withLocal c oven.toNat s.part fun i => pushAsk c i oven.toNat s.part) :=
  (runs_of_whenLoaded hc (i := .pas h oven) rfl).congr (if_pos hf)

theorem offerPrf_eq (r : PrfReason) (p : Part) :
    offerPrf oven.toNat r p = p.offer .prf (.oven oven.toNat) [oven, byteOf r.code] := by
  rw [offerPrf, byteOf_toNat]

theorem pushAsk_armed (hx : s.part.psq.context = some x) (hn : x.oven = oven.toNat) (hs : x.stage = .armed) :
    pushAsk c i oven.toNat s.part = answerArmed c i oven.toNat s.part := by
  simp only [pushAsk, hx]
  exact if_pos ⟨hn, hs⟩

/-- In ARMED the first failing test refuses and withdraws the permit. -/
theorem pushAsk_refused (hx : s.part.psq.context = some x) (hn : x.oven = oven.toNat) (hs : x.stage = .armed)
    {r : PrfReason} (test : permitTest c s.part i oven.toNat = some r) : pushAsk c i oven.toNat s.part
      = { s.part.offer .prf (.oven oven.toNat) [oven, byteOf r.code] with
          psq := { s.part.psq with context := some { x with permit := .stopped } } } := by
  simp only [pushAsk_armed hx hn hs, answerArmed, test, offerPrf_eq]
  exact modifyContext_eq (p := s.part.offer _ _ _) hx _

/-- With no test failing a PPM that the queue takes starts the permit timer. -/
theorem pushAsk_permitted (hx : s.part.psq.context = some x) (hn : x.oven = oven.toNat) (hs : x.stage = .armed)
    (test : permitTest c s.part i oven.toNat = none) : pushAsk c i oven.toNat s.part
      = if (s.part.bli.offer .ppm (.oven oven.toNat) [oven]).2 = true then
          { s.part.offer .ppm (.oven oven.toNat) [oven] with
            psq := { s.part.psq with context := some { x with permit := .running 60000 } } }
        else s.part := by
  simp only [pushAsk_armed hx hn hs, answerArmed, test, byteOf_toNat, Part.takes]
  split
  · exact modifyContext_eq (p := s.part.offer _ _ _) hx _
  · rfl

end

/-- Settles O34, by the order of the four tests. -/
theorem pushAskIsAnswered : Obligations.PushAskIsAnswered := by
  intro s c h oven hf hc
  have runs := pas_runs (oven := oven) hf hc
  refine ⟨fun hi => runs.ignores (by simp [withLocal, hi]), fun i hi => ?_⟩
  have runs : s.Runs (.pas h oven) (pushAsk c i oven.toNat s.part) := runs.congr (withLocal_some hi _ _)
  intro n refused support
  refine ⟨fun hx => runs.congr ?_, fun x hx hn hs => ?_⟩
  · unfold pushAsk
    split
    · exact offerPrf_eq ..
    · next x e => exact (if_neg (hx x e)).trans (offerPrf_eq ..)
  · intro withPermit permitted
    have answers {r : PrfReason} (test : permitTest c s.part i n = some r) :
        s.Runs (.pas h oven) (withPermit .stopped (refused (byteOf r.code))) :=
      runs.congr (pushAsk_refused hx hn hs test)
    have allowed (test : permitTest c s.part i n = none) := runs.congr (pushAsk_permitted hx hn hs test)
    have supported : wallSupport c s.part i = true ↔ support := by rw [wallSupport, Bool.and_eq_true]
    simp only [← pusherAt_iff, ← guideAt_iff, ← carAt_iff, ← supported, Bool.not_eq_true]
    refine ⟨fun hp => answers (r := .pusher) ?_, fun hp hg => answers (r := .guide) ?_, fun hp hg hcar => answers (r := .car) ?_,
      fun hp hg hcar hw => answers (r := .support) ?_, fun hp hg hcar hw => ?_⟩
    · simp [permitTest, hp]
    · simp [permitTest, hp, hg]
    · simp [permitTest, hp, hg, hcar]
    · simp [permitTest, hp, hg, hcar, hw]
    · have taken := allowed (by simp [permitTest, hp, hg, hcar, hw])
      exact ⟨fun ht => taken.congr (if_pos ht), fun ht => taken.ignores (if_neg (by simp [n, ht]))⟩

end Sys2Proof.Machine

namespace Sys2Proof.Machine

open Sys2Proof

/-! ## The ram start of the context's oven (R44) -/

/-- Settles O35, by the stage at the ram start. -/
theorem ramStartOfTheContextOven : Obligations.RamStartOfTheContextOven := by
  intro s c h oven i pl x hf ho hx hn pushing
  have runs : s.Runs (.rms h oven) (ramInContext c i x s.part) :=
    (rms_runs hf ho).congr (by simp only [ramStarts, hx, hn, if_true])
  have shown : s.part.Shows i pl (some x) (s.part.level i) := hx ▸ ho.shows
  have stage (u : Bool) : x.ramStart u = pushing (x.unpermitted || u) := rfl
  refine ⟨fun hs hp => ?_, fun hs => ?_, fun hs => runs.ignores (by simp [ramInContext, hs]), fun hs => ?_⟩
  · let q := startRam c i x false s.part
    have meaning : ramInContext c i x s.part = q := by simp only [ramInContext, hs, hp, if_true, q]
    have context : x.ramStart false = pushing x.unpermitted := (stage false).trans (by rw [Bool.or_false])
    have psq : q.psq = { s.part.psq with context := some (pushing x.unpermitted) } := by
      rw [← context]
      exact setContext_psq ..
    have place := (shown.setContext c (some (x.ramStart false))).place
    have alarm := (Place.permits_resealOnly c (some (x.ramStart false)) (s.part.level i) pl).alarm .pushUnpermitted
    exact ⟨q, _, runs.congr meaning, place, psq, Place.permits_kept .., alarm (by decide) (by decide),
      OvenAndPush.setContext c i _ s.part⟩
  · let q := raiseOven c i .pushUnpermitted (startRam c i x true s.part)
    have context : x.ramStart true = pushing true := (stage true).trans (by rw [Bool.or_true])
    have pushed := (shown.setContext c (some (x.ramStart true))).raise c .pushUnpermitted
    have frame : OvenAndPush i s.part q :=
      (OvenAndPush.setContext c i _ s.part).trans (OvenOnly.raise c i .pushUnpermitted _).andPush
    have psq : q.psq = { s.part.psq with context := some (pushing true) } := by
      rw [← context, (OvenOnly.raise c i .pushUnpermitted _).psq_eq]
      exact setContext_psq ..
    have kept : ((pl.permits c (some (x.ramStart true)) (s.part.level i)).held .pushUnpermitted true).oven.kept = pl.oven.kept := by simp
    have notReturning (hs : x.stage = .armed ∧ x.permit.active = false ∨ x.stage = .prepare) : x.stage ≠ .returning := by
      rcases hs with ⟨hs, -⟩ | hs <;> simp [hs]
    rw [← or_assoc] at hs
    rcases hs with hs | hs
    · have meaning : ramInContext c i x s.part = q := by
        rcases hs with ⟨hs, hp⟩ | hs
        · simp [ramInContext, hs, hp, q]
        · simp only [ramInContext, hs, q]
      exact ⟨q, _, runs.congr meaning, pushed.place, psq, kept, by simp, fun k => absurd k (notReturning hs), frame⟩
    · have meaning : ramInContext c i x s.part = askIsolate c i q := by simp only [ramInContext, hs, q]
      have notPrepare : ∀ y, some (x.ramStart true) = some y → y.oven ≠ ((pl.permits c (some (x.ramStart true))
          (s.part.level i)).held .pushUnpermitted true).oven.number ∨ y.stage ≠ .prepare := fun y hy => by
        cases hy
        exact .inr nofun
      have asking : OvenOnly i q (askIsolate c i q) := .askIsolate pushed notPrepare
      have place := (pushed.askIsolate c notPrepare).place
      obtain ⟨mode, next⟩ := Place.isolateAsked_offtake c (some (x.ramStart true)) (s.part.level i)
        ((pl.permits c (some (x.ramStart true)) (s.part.level i)).held .pushUnpermitted true)
      refine ⟨_, _, runs.congr meaning, place, asking.psq_eq.trans psq, ?_, ?_, fun _ => ⟨mode, next⟩,
        frame.trans asking.andPush⟩
      · rw [Place.isolateAsked_kept, kept]
      · rw [(Place.isolateAsked_resealOnly ..).alarm _ (by decide) (by decide)]
        simp
  · have meaning : ramInContext c i x s.part = raiseOven c i .pushUnpermitted s.part := by simp only [ramInContext, hs]
    exact ⟨_, runs.congr meaning, .raise c i .pushUnpermitted s.part, (shown.raise c .pushUnpermitted).place⟩

end Sys2Proof.Machine

namespace Sys2Proof.Machine

open Sys2Proof

/-! ## What a ram home leaves alone (R47 to R50) -/

section
variable {i : Nat} {p q r : Part}

theorem PushOnly.station_eq (h : PushOnly i p q) : q.asr.station = p.asr.station := by rw [h.rest]

/-- The same station alarms on both sides. -/
theorem PushOnly.withStation (h : PushOnly i p q) (set : Byte) :
    PushOnly i { p with asr := { p.asr with station := set } } { q with asr := { q.asr with station := set } } where
  number := h.number
  places := h.places
  channels := h.channels
  rest := by rw [h.rest]

/-- Only the push of the oven at the place and the station alarms may differ. -/
def PushAndStation (i : Nat) (p q : Part) : Prop :=
  PushOnly i { p with asr := { p.asr with station := q.asr.station } } q

theorem PushOnly.andStation (h : PushOnly i p q) : PushAndStation i p q := by
  unfold PushAndStation
  rw [h.station_eq]
  exact h

theorem PushAndStation.trans (h : PushAndStation i p q) (k : PushAndStation i q r) : PushAndStation i p r :=
  (PushOnly.withStation h r.asr.station).trans k

theorem PushAndStation.raise (c : Configuration) (i : Nat) (a : StationAlarm) (p : Part) :
    PushAndStation i p (raiseStation c a p) := ⟨rfl, fun _ _ => rfl, fun _ _ => rfl, rfl⟩

end

/-! ## The PDN (R49) -/

theorem mem_insertPdn_self (e : PendingPdn) (l : List PendingPdn) : e ∈ insertPdn e l := by
  induction l with
  | nil => exact List.mem_singleton_self e
  | cons x xs ih =>
    unfold insertPdn
    split
    · exact List.mem_cons_self
    · split
      · exact List.mem_cons_self
      · exact List.mem_cons_of_mem x ih

/-- What the offer of a PDN makes of the part: queued, or kept pending. -/
structure PdnOffered (e : PendingPdn) (p q : Part) : Prop where
  queued : (p.bli.offer .pdn (.oven e.oven) (pdnPayload e)).2 = true →
    q.psq.pendingPdn = p.psq.pendingPdn ∧ q.bli.holds .pdn (.oven e.oven) (pdnPayload e)
  pending : (p.bli.offer .pdn (.oven e.oven) (pdnPayload e)).2 = false → e ∈ q.psq.pendingPdn
  qou : q.qou = p.qou
  station : q.asr.station = p.asr.station

theorem offerPdn_offered (e : PendingPdn) (p : Part) : PdnOffered e p (offerPdn e p) := by
  unfold offerPdn
  cases ht : p.takes .pdn (.oven e.oven) (pdnPayload e) with
  | true => exact ⟨fun _ => ⟨rfl, offer_taken ht⟩, fun hf => absurd (ht.symm.trans hf) (by decide), rfl, rfl⟩
  | false => exact ⟨fun hf => absurd (ht.symm.trans hf) (by decide), fun _ => mem_insertPdn_self e _, rfl, rfl⟩

theorem offerPdn_frame (i : Nat) (e : PendingPdn) (p : Part) : PushOnly i p (offerPdn e p) := by
  unfold offerPdn
  split
  · exact .of_ordersOnly (.offer p _ _ _)
  · exact .of_ovenAndPush (.refl i _)

theorem Part.Shows.offerPdn {p : Part} {i : Nat} {pl : Place} {x : Option Context} {l : SwitchInput → Bool}
    (h : p.Shows i pl x l) (e : PendingPdn) : (offerPdn e p).Shows i pl x l := by
  unfold Machine.offerPdn
  split
  · exact h.offer _ _ _
  · exact ⟨h.place, h.context, h.level⟩

/-! ## The two orders (R48) -/

/-- A telegram but a QCO stays queued when an order is appended. -/
theorem qouAppend_holds {p : Part} {k : Kind} {sub : Subject} {payload : List Byte} (h : p.bli.holds k sub payload)
    (hk : k ≠ .qco) (kind : OrderKind) : (qouAppend kind p).bli.holds k sub payload := by
  unfold qouAppend
  dsimp only
  split
  · unfold qouOfferHead
    split
    · exact h
    · split
      · split
        · exact h.offer fun e => absurd e.symm hk
        · exact h
      · exact h
  · exact h

/-- What the offer of an order at ram home makes of the part. -/
structure OrderedAtHome (kind : OrderKind) (p q : Part) : Prop where
  kinds : q.qou.orders.map (·.kind)
    = if p.qou.orders.length < 4 then p.qou.orders.map (·.kind) ++ [kind] else p.qou.orders.map (·.kind)
  station : q.asr.station = if p.qou.orders.length < 4 then p.asr.station else p.asr.station ||| 0x01
  psq : q.psq = p.psq
  frame : ∀ i, PushAndStation i p q
  shows : ∀ i pl x l, p.Shows i pl x l → q.Shows i pl x l
  holds : ∀ sub payload, p.bli.holds .pdn sub payload → q.bli.holds .pdn sub payload

theorem orderAtHome_ordered (c : Configuration) (kind : OrderKind) (p : Part) : OrderedAtHome kind p (orderAtHome c kind p) := by
  unfold orderAtHome
  by_cases room : p.qou.orders.length < 4
  · have takes : qouTakes p = true := decide_eq_true room
    have only : OrdersOnly p (qouAppend kind p) := .append kind p
    obtain ⟨offered, qou⟩ := qouAppend_qou kind p
    rw [if_pos takes]
    refine ⟨?_, ?_, only.psq_eq, fun i => (PushOnly.of_ordersOnly only).andStation, fun i pl x l h => only.shows h,
      fun sub payload h => qouAppend_holds h (by decide) kind⟩
    · rw [if_pos room, qou, List.map_append]
      rfl
    · rw [if_pos room, only]
  · have full : ¬qouTakes p = true := fun k => room (of_decide_eq_true k)
    rw [if_neg full]
    exact ⟨(if_neg room).symm, (if_neg room).symm, rfl, fun i => .raise c i .carTimeout p,
      fun i pl x l h => ⟨h.place, h.context, h.level⟩, fun _ _ h => h⟩

/-- Two orders offered one after the other fill four places. -/
theorem OrderedAtHome.both {a b : OrderKind} {p q r : Part} (h : OrderedAtHome a p q) (k : OrderedAtHome b q r) :
    r.qou.orders.map (·.kind) = (p.qou.orders.map (·.kind) ++ [a, b]).take (max 4 p.qou.orders.length)
      ∧ r.asr.station = if p.qou.orders.length ≤ 2 then p.asr.station else p.asr.station ||| 0x01 := by
  have length : q.qou.orders.length = if p.qou.orders.length < 4 then p.qou.orders.length + 1 else p.qou.orders.length := by
    have := congrArg List.length h.kinds
    split at this <;> simp_all
  rw [k.kinds, k.station, h.kinds, h.station, length]
  rcases lt_trichotomy p.qou.orders.length 3 with two | three | four
  · have first : p.qou.orders.length < 4 := by omega
    have second : p.qou.orders.length + 1 < 4 := by omega
    simp only [first, second, if_true, if_pos (show p.qou.orders.length ≤ 2 by omega), List.append_assoc, and_true]
    exact (List.take_of_length_le (by simp; omega)).symm
  · simp [three, List.take_append]
  · have first : ¬p.qou.orders.length < 4 := by omega
    simp only [first, if_false, if_neg (show ¬p.qou.orders.length ≤ 2 by omega), BitVec.or_assoc, BitVec.or_self, and_true]
    rw [Nat.max_eq_right (by omega), List.take_left' (by simp)]

/-! ## CLOSING, or the end of the push at once (R47, R50) -/

/-- EMPTY is entered with no charge start to cancel. -/
theorem OvsOnly.setEmpty (c : Configuration) (i : Nat) (p : Part) :
    OvsOnly i p (Machine.setPhase c i .empty p) := by
  unfold Machine.setPhase
  split
  · exact .refl i p
  · next pl _ =>
    split
    · exact .refl i p
    · next hne =>
      have recorded : OvsOnly i p (p.modifyOven i fun o => o.withPhase .empty) :=
        .of_bli_eq (.modifyOven i p _ fun _ => rfl) rfl
      have cancels : ¬(pl.oven.inFlight = true ∧ pl.oven.kept.phase = .empty) := fun k => hne k.2
      simpa only [cancelOnPhase, if_neg cancels] using
        ((recorded.trans (.offerOvs i _)).trans (.evalOverdue c i _)).trans (.ocuPhaseChange c i _ _ _)

theorem OvsOffers.holds {n : Nat} {b b' : Bli} {k : Kind} {sub : Subject} {payload : List Byte} (h : OvsOffers n b b')
    (hb : b.holds k sub payload) (hk : k ≠ .ovs) : b'.holds k sub payload := by
  obtain ⟨e, he, rfl, same⟩ := hb
  exact ⟨e, h.stays he hk, rfl, same⟩

theorem OvsOnly.holds {i : Nat} {p q : Part} {pl : Place} {k : Kind} {sub : Subject} {payload : List Byte} (h : OvsOnly i p q)
    (hp : p.places[i]? = some pl) (hb : p.bli.holds k sub payload) (hk : k ≠ .ovs) : q.bli.holds k sub payload :=
  (h.line _ (numberAt_some hp)).holds hb hk

/-- What CLOSING, or the end of the push at once, makes of the part. -/
structure Closes (c : Configuration) (i : Nat) (pl : Place) (x : Context) (p q : Part) : Prop where
  frame : OvenAndPush i p q
  pending : q.psq.pendingPdn = p.psq.pendingPdn
  holds : ∀ sub payload, p.bli.holds .pdn sub payload → q.bli.holds .pdn sub payload
  place : ∃ pl', q.places[i]? = some pl'
    ∧ (pl.NoneReleased → pl.bothLatched = false → pl' = pl ∧ q.psq.context = some x)
    ∧ (pl.bothLatched = true → q.psq.context = none ∧ pl'.oven.kept = { pl.oven.kept with phase := .empty })

/-- A latched door is not RELEASED. -/
theorem Place.noneReleased_of_bothLatched {pl : Place} (h : pl.bothLatched = true) : pl.NoneReleased := fun side e => by
  obtain ⟨hP, hC⟩ := (bothLatched_iff pl).mp h
  cases side
  · simp [show pl.doorP.state = .released from e, DoorState.isLatched] at hP
  · simp [show pl.doorC.state = .released from e, DoorState.isLatched] at hC

section
variable {c : Configuration} {i : Nat} {p : Part} {pl : Place} {x : Context} {y : Option Context} {l : SwitchInput → Bool}

/-- CLOSING is entered, and left at once when both doors are latched. -/
theorem setContext_closes (h : p.Shows i pl y l) (hx : givesNoPermit (some x)) (hs : x.stage = .closing) :
    Closes c i pl x p (closingDoorsTest c i (setContext c i (some x) p)) := by
  let closed := setContext c i (some x) p
  have set : closed.Shows i (pl.permits c (some x) l) (some x) l := h.setContext c (some x)
  have frame : OvenAndPush i p closed := .setContext c i (some x) p
  have pending : closed.psq.pendingPdn = p.psq.pendingPdn := by rw [setContext_psq]
  have holds (sub : Subject) (payload : List Byte) (hb : p.bli.holds .pdn sub payload) : closed.bli.holds .pdn sub payload :=
    (OvsOnly.permitPass c i { p with psq := { p.psq with context := some x } }).holds h.place hb (by decide)
  have same (hn : pl.NoneReleased) : pl.permits c (some x) l = pl :=
    Place.permits_kept_of_not_ready (hx.not_ready c _) (hn .p) (hn .c)
  have test : closingDoorsTest c i closed = if (pl.permits c (some x) l).bothLatched = true then
      setContext c i none (setPhase c i .empty closed) else closed := by
    simp [closingDoorsTest, set.context, set.place, hs]
  rw [test]
  split
  · next latched =>
    have emptied := set.phaseSet c .empty
    have emptying : OvsOnly i closed (setPhase c i .empty closed) := .setEmpty c i closed
    refine ⟨(frame.trans emptying.frame.andPush).trans (.setContext ..), ?_, fun sub payload hb => ?_, _,
      (emptied.setContext c none).place, fun hn open_ => ?_, fun _ => ⟨by rw [setContext_psq], ?_⟩⟩
    · rw [setContext_psq, emptying.frame.psq_eq, pending]
    · exact (OvsOnly.permitPass c i { setPhase c i .empty closed with
        psq := { (setPhase c i .empty closed).psq with context := none } }).holds emptied.place
          (emptying.holds set.place (holds sub payload hb) (by decide)) (by decide)
    · rw [same hn, open_] at latched
      exact absurd latched (by decide)
    · rw [Place.permits_kept, Place.phaseSet_kept, Place.permits_kept]
  · next open_ =>
    refine ⟨frame, pending, holds, _, set.place, fun hn _ => ⟨same hn, set.context⟩, fun latched => ?_⟩
    rw [same (Place.noneReleased_of_bothLatched latched)] at open_
    exact absurd latched open_

end

/-! ## The ram home -/

/-- A ram home of the pusher's runs its meaning, and nothing unless the context is in PUSHING for the oven. -/
theorem rmh_runs {s : State} {c : Configuration} {h : Header} {oven stroke : Byte} (hf : isFrom h c c.pusherStation = true)
    (hc : s.part.config = some c) : s.Runs (.rmh h oven stroke)
      (match s.part.psq.context with
        | none => s.part
        | some x =>
            if x.oven = oven.toNat ∧ x.stage = .pushing then
              withLocal c x.oven s.part fun i => ramHome c i x stroke.toNat s.part
            else s.part) := by
  refine (runs_of_whenLoaded hc (i := .rmh h oven stroke) rfl).congr ((if_pos hf).trans ?_)
  cases s.part.psq.context <;> rfl

/-- Settles O37, by what the PDN, the two orders and CLOSING each make of the part. -/
theorem ramHomeClosesThePush : Obligations.RamHomeClosesThePush := by
  intro s c h oven stroke hf hc
  have runs := rmh_runs (oven := oven) (stroke := stroke) hf hc
  constructor
  · intro other
    refine runs.ignores ?_
    cases hx : s.part.psq.context with
    | none => rfl
    | some x => exact if_neg (other x hx)
  · intro i pl x ho hx hn hs pdn latched
    let e : PendingPdn := ⟨x.oven, stroke.toNat, x.unpermitted⟩
    let done := offerPdn e s.part
    let quenched := orderAtHome c (.quench c.quenchTime) done
    let dumped := orderAtHome c .dump quenched
    have meaning := runs.congr (r := ramHome c i x stroke.toNat s.part) (by
      rw [hx]
      exact (if_pos ⟨hn, hs⟩).trans (withLocal_some (hn ▸ ho.2.1) _ _))
    have payload : pdnPayload e = pdn := by
      have flag : byteOf (if x.unpermitted = true then 1 else 0) = if x.unpermitted = true then 1 else 0 := by split <;> rfl
      simp only [pdnPayload, e, hn, byteOf_toNat, flag, pdn]
    have shown : s.part.Shows i pl (some x) (s.part.level i) := hx ▸ ho.shows
    obtain ⟨queued, pending, qou, station⟩ := offerPdn_offered e s.part
    rw [payload] at queued pending
    have quench : OrderedAtHome (.quench c.quenchTime) done quenched := orderAtHome_ordered ..
    have dump : OrderedAtHome .dump quenched dumped := orderAtHome_ordered ..
    obtain ⟨kinds, alarms⟩ := quench.both dump
    have psq : dumped.psq = done.psq := dump.psq.trans quench.psq
    have dumpedShows := dump.shows _ _ _ _ (quench.shows _ _ _ _ (shown.offerPdn e))
    have closes : Closes c i pl (x.home stroke.toNat) dumped (ramHome c i x stroke.toNat s.part) :=
      setContext_closes dumpedShows (fun y hy => by cases hy; simp [Context.home]) rfl
    obtain ⟨frame, kept, holds, pl', place, closing, ended⟩ := closes
    have whole : PushAndStation i s.part (ramHome c i x stroke.toNat s.part) :=
      (((offerPdn_frame i e s.part).andStation.trans (quench.frame i)).trans (dump.frame i)).trans
        (PushOnly.of_ovenAndPush frame).andStation
    refine ⟨_, pl', meaning, place, fun open_ hP hC => closing ?_ ?_, fun hP hC => ended ?_, fun taken => ?_, fun refused => ?_,
      ?_, ?_, whole⟩
    · exact fun side => by cases side <;> assumption
    · rw [Bool.eq_false_iff, Ne, bothLatched_iff, isLatched_iff, isLatched_iff]
      exact open_
    · rw [bothLatched_iff, isLatched_iff, isLatched_iff]
      exact ⟨hP, hC⟩
    · obtain ⟨list, queue⟩ := queued taken
      exact ⟨by rw [kept, psq, list], holds _ _ (dump.holds _ _ (quench.holds _ _ queue))⟩
    · rw [kept, psq]
      exact pending refused
    · rw [frame.qou_eq, kinds, qou]
    · rw [(PushOnly.of_ovenAndPush frame).station_eq, alarms, qou, station]

end Sys2Proof.Machine

/-! SUPPORT. The offtake's switches in ISOLATE and ASPIRATE, and what they reach in a push (R40, R51, R63, R85 to R89). -/

namespace Sys2Proof.Machine

open Sys2Proof

/-! ## The levels after a switch change (R121) -/

theorem PlaceInputs.get_set_same (y : PlaceInputs) (input : SwitchInput) (z : Input) : (y.set input z).get input = z := by
  rcases input with _ | _ | _ | side | side | side
  case valveClosed | capOpen | capClosed => rfl
  all_goals cases side <;> rfl

theorem Part.withLevel_level_same {s : State} {i : Nat} {input : SwitchInput} {v : Bool} (h : s.Spell i input v) :
    (s.part.withLevel i input v).level i input = v := by
  obtain ⟨x, hx, -⟩ := h
  simp [Part.level, Part.withLevel, hx, PlaceInputs.get_set_same]

/-- An input whose storing leaves another leaves that one's level. -/
theorem Part.withLevel_level_other (p : Part) (i : Nat) (v : Bool) {input other : SwitchInput}
    (h : ∀ (y : PlaceInputs) (z : Input), (y.set input z).get other = y.get other) :
    (p.withLevel i input v).level i other = p.level i other := by
  simp only [Part.level, Part.withLevel, List.getElem?_modify_eq]
  cases p.fls.inputs[i]? <;> simp [h]

/-! ## A switch change delivered (R85 to R89) -/

section
variable {c : Configuration} {i : Nat} {p : Part} {pl : Place} {input : SwitchInput} {which : Confirmation}

theorem deliver_comes (h : p.places[i]? = some pl) (hw : confirmationOf input = some which) : deliver c i input true p
    = tellOfftake c i (pl.offtake.confirm c (p.offtakeLevels i) which) none p := by
  simp only [deliver, hw, offtakeSwitch, h, if_true]

theorem deliver_goes (h : p.places[i]? = some pl) (hw : confirmationOf input = some which) : deliver c i input false p
    = tellOfftake c i (pl.offtake.unconfirm which)
        (if pl.offtake.losesReached which then some which.alarm else none) p := by
  simp only [deliver, hw, offtakeSwitch, h, Bool.false_eq_true, if_false]

/-- An OCU change with no alarm, its report waited for by nobody. -/
theorem tellOfftake_inert {new : Offtake} (h : p.places[i]? = some pl) (hf : pl.oven.inFlight = false)
    (hx : ∀ y, p.psq.context = some y → y.oven ≠ pl.oven.number) :
    tellOfftake c i new none p = permitPass c i (commitOfftake i new p) := by
  have stored := (Part.shows_self h).commitOfftake new
  simp only [tellOfftake, h]
  cases reportOf pl.offtake new with
  | none => rfl
  | some r =>
    simp only
    rw [tellReport_inert stored.place hf fun y hy => hx y (stored.context ▸ hy)]

end

/-- At the end of an input's spell the place holds another offtake record and more alarms, and nothing else differs. -/
def State.SwitchLeads (s : State) (i : Nat) (pl : Place) (input : SwitchInput) (v : Bool) (new : Offtake) (raised : Word16) :
    Prop :=
  s.Spell i input v →
    ∃ q, s.Runs (.debounceExpiry (i + 1) input) q ∧ OvenOnly i (s.part.withLevel i input v) q
      ∧ q.places[i]? = some ((pl.withOfftake new).withAlarms (pl.oven.alarms ||| raised))

theorem Place.withAlarms_or_zero (pl : Place) : pl.withAlarms (pl.oven.alarms ||| 0) = pl := by
  have same : pl.oven.alarms ||| 0 = pl.oven.alarms := BitVec.or_zero
  rw [same]
  rfl

/-- The record at a lost confirmation of REACHED (R89). -/
def Offtake.failed (o : Offtake) : Offtake := { o with sub := some .failed }

/-- The state with the level of an input taken, before its owner is told. -/
def State.withLevel (s : State) (i : Nat) (input : SwitchInput) (v : Bool) : State :=
  { s with part := s.part.withLevel i input v }

section
variable {s : State} {c : Configuration} {n i : Nat} {pl : Place} {input : SwitchInput} {which : Confirmation} {v : Bool}

theorem State.HasOven.withLevel (ho : s.HasOven c n i pl) : (s.withLevel i input v).HasOven c n i pl := ho

/-- With no push and no charge start of the oven a confirmation that comes moves the offtake alone. -/
theorem confirmation_comes (ho : s.HasOven c n i pl) (hn : s.NoPushOf n) (hf : pl.oven.inFlight = false)
    (hP : pl.doorP.state ≠ .released) (hC : pl.doorC.state ≠ .released) (hw : confirmationOf input = some which)
    {new : Offtake} (hnew : s.Spell i input true →
      pl.offtake.confirm c ((s.part.withLevel i input true).offtakeLevels i) which = new) :
    s.SwitchLeads i pl input true new 0 := fun spell => by
  let before := s.part.withLevel i input true
  have there : before.places[i]? = some pl := ho.2.2.1
  have shown : before.Shows i pl s.part.psq.context (before.level i) := Part.shows_self there
  refine ⟨_, (debounce_runs ho.1 spell).congr ((deliver_comes there hw).trans ?_),
    (OvenOnly.commitOfftake i new before).trans (.permitPass c i _), ?_⟩
  · rw [hnew spell]
    exact tellOfftake_inert there hf (ho.ne hn)
  · rw [((shown.commitOfftake new).permitPass c).place, ho.permits_eq (pl' := pl.withOfftake new) hn rfl hP hC]
    exact congrArg some (pl.withOfftake new).withAlarms_or_zero.symm

/-- One that goes from REACHED makes FAILED with its alarm. -/
theorem confirmation_lost (ho : s.HasOven c n i pl) (hn : s.NoPushOf n) (hf : pl.oven.inFlight = false)
    (hP : pl.doorP.state ≠ .released) (hC : pl.doorC.state ≠ .released) (hw : confirmationOf input = some which)
    (hl : pl.offtake.losesReached which = true) :
    s.SwitchLeads i pl input false pl.offtake.failed (ovenBit which.alarm) := fun spell => by
  have there : (s.part.withLevel i input false).places[i]? = some pl := ho.2.2.1
  have fails := motionTimer_fails (s := s.withLevel i input false) ho.withLevel hn hP hC hf pl.offtake.failed which.alarm
  refine ⟨_, (debounce_runs ho.1 spell).congr ((deliver_goes there hw).trans ?_), fails⟩
  simp only [Offtake.unconfirm, hl, if_true]
  rfl

/-- A lost valve-closed takes a sequence that waits for cap-open back to its first step. -/
theorem valveClosed_lost_waiting (ho : s.HasOven c n i pl) (hn : s.NoPushOf n) (hf : pl.oven.inFlight = false)
    (hP : pl.doorP.state ≠ .released) (hC : pl.doorC.state ≠ .released) (hl : pl.offtake.losesReached .valveClosed = false)
    (ha : pl.offtake.awaits = some .capOpen) :
    s.SwitchLeads i pl .valveClosed false pl.offtake.awaitValveClosed 0 := fun spell => by
  let before := s.part.withLevel i .valveClosed false
  have there : before.places[i]? = some pl := ho.2.2.1
  have shown : before.Shows i pl s.part.psq.context (before.level i) := Part.shows_self there
  have unconfirmed : pl.offtake.unconfirm .valveClosed = pl.offtake.awaitValveClosed := by simp [Offtake.unconfirm, hl, ha]
  refine ⟨_, (debounce_runs ho.1 spell).congr ((deliver_goes there rfl).trans ?_),
    (OvenOnly.commitOfftake i pl.offtake.awaitValveClosed before).trans (.permitPass c i _), ?_⟩
  · rw [unconfirmed, if_neg (by simp [hl])]
    exact tellOfftake_inert there hf (ho.ne hn)
  · rw [((shown.commitOfftake _).permitPass c).place,
      ho.permits_eq (pl' := pl.withOfftake pl.offtake.awaitValveClosed) hn rfl hP hC]
    exact congrArg some (pl.withOfftake pl.offtake.awaitValveClosed).withAlarms_or_zero.symm

/-! ## What the switches reach in a push (R40, R51, R63) -/

theorem reportOf_lost {o : Offtake} (hm : o.mode = .isolate) (hn : o.next = none) (hs : o.sub = some .reached) :
    reportOf o o.failed = some .isolateFailed := by
  simp [reportOf, Offtake.failed, hm, hn, hs]

theorem reportOf_reached {o : Offtake} (hm : o.mode = .isolate) (hn : o.next = none) (hs : o.sub ≠ some .reached) :
    reportOf o o.isolateReached = some .isolateReached := by
  simp [reportOf, Offtake.isolateReached, hm, hn, hs]

/-- In PUSHING, CLOSING and RETURN a lost confirmation makes FAILED with its alarm and reaches no push. -/
theorem confirmation_lost_late {x : Context} {p : Part} (h : p.Shows i pl (some x) (p.level i))
    (report : reportOf pl.offtake pl.offtake.failed = some .isolateFailed)
    (hP : pl.doorP.state ≠ .released) (hC : pl.doorC.state ≠ .released) (hp : x.stage ≠ .prepare) (ha : x.stage ≠ .armed)
    (a : OvenAlarm) :
    OvenOnly i p (tellOfftake c i pl.offtake.failed (some a) p)
      ∧ (tellOfftake c i pl.offtake.failed (some a) p).places[i]? = some ((pl.withOfftake pl.offtake.failed).held a true) := by
  let new := pl.offtake.failed
  have alarmed := (h.commitOfftake new).raise c a
  have untold : tellReport c i pl.oven.number .isolateFailed (raiseOven c i a (commitOfftake i new p))
      = raiseOven c i a (commitOfftake i new p) := by
    simp only [tellReport, abortIfOpen, alarmed.context]
    exact if_neg fun k => k.2.elim hp ha
  have noPermit : givesNoPermit (some x) := fun y hy => by
    cases hy
    exact ⟨hp, ha⟩
  rw [tellOfftake_alarmed h.place report, untold]
  refine ⟨((OvenOnly.commitOfftake i new p).trans (.raise c i a _)).trans (.permitPass c i _), ?_⟩
  rw [(alarmed.permitPass c).place, Place.permits_kept_of_not_ready (pl := (pl.withOfftake new).held a true)
    (noPermit.not_ready c _) hP hC]

/-- The context of a push in PREPARE at ISOLATE REACHED: ARMED with both doors OFF and the SPOT done (R40). -/
def Context.atReached (pl : Place) (x : Context) : Context :=
  if pl.doorP.state = .off ∧ pl.doorC.state = .off ∧ x.spotDone = true then
    { x with stage := .armed, armedLimit := .running 600000 }
  else x

/-- A door at ISOLATE REACHED in PREPARE or ARMED, by the permit decision (R63). -/
theorem Door.decide_reached {d : Door} {ready leak : Bool} (hr : d.state ≠ .released) : d.decide c ready leak
    = if (d.state = .sealed ∨ d.state = .leaking) ∧ ready = true then Claims.released d else d := by
  cases ready
  · simp [Door.decide_kept hr]
  · simp only [Door.decide, if_true, isLatched_iff, and_true]
    rfl

/-- ISOLATE REACHED in PREPARE releases the latched doors under permit_max, and arms a push whose doors are OFF. -/
theorem isolateReached_inPrepare {x : Context} {p : Part} (h : p.Shows i pl (some x) (p.level i))
    (hi : placeOf c x.oven = some i) (hx : x.oven = pl.oven.number) (hs : x.stage = .prepare)
    (hm : pl.offtake.mode = .isolate) (report : reportOf pl.offtake pl.offtake.isolateReached = some .isolateReached) :
    ∃ pl', (tellOfftake c i pl.offtake.isolateReached none p).places[i]? = some pl'
      ∧ OvenOnly i { p with psq := { p.psq with context := some (x.atReached pl) } }
          (tellOfftake c i pl.offtake.isolateReached none p)
      ∧ pl'.offtake = pl.offtake.isolateReached ∧ pl'.oven.kept = pl.oven.kept
      ∧ ∀ side, (pl.door side).state ≠ .released → pl'.door side =
          if ((pl.door side).state = .sealed ∨ (pl.door side).state = .leaking)
              ∧ ∃ v ∈ pl.offtake.pressure.toList, v ≤ (c.permitMax : Int) then Claims.released (pl.door side)
          else pl.door side := by
  let new := pl.offtake.isolateReached
  let stored := commitOfftake i new p
  have shown : stored.Shows i (pl.withOfftake new) (some x) (p.level i) := h.commitOfftake new
  have storing : OvenOnly i p stored := .commitOfftake i new p
  have ready : readyToArm (pl.withOfftake new) x = true
      ↔ pl.doorP.state = .off ∧ pl.doorC.state = .off ∧ x.spotDone = true := by
    rw [readyToArm_iff]
    simp [new, Offtake.isolateReached, hm]
  have told : tellReport c i pl.oven.number .isolateReached stored
      = if readyToArm (pl.withOfftake new) x = true then setContext c i (some x.arm) stored else stored := by
    have test := testArmed_eq shown hi
    rw [hx] at test
    simp only [hs, true_and] at test
    exact test
  rw [tellOfftake_reported h.place report, told]
  split
  · next arms =>
    obtain ⟨hP, hC, hd⟩ := ready.mp arms
    obtain ⟨frame, place⟩ := arms_takes shown storing hP hC c
    have context : x.atReached pl = x.arm := if_pos ⟨hP, hC, hd⟩
    have armed : (setContext c i (some x.arm) stored).Shows i (pl.withOfftake new) (some x.arm) (p.level i) :=
      ⟨place, by rw [setContext_psq], fun input => by rw [frame.level_eq]; rfl⟩
    have off (side : Side) : (pl.door side).state = .off := by cases side <;> assumption
    refine ⟨_, (armed.permitPass c).place, context ▸ frame.trans (.permitPass c i _), Place.permits_offtake ..,
      Place.permits_kept .., fun side _ => ?_⟩
    rw [Place.permits_door, Place.withOfftake_door, Door.decide_away (.inr (.inl (off side))), if_neg (by simp [off side])]
  · next idle =>
    have context : x.atReached pl = x := if_neg (mt ready.mpr idle)
    have same : ({ p with psq := { p.psq with context := some x } } : Part) = p := by rw [← h.context]
    refine ⟨_, (shown.permitPass c).place, ?_, Place.permits_offtake .., Place.permits_kept .., fun side hr => ?_⟩
    · rw [context, same]
      exact storing.trans (.permitPass c i _)
    · have conditions : (pl.withOfftake new).ready c (some x) = true ↔ ∃ v ∈ pl.offtake.pressure.toList, v ≤ (c.permitMax : Int) := by
        cases hv : pl.offtake.pressure <;> simp [Place.ready, new, Offtake.isolateReached, hm, hs, hx, hv]
      rw [Place.permits_door, Place.withOfftake_door, Door.decide_reached hr]
      simp only [conditions]

end

/-- A lost confirmation of ISOLATE REACHED aborts a push in PREPARE or ARMED (R51). -/
theorem confirmation_lost_aborts {s : State} {c : Configuration} {n i : Nat} {pl : Place} {input : SwitchInput}
    {which : Confirmation} {x : Context} (ho : s.HasOven c n i pl) (hx : s.part.psq.context = some x) (hxn : x.oven = n)
    (hw : confirmationOf input = some which) (hl : pl.offtake.losesReached which = true)
    (report : reportOf pl.offtake pl.offtake.failed = some .isolateFailed) (spell : s.Spell i input false) :
    s.Runs (.debounceExpiry (i + 1) input)
        (tellOfftake c i pl.offtake.failed (some which.alarm) (s.part.withLevel i input false))
      ∧ (x.stage = .prepare ∨ x.stage = .armed → x.piRequested = false →
        Claims.aborts c i (pl.withOfftake pl.offtake.failed) x .isolateFail (s.part.withLevel i input false)
            (tellOfftake c i pl.offtake.failed (some which.alarm) (s.part.withLevel i input false))
          ∧ ∀ pl', (tellOfftake c i pl.offtake.failed (some which.alarm) (s.part.withLevel i input false)).places[i]? = some pl' →
              hasOven pl'.oven.alarms which.alarm = true) := by
  have there : (s.part.withLevel i input false).places[i]? = some pl := ho.2.2.1
  constructor
  · refine (debounce_runs ho.1 spell).congr ((deliver_goes there hw).trans ?_)
    simp only [Offtake.unconfirm, hl, if_true]
    rfl
  · intro hs hpi
    refine motionTimer_aborts (s := s.withLevel i input false) ho.withLevel hx hxn hs hpi report which.alarm ?_ ?_ ?_ <;>
      cases which <;> decide

/-- A lost confirmation of ISOLATE REACHED in a push: an abort in PREPARE and ARMED, the alarm alone in the later stages. -/
theorem confirmation_lost_inPush {s : State} {c : Configuration} {n i : Nat} {pl : Place} {input : SwitchInput}
    {which : Confirmation} {x : Context} (ho : s.HasOven c n i pl) (hx : s.part.psq.context = some x) (hxn : x.oven = n)
    (hw : confirmationOf input = some which) (hl : pl.offtake.losesReached which = true)
    (report : reportOf pl.offtake pl.offtake.failed = some .isolateFailed) (spell : s.Spell i input false) :
    (x.stage = .prepare ∨ x.stage = .armed → x.piRequested = false →
        ∃ q, s.Runs (.debounceExpiry (i + 1) input) q
          ∧ Claims.aborts c i ((pl.withOfftake pl.offtake.failed).held which.alarm true) x .isolateFail
              (s.part.withLevel i input false) q
          ∧ ∀ pl', q.places[i]? = some pl' → hasOven pl'.oven.alarms which.alarm = true)
      ∧ (pl.doorP.state ≠ .released ∧ pl.doorC.state ≠ .released → x.stage ≠ .prepare → x.stage ≠ .armed →
        ∃ q, s.Runs (.debounceExpiry (i + 1) input) q ∧ OvenOnly i (s.part.withLevel i input false) q
          ∧ q.places[i]? = some ((pl.withOfftake pl.offtake.failed).held which.alarm true)) := by
  obtain ⟨runs, aborts⟩ := confirmation_lost_aborts ho hx hxn hw hl report spell
  refine ⟨fun hs hpi => ⟨_, runs, aborts hs hpi⟩, fun ⟨hP, hC⟩ hp ha => ⟨_, runs, ?_⟩⟩
  let p := s.part.withLevel i input false
  have shown : p.Shows i pl (some x) (p.level i) := hx ▸ Part.shows_self (p := p) ho.2.2.1
  exact confirmation_lost_late shown report hP hC hp ha which.alarm

/-- Settles O43, by the confirmations that come and go, with nobody to tell and in a push. -/
theorem isolateFollowsItsSwitches : Obligations.IsolateFollowsItsSwitches := by
  intro s c n i pl ho hf hnext o noRelease becomes opening reached lost
  constructor
  · intro hn ⟨hP, hC⟩
    have leads {input v new raised} (h : s.SwitchLeads i pl input v new raised) : becomes input v new raised := h
    have comes {input} (which) (hw : confirmationOf input = some which) {new : Offtake}
        (hnew : s.Spell i input true → o.confirm c ((s.part.withLevel i input true).offtakeLevels i) which = new) :
        becomes input true new 0 := leads (confirmation_comes ho hn hf hP hC hw hnew)
    have goes {input} (which) (hw : confirmationOf input = some which) (hl : o.losesReached which = true) :
        becomes input false lost (ovenBit which.alarm) := leads (confirmation_lost ho hn hf hP hC hw hl)
    refine ⟨fun _ ha => comes .valveClosed rfl fun _ => ?_, fun _ ha => comes .capOpen rfl fun _ => ?_,
      fun hm hs => ⟨goes .valveClosed rfl ?_, goes .capOpen rfl ?_⟩, fun hm hs => goes .capClosed rfl ?_,
      fun _ ha hs => leads (valveClosed_lost_waiting ho hn hf hP hC ?_ ha),
      fun hm hs ha => ⟨fun hcap => comes .valveClosed rfl fun spell => ?_, fun hvalve => comes .capOpen rfl fun spell => ?_⟩,
      fun hm hs ha => comes .capClosed rfl fun spell => ?_⟩
    · have cap : ((s.part.withLevel i .valveClosed true).offtakeLevels i).capOpen = s.part.level i .capOpen :=
        Part.withLevel_level_other _ i true fun _ _ => rfl
      simp only [Offtake.confirm, ha, if_true, Offtake.isolateValveClosed, cap]
      rfl
    · simp only [Offtake.confirm, ha, if_true]
      rfl
    · simp [Offtake.losesReached, hs, hm]
    · simp [Offtake.losesReached, hs, hm]
    · simp [Offtake.losesReached, hs, hm]
    · have notReached : pl.offtake.sub ≠ some .reached := hs
      simp [Offtake.losesReached, notReached]
    · have cap : ((s.part.withLevel i .valveClosed true).offtakeLevels i).capOpen = true :=
        (Part.withLevel_level_other _ i true fun _ _ => rfl).trans hcap
      have valve : ((s.part.withLevel i .valveClosed true).offtakeLevels i).valveClosed = true :=
        Part.withLevel_level_same spell
      simp [Offtake.confirm, Offtake.regain, Offtake.lost, Offtake.confirmed, ha, hs, hm, cap, valve]
    · have cap : ((s.part.withLevel i .capOpen true).offtakeLevels i).capOpen = true := Part.withLevel_level_same spell
      have valve : ((s.part.withLevel i .capOpen true).offtakeLevels i).valveClosed = true :=
        (Part.withLevel_level_other _ i true fun _ _ => rfl).trans hvalve
      simp [Offtake.confirm, Offtake.regain, Offtake.lost, Offtake.confirmed, ha, hs, hm, cap, valve]
    · have closed : ((s.part.withLevel i .capClosed true).offtakeLevels i).capClosed = true :=
        Part.withLevel_level_same spell
      simp [Offtake.confirm, Offtake.regain, Offtake.lost, Offtake.confirmed, ha, hs, hm, closed]
  · intro x hx hxn hm
    have number : x.oven = pl.oven.number := hxn.trans ho.2.2.2.symm
    refine ⟨fun spell ha hs hstage => ?_, fun input hin spell hs => ?_⟩
    · intro p y
      have shown : p.Shows i pl (some x) (p.level i) := hx ▸ Part.shows_self (p := p) ho.2.2.1
      have confirmed : pl.offtake.confirm c (p.offtakeLevels i) .capOpen = pl.offtake.isolateReached := by
        have awaited : pl.offtake.awaits = some .capOpen := ha
        simp only [Offtake.confirm, awaited, if_true]
      have runs : s.Runs (.debounceExpiry (i + 1) .capOpen) (tellOfftake c i pl.offtake.isolateReached none p) :=
        (debounce_runs ho.1 spell).congr ((deliver_comes shown.place rfl).trans (by rw [confirmed]))
      obtain ⟨pl', place, frame, offtake, kept, doors⟩ :=
        isolateReached_inPrepare (c := c) shown (hxn ▸ ho.2.1) number hstage hm (reportOf_reached hm hnext hs)
      exact ⟨_, pl', runs, place, frame, offtake, kept, doors⟩
    · intro e alarmed
      have report : reportOf pl.offtake pl.offtake.failed = some .isolateFailed := reportOf_lost hm hnext hs
      have loses (which : Confirmation) (hw : which ≠ .capClosed) : pl.offtake.losesReached which = true := by
        have still : pl.offtake.sub = some .reached := hs
        have mode : pl.offtake.mode = .isolate := hm
        cases which <;> simp [Offtake.losesReached, still, mode] at hw ⊢
      have inPush (which : Confirmation) (hw : confirmationOf input = some which) (hn : which ≠ .capClosed) :=
        confirmation_lost_inPush ho hx hxn hw (loses which hn) report spell
      rcases hin with rfl | rfl
      · exact inPush .valveClosed rfl (by decide)
      · exact inPush .capOpen rfl (by decide)

end Sys2Proof.Machine

/-! SUPPORT. The outcomes of the car orders, and what they make of the push (R51, R56, R102 to R106). -/

namespace Sys2Proof.Machine

open Sys2Proof

/-! ## Orders that leave, and the head behind them (R98, R102, R103) -/

/-- The part with other orders in its list. -/
def Part.keeping (p : Part) (left : List Order) : Part := { p with qou := { p.qou with orders := left } }

theorem isRelease_iff (k : OrderKind) : k.isRelease = decide (k = .release) := by
  cases k <;> rfl

/-- QUEUED and not offered, as every order behind the head is. -/
def Order.waits (o : Order) : Prop := o.state = .queued ∧ o.offered = false

/-- Orders that wait leave just the first of them to be offered. -/
theorem qouOfferHead_keeping {left : List Order} (h : ∀ o ∈ left, o.waits) (p : Part) :
    qouOfferHead (p.keeping left) = Claims.headOffered p left := by
  cases left with
  | nil => rfl
  | cons o more =>
    have ready : o.state = .queued ∧ o.offered = false := h o List.mem_cons_self
    simp only [qouOfferHead, Part.keeping, if_pos ready, qcoPayload_eq]
    rfl

/-! ## The deadline (R104) -/

/-- The station alarms that an expired deadline makes. -/
def Part.deadlineAlarms (p : Part) (head : Order) : Byte :=
  if hotCar p head then p.asr.station ||| 0x03 else p.asr.station ||| 0x01

/-- The part with its list emptied by a deadline, before an outcome is given. -/
def Part.timedOut (c : Configuration) (set : Byte) (p : Part) : Part :=
  { p with
    qou := { p.qou with orders := [] }
    asr := { p.asr with station := set, relay := relayDecision c p.places set p.asr.configFault } }

theorem hotCar_iff (p : Part) (head : Order) :
    hotCar p head = true ↔ (∃ t, head.kind = .quench t) ∨ ∃ v, p.lvt.car = some v ∧ v.load = .hot := by
  cases hv : p.lvt.car <;> cases hk : head.kind <;> simp [hotCar, hv, hk]

theorem deadlineAlarms_after (p : Part) (head : Order) : Claims.afterDeadline p head (p.deadlineAlarms head) := by
  constructor <;> intro h <;> simp only [← hotCar_iff] at h <;> simp [Part.deadlineAlarms, h]

theorem deadlineExpires_eq (c : Configuration) (head : Order) (p : Part) : deadlineExpires c head p
    = if head.owed = true then takeOutcome c .timeout (p.timedOut c (p.deadlineAlarms head))
      else p.timedOut c (p.deadlineAlarms head) := by
  have alarmed : (if hotCar p head = true then raiseStation c .hotCar (raiseStation c .carTimeout (p.keeping []))
      else raiseStation c .carTimeout (p.keeping [])) = p.timedOut c (p.deadlineAlarms head) := by
    unfold Part.deadlineAlarms
    split
    · have both : p.asr.station ||| 0x01 ||| 0x02 = p.asr.station ||| 0x03 := by rw [BitVec.or_assoc]; rfl
      rw [← both]
      rfl
    · rfl
  rw [← alarmed]
  rfl

/-! ## The outcome in the push (R40, R51, R56) -/

/-- The context told an outcome of its SPOT. -/
def Context.told (r : Outcome) (x : Context) : Context :=
  match r with
  | .done => { x with spotAwaited := false, spotDone := true }
  | _ => { x with spotAwaited := false }

/-- The context armed, when the conditions of R40 hold at the place. -/
def Context.armedAt (pl : Place) (x : Context) : Context := if readyToArm pl x then x.arm else x

/-- The part with another context of the push. -/
def Part.withContext (p : Part) (y : Context) : Part := { p with psq := { p.psq with context := some y } }

section
variable {c : Configuration} {i : Nat} {p : Part} {pl : Place} {x : Context} {l : SwitchInput → Bool}

theorem takeOutcome_inert (h : ∀ x, p.psq.context = some x → x.spotAwaited = false) (r : Outcome) : takeOutcome c r p = p := by
  unfold takeOutcome
  split
  · rfl
  · next x hx => simp [h x hx]

/-- Outside PREPARE an outcome moves the two flags of the SPOT alone. -/
theorem takeOutcome_late (hx : p.psq.context = some x) (ha : x.spotAwaited = true) (hs : x.stage ≠ .prepare) (r : Outcome) :
    takeOutcome c r p = p.withContext (x.told r) := by
  have heard := modifyContext_eq hx fun x => { x with spotAwaited := false }
  simp only [takeOutcome, hx, ha, if_true, if_neg hs, heard]
  cases r with
  | refused => rfl
  | timeout => rfl
  | done => exact testArmed_inert fun y hy => by cases hy; exact .inr hs

/-- Arming stores the context and leaves the doors, both OFF, as they are. -/
theorem setContext_armed (h : p.Shows i pl (some x) l) (ready : readyToArm pl x = true) :
    setContext c i (some x.arm) p = p.withContext x.arm := by
  obtain ⟨hP, hC, -⟩ := (readyToArm_iff pl x).mp ready
  have stored : (p.withContext x.arm).Shows i pl (some x.arm) l := ⟨h.place, rfl, h.level⟩
  refine permitPass_inert stored fun side => Door.decide_away (.inr (.inl ?_))
  cases side <;> assumption

/-- In PREPARE a DONE sets spot-done, and arms a push that is ready. -/
theorem takeOutcome_done (h : p.Shows i pl (some x) l) (hi : placeOf c x.oven = some i) (ha : x.spotAwaited = true)
    (hs : x.stage = .prepare) : takeOutcome c .done p = p.withContext ((x.told .done).armedAt pl) := by
  let q := p.withContext (x.told .done)
  have shown : q.Shows i pl (some (x.told .done)) l := ⟨h.place, rfl, h.level⟩
  have heard : takeOutcome c .done p = testArmed c x.oven q := by
    have cleared := modifyContext_eq h.context fun x => { x with spotAwaited := false }
    simp only [takeOutcome, h.context, ha, if_true, cleared]
    rfl
  rw [heard, show x.oven = (x.told .done).oven from rfl, testArmed_eq shown hi, Context.armedAt]
  simp only [show (x.told .done).stage = .prepare from hs, true_and]
  split
  · next ready => exact setContext_armed shown ready
  · rfl

/-- In PREPARE a refusal or a timeout aborts. -/
theorem takeOutcome_aborts (h : p.Shows i pl (some x) l) (hi : placeOf c x.oven = some i) (ha : x.spotAwaited = true)
    (hs : x.stage = .prepare) (hpi : x.piRequested = false) {r : Outcome} {reason : AbortReason}
    (hr : (r = .refused ∧ reason = .carRefused) ∨ (r = .timeout ∧ reason = .carTimeout)) :
    Aborts c i pl { x with spotAwaited := false } reason (p.withContext { x with spotAwaited := false })
      (takeOutcome c r p) := by
  have cleared := modifyContext_eq h.context fun x => { x with spotAwaited := false }
  have aborted : takeOutcome c r p = abort c reason (p.withContext { x with spotAwaited := false }) := by
    rcases hr with ⟨rfl, rfl⟩ | ⟨rfl, rfl⟩ <;>
    · simp only [takeOutcome, h.context, ha, hs, if_true, cleared]
      rfl
  have shown : (p.withContext { x with spotAwaited := false }).Shows i pl (some { x with spotAwaited := false }) l :=
    ⟨h.place, rfl, h.level⟩
  rw [aborted]
  exact abort_aborts shown hi hpi reason

end

/-! ## An abort beside the orders (R106) -/

section
variable {c : Configuration} {i : Nat} {pl : Place} {x : Context} {r : AbortReason} {p q : Part}

/-- Orders that wait leave nothing behind in a withdrawal. -/
theorem withdrawn_of_waits {before after : Qou} (h : Claims.withdrawn before after) (hw : ∀ o ∈ before.orders, o.waits) :
    Claims.withdrawn { before with orders := [] } after := by
  obtain ⟨r, orders, rest⟩ := h
  refine ⟨r, orders.trans (congrArg (· ++ [r]) ?_), rest⟩
  cases ho : before.orders with
  | nil => rfl
  | cons head more =>
    obtain ⟨queued, still⟩ := hw head (ho ▸ List.mem_cons_self)
    simp [queued, still]

theorem withdrawn_alone {before after : Qou} (h : Claims.withdrawn { before with orders := [] } after) :
    ∃ r, after.orders = [r] := by
  obtain ⟨r, orders, -⟩ := h
  exact ⟨r, orders⟩

theorem aborts_of_waits (h : Claims.aborts c i pl x r p q) (hw : ∀ o ∈ p.qou.orders, o.waits) :
    Claims.aborts c i pl x r (p.keeping []) q := by
  obtain ⟨pl', place, alarm, drops, orders, pdn, frame, away, on⟩ := h
  have emptied : OrdersOnly (p.keeping []) p := .withQou (p.keeping []) p.qou
  exact ⟨pl', place, alarm, drops, withdrawn_of_waits orders hw, pdn, (PushOnly.of_ordersOnly emptied).trans frame, away, on⟩

/-- The RELEASE that an abort leaves alone is offered once more. -/
theorem aborts_offerHead (h : Claims.aborts c i pl x r (p.keeping []) q) :
    Claims.aborts c i pl x r (p.keeping []) (qouOfferHead q) := by
  obtain ⟨pl', place, alarm, drops, ⟨o, orders, id, kind, state, owed, deadline, next⟩, pdn, frame, away, on⟩ := h
  have only : OrdersOnly q (qouOfferHead q) := .offerHead q
  have psq : (qouOfferHead q).psq = q.psq := only.psq_eq
  have withdrawn : Claims.withdrawn (p.keeping []).qou (qouOfferHead q).qou := by
    rcases qouOfferHead_qou q with same | ⟨head, rest, here, offered⟩
    · rw [same]
      exact ⟨o, orders, id, kind, state, owed, deadline, next⟩
    · obtain ⟨rfl, rfl⟩ : o = head ∧ [] = rest := List.cons.inj (orders.symm.trans here)
      rw [offered]
      exact ⟨{ o with offered := true }, rfl, id, kind, state, owed, deadline, next⟩
  refine ⟨pl', by rw [only.places_eq]; exact place, alarm, drops, withdrawn, by rw [psq, pdn],
    frame.trans (.of_ordersOnly only), by rw [psq]; exact away, fun hP hC hm hn => ?_⟩
  obtain ⟨closing, ended⟩ := on hP hC hm hn
  exact ⟨by rw [psq]; exact closing, by rw [psq]; exact ended⟩

end

/-! ## The replies and the deadline of the head -/

/-- A reply of the car about the head, on the line. -/
def RepliesTo (c : Configuration) (head : Order) (verdict : Byte) (e : Instr) : Prop :=
  ∃ h id r, e = .qcr h id verdict r ∧ isFrom h c c.carStation = true ∧ head.id = id.toNat ∧ Claims.onTheLine head

section
variable {s : State} {c : Configuration} {head : Order} {rest : List Order} {e : Instr}

theorem reply_runs (hc : s.part.config = some c) (ho : s.part.qou.orders = head :: rest) {verdict : Byte} {v : Verdict}
    (hv : verdictOfCode verdict.toNat = some v) (he : RepliesTo c head verdict e) : s.Runs e (headReply c v head rest s.part) := by
  obtain ⟨h, id, r, rfl, hf, same, -⟩ := he
  refine (runs_of_whenLoaded hc (i := .qcr h id verdict r) rfl).congr ((if_pos hf).trans ?_)
  simp only [carReply, ho, hv, if_pos same]

theorem done_runs (hc : s.part.config = some c) (ho : s.part.qou.orders = head :: rest) (he : RepliesTo c head 3 e) :
    s.Runs e (headLeaves c head rest .done s.part) := by
  obtain ⟨-, -, -, -, -, -, line⟩ := id he
  exact (reply_runs hc ho (v := .done) rfl he).congr (if_pos ((inFlight_iff head).mpr line))

theorem refuse_runs (hc : s.part.config = some c) (ho : s.part.qou.orders = head :: rest) (he : RepliesTo c head 2 e) :
    s.Runs e (headLeaves c head (rest.filter fun o => decide (o.kind = .release)) .refused s.part) := by
  obtain ⟨-, -, -, -, -, -, line⟩ := id he
  simp only [← isRelease_iff]
  exact (reply_runs hc ho (v := .refuse) rfl he).congr (if_pos ((inFlight_iff head).mpr line))

/-- The head leaves with an outcome that moves the context alone, or nothing. -/
theorem headLeaves_offers {left : List Order} (hw : ∀ o ∈ left, o.waits) {r : Outcome} {p q : Part}
    (ht : (if head.owed = true then takeOutcome c r (p.keeping left) else p.keeping left) = q.keeping left) :
    headLeaves c head left r p = Claims.headOffered q left := by
  rw [← qouOfferHead_keeping hw, ← ht]
  rfl

theorem deadline_runs (hc : s.part.config = some c) (ho : s.part.qou.orders = head :: rest) (hd : head.deadline.active = true) :
    s.Runs .deadlineExpiry (deadlineExpires c head s.part) := by
  refine (runs_of_whenLoaded hc (i := .deadlineExpiry) rfl).congr ?_
  simp only [deadline, ho, hd, if_true]

end

/-! ## The two aborts by an outcome (R51, R56) -/

/-- The part from which an abort of the push by its SPOT is told: the list empty, the station alarms as the event leaves them. -/
def Part.outcomeBase (p : Part) (set : Byte) : Part :=
  { p.keeping [] with asr := { p.asr with station := set } }

section
variable {s : State} {c : Configuration} {i : Nat} {pl : Place} {x : Context}

/-- A SPOT out of time aborts a push in PREPARE. -/
theorem timeout_aborts (oven : s.HasOven c x.oven i pl) (hx : s.part.psq.context = some x) (ha : x.spotAwaited = true)
    (hs : x.stage = .prepare) (hpi : x.piRequested = false) (head : Order) :
    let q := takeOutcome c .timeout (s.part.timedOut c (s.part.deadlineAlarms head))
    Claims.aborts c i pl x .carTimeout (s.part.outcomeBase q.asr.station) q
      ∧ q.asr.station = s.part.deadlineAlarms head := by
  intro q
  obtain ⟨-, hi, -, -⟩ := id oven
  have shown : s.part.Shows i pl (some x) (s.part.level i) := hx ▸ oven.shows
  have aborts : Aborts c i pl { x with spotAwaited := false } .carTimeout _ q :=
    takeOutcome_aborts (p := s.part.timedOut c _) ⟨shown.place, shown.context, shown.level⟩ hi ha hs hpi (.inr ⟨rfl, rfl⟩)
  obtain ⟨-, -, -, -, -, -, frame, -⟩ := id aborts.claim
  have station : q.asr.station = s.part.deadlineAlarms head := frame.station_eq
  rw [station]
  exact ⟨aborts.before (.refl pl) ⟨rfl, fun _ _ => rfl, fun _ _ => rfl, rfl⟩ rfl rfl rfl rfl, rfl⟩

/-- A SPOT refused aborts a push in PREPARE. -/
theorem refusal_aborts (oven : s.HasOven c x.oven i pl) (hx : s.part.psq.context = some x) (ha : x.spotAwaited = true)
    (hs : x.stage = .prepare) (hpi : x.piRequested = false) {head : Order} (owed : head.owed = true) {left : List Order}
    (hw : ∀ o ∈ left, o.waits) :
    let q := headLeaves c head left .refused s.part
    Claims.aborts c i pl x .carRefused (s.part.outcomeBase q.asr.station) q ∧ q.asr.station = s.part.asr.station := by
  let removed := s.part.keeping left
  let told := takeOutcome c .refused removed
  have leaves : headLeaves c head left .refused s.part = qouOfferHead told := by
    rw [headLeaves, if_pos owed]
    rfl
  obtain ⟨-, hi, -, -⟩ := id oven
  have shown : s.part.Shows i pl (some x) (s.part.level i) := hx ▸ oven.shows
  have aborts : Claims.aborts c i pl x .carRefused removed told :=
    (takeOutcome_aborts (p := removed) ⟨shown.place, shown.context, shown.level⟩ hi ha hs hpi (.inl ⟨rfl, rfl⟩)).before
      (.refl pl) ⟨rfl, fun _ _ => rfl, fun _ _ => rfl, rfl⟩ rfl rfl rfl rfl
  have offered : Claims.aborts c i pl x .carRefused (s.part.keeping []) (qouOfferHead told) :=
    aborts_offerHead (aborts_of_waits (p := removed) aborts hw)
  obtain ⟨-, -, -, -, -, -, frame, -⟩ := id offered
  have station : (qouOfferHead told).asr.station = s.part.asr.station := frame.station_eq
  intro q
  rw [show q = qouOfferHead told from leaves, station]
  exact ⟨offered, rfl⟩

end

/-- Settles O52, by the head that leaves and the outcome it owes. -/
theorem outcomesReachThePush : Obligations.OutcomesReachThePush := by
  intro s c hc
  have expiry := runs_of_whenLoaded hc (i := .deadlineExpiry) rfl
  refine ⟨fun empty => expiry.ignores (by simp only [deadline, empty]), fun head rest ho => ?_⟩
  intro replies releases timedOut noneAwaited
  have done {e} (he : replies e 3) := done_runs hc ho he
  have refused {e} (he : replies e 2) := refuse_runs hc ho he
  have waiting (sound : s.part.qou.Sound) : (∀ o ∈ rest, o.waits) ∧ ∀ o ∈ releases, o.waits := by
    obtain ⟨-, tail, -⟩ := sound
    rw [ho] at tail
    exact ⟨tail, fun o h => tail o (List.mem_of_mem_filter h)⟩
  refine ⟨fun stopped => expiry.ignores (by simp [deadline, ho, stopped]), fun running quiet => ?_, fun sound quiet => ?_,
    fun x hx awaited owed sound => ?_⟩
  · refine ⟨_, deadlineAlarms_after s.part head, (deadline_runs hc ho running).congr ((deadlineExpires_eq c head s.part).trans ?_)⟩
    split
    · next owes =>
      exact takeOutcome_inert (p := s.part.timedOut c _) (quiet.resolve_left (by simp [owes])) .timeout
    · rfl
  · obtain ⟨behind, left⟩ := waiting sound
    have inert (r : Outcome) (orders : List Order) :
        (if head.owed = true then takeOutcome c r (s.part.keeping orders) else s.part.keeping orders) = s.part.keeping orders := by
      rw [takeOutcome_inert (p := s.part.keeping orders) quiet, ite_self]
    exact ⟨fun e he => (done he).congr (headLeaves_offers behind (inert ..)),
      fun e he => (refused he).congr (headLeaves_offers left (inert ..))⟩
  · intro withContext
    obtain ⟨behind, left⟩ := waiting sound
    refine ⟨fun late => ?_, fun i pl oven prepare => ?_⟩
    · have moves (r : Outcome) (orders : List Order) : (if head.owed = true then takeOutcome c r (s.part.keeping orders)
          else s.part.keeping orders) = (s.part.withContext (x.told r)).keeping orders := by
        rw [if_pos owed]
        exact takeOutcome_late (p := s.part.keeping orders) hx awaited late r
      refine ⟨fun e he => (done he).congr (headLeaves_offers behind (moves ..)),
        fun e he => (refused he).congr (headLeaves_offers left (moves ..)), fun running => ?_⟩
      refine ⟨_, deadlineAlarms_after s.part head, (deadline_runs hc ho running).congr ((deadlineExpires_eq c head s.part).trans ?_)⟩
      rw [if_pos owed]
      exact takeOutcome_late (p := s.part.timedOut c _) hx awaited late .timeout
    · intro arms heard
      obtain ⟨-, hi, -, -⟩ := id oven
      have shown : s.part.Shows i pl (some x) (s.part.level i) := hx ▸ oven.shows
      have becomes : (x.told .done).armedAt pl = heard := by
        have ready : readyToArm pl (x.told .done) = true ↔ arms := by
          rw [readyToArm_iff]
          simp [Context.told, arms]
        simp only [Context.armedAt, ready, heard]
        rfl
      refine ⟨fun e he => (done he).congr (headLeaves_offers behind ?_), fun notAsked e reason why => ?_⟩
      · rw [if_pos owed, ← becomes]
        exact takeOutcome_done (p := s.part.keeping rest) ⟨shown.place, shown.context, shown.level⟩ hi awaited prepare
      · rcases why with ⟨rfl, rfl, running⟩ | ⟨he, rfl⟩
        · obtain ⟨aborts, station⟩ := timeout_aborts oven hx awaited prepare notAsked head
          obtain ⟨-, -, -, -, orders, -⟩ := id aborts
          refine ⟨_, (deadline_runs hc ho running).congr ((deadlineExpires_eq c head s.part).trans (if_pos owed)), aborts,
            withdrawn_alone orders, fun _ => ?_, fun no => absurd rfl no⟩
          rw [station]
          exact deadlineAlarms_after s.part head
        · obtain ⟨aborts, station⟩ := refusal_aborts oven hx awaited prepare notAsked owed left
          obtain ⟨-, -, -, -, orders, -⟩ := id aborts
          have notDeadline : e ≠ .deadlineExpiry := by
            obtain ⟨h, id, r, rfl, -⟩ := he
            exact fun k => nomatch k
          exact ⟨_, refused he, aborts, withdrawn_alone orders, fun k => absurd k notDeadline, fun _ => station⟩

end Sys2Proof.Machine

/-! SUPPORT. The promise about the doors on its way through a command: each door agrees with its switches (R59), and an active
permit line has every condition of R63, but at the places whose decision is still to be taken (R64). -/

namespace Sys2Proof.Machine

open Sys2Proof

/-! ## What the promise is about -/

/-- What the promise about the doors reads of a place. -/
structure PlaceDoors where
  number : Nat
  doorP : Door
  doorC : Door
  mode : OfftakeMode
  sub : Option SubState
  pressure : Option Int

def Place.doors (pl : Place) : PlaceDoors :=
  { number := pl.oven.number, doorP := pl.doorP, doorC := pl.doorC
    mode := pl.offtake.mode, sub := pl.offtake.sub, pressure := pl.offtake.pressure }

/-- What the promise about the doors reads of a part: the push by its oven and stage, the lines a door's state stands for. -/
structure DoorView where
  config : Option Configuration
  push : Option (Nat × Stage)
  present : Nat → Side → Bool
  latched : Nat → Side → Bool
  places : List PlaceDoors

def Part.doorView (p : Part) : DoorView :=
  { config := p.config
    push := p.psq.context.map fun x => (x.oven, x.stage)
    present := fun j side => p.level j (.present side)
    latched := fun j side => p.level j (.latched side)
    places := p.places.map Place.doors }

theorem Place.door_of_doors {pl pl' : Place} (h : pl'.doors = pl.doors) (side : Side) : pl'.door side = pl.door side := by
  cases side
  · exact congrArg PlaceDoors.doorP h
  · exact congrArg PlaceDoors.doorC h

theorem Place.ready_of_doors {pl pl' : Place} {x y : Option Context} (h : pl'.doors = pl.doors)
    (hx : y.map (fun x => (x.oven, x.stage)) = x.map fun x => (x.oven, x.stage)) (c : Configuration) :
    pl'.ready c y = pl.ready c x := by
  simp only [Place.doors, PlaceDoors.mk.injEq] at h
  obtain ⟨number, -, -, mode, sub, pressure⟩ := h
  cases x <;> cases y <;> simp_all [Place.ready]

/-! ## The promise -/

/-- Each door of a place agrees with its levels. -/
def Place.DoorsAgree (l : SwitchInput → Bool) (pl : Place) : Prop :=
  ∀ side, (pl.door side).Agrees (l (.present side)) (l (.latched side))

/-- An active permit line of a place has every condition of R63. -/
def Place.PermitsStand (c : Configuration) (x : Option Context) (pl : Place) : Prop :=
  ∀ side, (pl.door side).permit = true → pl.ready c x = true

/-- The promise about the doors of a part loaded with `c`, the permit decision of the places in `due` still to be taken. -/
structure Part.DoorsHold (c : Configuration) (due : Set Nat) (p : Part) : Prop where
  config : p.config = some c
  number : ∀ (j : Nat) (pl : Place), p.places[j]? = some pl → pl.oven.number = c.firstOven + j
  agree : ∀ (j : Nat) (pl : Place), p.places[j]? = some pl → pl.DoorsAgree (p.level j)
  permit : ∀ (j : Nat) (pl : Place), j ∉ due → p.places[j]? = some pl → pl.PermitsStand c p.psq.context

namespace Part.DoorsHold

variable {c : Configuration} {due : Set Nat} {p q : Part} {i : Nat}

theorem mono (h : p.DoorsHold c due) {more : Set Nat} (hm : due ⊆ more) : p.DoorsHold c more :=
  ⟨h.config, h.number, h.agree, fun j pl hj => h.permit j pl fun k => hj (hm k)⟩

theorem of_view_eq (h : p.DoorsHold c due) (hv : q.doorView = p.doorView) : q.DoorsHold c due := by
  simp only [Part.doorView, DoorView.mk.injEq] at hv
  obtain ⟨config, push, present, latched, places⟩ := hv
  have before (j : Nat) (pl' : Place) (hj : q.places[j]? = some pl') :
      ∃ pl, p.places[j]? = some pl ∧ pl'.doors = pl.doors := by
    have := congrArg (·[j]?) places
    simp only [List.getElem?_map, hj, Option.map_some] at this
    obtain ⟨pl, hpl, e⟩ := Option.map_eq_some_iff.mp this.symm
    exact ⟨pl, hpl, e.symm⟩
  refine ⟨config.trans h.config, fun j pl' hj => ?_, fun j pl' hj side => ?_, fun j pl' hd hj side => ?_⟩
  all_goals obtain ⟨pl, hpl, e⟩ := before j pl' hj
  · exact (congrArg PlaceDoors.number e).trans (h.number j pl hpl)
  · have := h.agree j pl hpl side
    rw [Place.door_of_doors e side, congrFun (congrFun present j) side, congrFun (congrFun latched j) side]
    exact this
  · rw [Place.door_of_doors e side, Place.ready_of_doors e push]
    exact h.permit j pl hd hpl side

/-- A change at one place, and of the levels there. -/
theorem of_place (h : p.DoorsHold c due) (config : q.config = p.config) (context : q.psq.context = p.psq.context)
    (others : ∀ j, j ≠ i → q.places[j]? = p.places[j]?) (levels : ∀ j, j ≠ i → ∀ input, q.level j input = p.level j input)
    (place : ∀ pl', q.places[i]? = some pl' → pl'.oven.number = c.firstOven + i ∧ pl'.DoorsAgree (q.level i)
      ∧ (i ∉ due → pl'.PermitsStand c p.psq.context)) : q.DoorsHold c due := by
  refine ⟨config.trans h.config, fun j pl hj => ?_, fun j pl hj => ?_, fun j pl hd hj => ?_⟩
  all_goals rcases eq_or_ne j i with rfl | hne
  · exact (place pl hj).1
  · exact h.number j pl (others j hne ▸ hj)
  · exact (place pl hj).2.1
  · rw [funext (levels j hne)]
    exact h.agree j pl (others j hne ▸ hj)
  · rw [context]
    exact (place pl hj).2.2 hd
  · rw [context]
    exact h.permit j pl hd (others j hne ▸ hj)

end Part.DoorsHold

/-! ## What keeps it -/

/-- Whatever decisions are due, those of `due` among them, the promise is kept from `p` to `q`. -/
def Part.KeepsDoors (c : Configuration) (due : Set Nat) (p q : Part) : Prop :=
  ∀ all, due ⊆ all → p.DoorsHold c all → q.DoorsHold c all

namespace Part.KeepsDoors

variable {c : Configuration} {due : Set Nat} {p q r : Part} {i : Nat}

theorem refl (p : Part) : p.KeepsDoors c due p := fun _ _ h => h

theorem trans (h : p.KeepsDoors c due q) (k : q.KeepsDoors c due r) : p.KeepsDoors c due r :=
  fun all hd hp => k all hd (h all hd hp)

theorem of_view_eq (h : q.doorView = p.doorView) : p.KeepsDoors c due q := fun _ _ hp => hp.of_view_eq h

/-- After a change the promise does not see. -/
theorem after (k : q.KeepsDoors c due r) (h : q.doorView = p.doorView) : p.KeepsDoors c due r := (of_view_eq h).trans k

theorem ite {b : Prop} [Decidable b] (h : b → p.KeepsDoors c due q) : p.KeepsDoors c due (if b then q else p) := by
  split
  · next hb => exact h hb
  · exact .refl p

theorem ite_both {b : Prop} [Decidable b] (h : p.KeepsDoors c due q) (k : p.KeepsDoors c due r) :
    p.KeepsDoors c due (if b then q else r) := by
  split
  · exact h
  · exact k

theorem withLocal {n : Nat} {f : Nat → Part} (h : ∀ i, placeOf c n = some i → p.KeepsDoors c due (f i)) :
    p.KeepsDoors c due (withLocal c n p f) := by
  unfold Machine.withLocal
  split
  · exact .refl p
  · next i hi => exact h i hi

theorem foldl {α : Type} {f : Part → α → Part} (h : ∀ (p : Part) a, p.KeepsDoors c due (f p a)) (l : List α) (p : Part) :
    p.KeepsDoors c due (l.foldl f p) := by
  induction l generalizing p with
  | nil => exact .refl p
  | cons a l ih => exact (h p a).trans (ih _)

/-- A change of one oven that keeps what the promise says of its place. -/
theorem of_ovenOnly (h : OvenOnly i p q)
    (place : ∀ pl, p.places[i]? = some pl → pl.DoorsAgree (p.level i) → ∃ pl', q.places[i]? = some pl'
      ∧ pl'.DoorsAgree (p.level i)
      ∧ (i ∉ due → pl.PermitsStand c p.psq.context → pl'.PermitsStand c p.psq.context)) :
    p.KeepsDoors c due q := fun all hd hp =>
  hp.of_place h.config_eq (by rw [h.psq_eq]) h.places (fun j _ => h.level_eq j) fun pl' hpl' => by
    obtain ⟨pl, hpl⟩ : ∃ pl, p.places[i]? = some pl := by
      cases hpl : p.places[i]? with
      | none => rw [h.get_none hpl] at hpl'; cases hpl'
      | some pl => exact ⟨pl, rfl⟩
    obtain ⟨pl'', hpl'', agree, permit⟩ := place pl hpl (hp.agree i pl hpl)
    rw [hpl'] at hpl''
    cases hpl''
    have number := h.number
    rw [numberAt_some hpl, numberAt_some hpl'] at number
    refine ⟨(Option.some.inj number).trans (hp.number i pl hpl), ?_, fun hi => permit (fun k => hi (hd k)) (hp.permit i pl hi hpl)⟩
    rw [funext (h.level_eq i)]
    exact agree

end Part.KeepsDoors

end Sys2Proof.Machine

/-! SUPPORT. The operations of one oven and the promise about the doors: the changes it does not see, the permit decision, and the
changes that a decision follows (R59 to R65). -/

namespace Sys2Proof.Machine

open Sys2Proof

/-! ## Changes the promise does not see -/

theorem OvenOnly.doorView_eq {i : Nat} {p q : Part} (h : OvenOnly i p q)
    (place : ∀ pl, p.places[i]? = some pl → ∃ pl', q.places[i]? = some pl' ∧ pl'.doors = pl.doors) :
    q.doorView = p.doorView := by
  have places : q.places.map Place.doors = p.places.map Place.doors := by
    refine List.ext_getElem? fun j => ?_
    rw [List.getElem?_map, List.getElem?_map]
    rcases eq_or_ne j i with rfl | hne
    · cases hpl : p.places[j]? with
      | none => rw [h.get_none hpl]
      | some pl =>
        obtain ⟨pl', hpl', e⟩ := place pl hpl
        rw [hpl', Option.map_some, Option.map_some, e]
    · rw [h.places j hne]
  simp only [Part.doorView, h.config_eq, h.psq_eq, h.level_eq, places]

section
variable (c : Configuration) (i : Nat) (p : Part)

@[simp] theorem doorView_offer (k : Kind) (sub : Subject) (b : List Byte) : (p.offer k sub b).doorView = p.doorView := rfl

@[simp] theorem doorView_offerOvs : (p.offerOvs i).doorView = p.doorView :=
  (OvenOnly.offerOvs i p).doorView_eq fun _ h => ⟨_, (Part.shows_self h).offerOvs.place, rfl⟩

@[simp] theorem doorView_hold (a : OvenAlarm) (on : Bool) : (holdOven c i a on p).doorView = p.doorView :=
  (OvenOnly.hold c i a on p).doorView_eq fun _ h => ⟨_, ((Part.shows_self h).hold c a on).place, rfl⟩

@[simp] theorem doorView_raise (a : OvenAlarm) : (raiseOven c i a p).doorView = p.doorView := doorView_hold c i p a true

@[simp] theorem doorView_remove (a : OvenAlarm) : (removeOven c i a p).doorView = p.doorView := doorView_hold c i p a false

@[simp] theorem doorView_setAlarms (set : Word16) : (setOvenAlarms c i set p).doorView = p.doorView :=
  (OvenOnly.setAlarms c i set p).doorView_eq fun _ h => ⟨_, ((Part.shows_self h).setAlarms c set).place, rfl⟩

@[simp] theorem doorView_evalOverdue : (evalOverdue c i p).doorView = p.doorView :=
  (OvenOnly.evalOverdue c i p).doorView_eq fun _ h => ⟨_, ((Part.shows_self h).evalOverdue c).place, rfl⟩

@[simp] theorem doorView_setHold (on : Bool) : (setHold i on p).doorView = p.doorView :=
  (OvenOnly.setHold i on p).doorView_eq fun _ h => ⟨_, ((Part.shows_self h).setHold on).place, rfl⟩

theorem doorView_modifyOven {f : Oven → Oven} (hf : ∀ o, (f o).number = o.number := by intro _; rfl) :
    (p.modifyOven i f).doorView = p.doorView :=
  (OvenOnly.modifyOven i p f hf).doorView_eq fun pl h =>
    ⟨_, ((Part.shows_self h).modifyOven f).place, by simp [Place.doors, hf]⟩

@[simp] theorem doorView_cancelOnPhase (o : Oven) : (cancelOnPhase i o p).doorView = p.doorView := by
  unfold cancelOnPhase
  split
  · exact (doorView_offer ..).trans (doorView_modifyOven i p)
  · rfl

theorem doorView_commitOfftake {pl : Place} (h : p.places[i]? = some pl) {o : Offtake} (hm : o.mode = pl.offtake.mode)
    (hs : o.sub = pl.offtake.sub) (hp : o.pressure = pl.offtake.pressure) :
    (commitOfftake i o p).doorView = p.doorView :=
  (OvenOnly.commitOfftake i o p).doorView_eq fun pl' h' => by
    rw [h] at h'
    cases h'
    exact ⟨_, ((Part.shows_self h).commitOfftake o).place, by simp [Place.doors, hm, hs, hp]⟩

theorem doorView_modifyContext {f : Context → Context} (hn : ∀ x, (f x).oven = x.oven := by intro _; rfl)
    (hs : ∀ x, (f x).stage = x.stage := by intro _; rfl) : (modifyContext f p).doorView = p.doorView := by
  have push : (p.psq.context.map f).map (fun x => (x.oven, x.stage)) = p.psq.context.map fun x => (x.oven, x.stage) := by
    rw [Option.map_map]
    congr 1
    funext x
    simp [hn, hs]
  simp only [Part.doorView, modifyContext_psq, push]
  rfl

end

theorem OrdersOnly.doorView_eq {p q : Part} (h : OrdersOnly p q) : q.doorView = p.doorView := by
  simp only [Part.doorView, h.config_eq, h.psq_eq, h.places_eq, Part.level, h.fls_eq]

/-! ## The permit decision (R63 to R65) -/

theorem Door.Agrees.decide {d : Door} {present latched : Bool} (h : d.Agrees present latched) (c : Configuration)
    (ready leak : Bool) : (d.decide c ready leak).Agrees present latched := by
  obtain ⟨permit, hp, hl, -⟩ := id h
  unfold Door.decide
  split
  · split
    · next on =>
      rcases (isLatched_iff _).mp on with e | e
      all_goals
        rw [e] at hp hl
        simp [Door.Agrees, Door.enterReleased, Door.stopTimers, Timer.active, hp, hl, DoorState.presentLevel,
          DoorState.latchedLevel]
    · exact h
  · split
    · next e =>
      rw [e] at hp hl
      cases leak <;> cases hw : d.resealWanted <;>
        simp [Door.Agrees, Door.enterSealed, Door.stopTimers, Timer.active, hp, hl, hw, DoorState.presentLevel,
          DoorState.latchedLevel]
    · exact h

theorem Place.permits_doorsAgree {l : SwitchInput → Bool} {pl : Place} (h : pl.DoorsAgree l) (c : Configuration)
    (x : Option Context) : (pl.permits c x l).DoorsAgree l := fun side => by
  rw [Place.permits_door]
  exact (h side).decide c _ _

theorem Place.permits_permitsStand {l : SwitchInput → Bool} {pl : Place} (h : pl.DoorsAgree l) (c : Configuration)
    (x : Option Context) : (pl.permits c x l).PermitsStand c x := fun side on => by
  rw [Place.ready_congr c x (Place.permits_number c x l pl) (Place.permits_offtake c x l pl)]
  obtain ⟨permit, -⟩ := Place.permits_doorsAgree h c x side
  have released := permit.mp on
  by_contra notReady
  rw [Place.permits_door, Bool.eq_false_iff.mpr notReady] at released
  exact Door.decide_not_released c _ _ released

/-- Once its decision is taken, a place is due no longer. -/
theorem Part.DoorsHold.decided {c : Configuration} {due : Set Nat} {i : Nat} {p : Part} (h : p.DoorsHold c (insert i due)) :
    (permitPass c i p).DoorsHold c due := by
  have frame := OvenOnly.permitPass c i p
  have context : (permitPass c i p).psq.context = p.psq.context := by rw [frame.psq_eq]
  have kept : (permitPass c i p).DoorsHold c (insert i due) :=
    Part.KeepsDoors.of_ovenOnly (due := {i}) frame (fun pl hpl agree => ⟨_, ((Part.shows_self hpl).permitPass c).place,
      Place.permits_doorsAgree agree c _, fun out => absurd rfl out⟩) _ (by simp) h
  refine ⟨kept.config, kept.number, kept.agree, fun j pl' hj hpl' => ?_⟩
  rcases eq_or_ne j i with rfl | hne
  · cases hpl : p.places[j]? with
    | none => rw [frame.get_none hpl] at hpl'; cases hpl'
    | some pl =>
      rw [((Part.shows_self hpl).permitPass c).place] at hpl'
      cases hpl'
      rw [context]
      exact Place.permits_permitsStand (h.agree j pl hpl) c _
  · exact kept.permit j pl' (by simp [hne, hj]) hpl'

namespace Part.KeepsDoors

variable {c : Configuration} {due : Set Nat} {p q : Part} {i : Nat}

/-- A change after which the decision of its place is taken. -/
theorem decided (h : p.KeepsDoors c {i} q) : p.KeepsDoors c due (permitPass c i q) := fun all _ hp =>
  (h (insert i all) (by simp) (hp.mono (Set.subset_insert i all))).decided

theorem permitPass (c : Configuration) (i : Nat) (p : Part) : p.KeepsDoors c due (permitPass c i p) := decided (.refl p)

/-- Another offtake record, the decision of its place due. -/
theorem commitOfftake (c : Configuration) (i : Nat) (o : Offtake) (p : Part) : p.KeepsDoors c {i} (commitOfftake i o p) :=
  .of_ovenOnly (.commitOfftake i o p) fun pl h agree => ⟨_, ((Part.shows_self h).commitOfftake o).place,
    fun side => by rw [Place.withOfftake_door]; exact agree side, fun out => absurd rfl out⟩

theorem settle (c : Configuration) (i : Nat) (o : Offtake) (p : Part) : p.KeepsDoors c due (settleOfftake c i o p) :=
  decided (.commitOfftake c i o p)

/-- A door record that agrees with the switches, its permit line active only by the conditions of R63. -/
theorem commitDoor {side : Side} {d : Door} (h : ∀ pl, p.places[i]? = some pl → pl.DoorsAgree (p.level i) →
      d.Agrees (p.level i (.present side)) (p.level i (.latched side))
        ∧ (pl.PermitsStand c p.psq.context → d.permit = true → pl.ready c p.psq.context = true)) :
    p.KeepsDoors c due (commitDoor c i side d p) :=
  .of_ovenOnly (.commitDoor c i side d p) fun pl hpl agree => by
    obtain ⟨agrees, permits⟩ := h pl hpl agree
    refine ⟨_, ((Part.shows_self hpl).commitDoor c side d).place, fun other => ?_, fun _ stand other => ?_⟩
    · rcases eq_or_ne other side with rfl | hne
      · rw [Place.doorStored_door]
        exact agrees
      · rw [Place.doorStored_door_other pl d hne]
        exact agree other
    · rw [Place.ready_congr c _ (by simp) (Place.doorStored_offtake pl side d)]
      rcases eq_or_ne other side with rfl | hne
      · rw [Place.doorStored_door]
        exact permits stand
      · rw [Place.doorStored_door_other pl d hne]
        exact stand other

/-! ## Phases and holds -/

theorem ocuPhaseChange (c : Configuration) (i : Nat) (old new : Phase) (p : Part) :
    p.KeepsDoors c due (ocuPhaseChange c i old new p) := by
  unfold Machine.ocuPhaseChange
  split
  · exact .refl p
  · exact settle c i _ p

theorem setPhase (c : Configuration) (i : Nat) (new : Phase) (p : Part) : p.KeepsDoors c due (setPhase c i new p) := by
  unfold Machine.setPhase
  split
  · exact .refl p
  · next pl _ =>
    have changed : (Machine.cancelOnPhase i pl.oven (Machine.evalOverdue c i
        ((p.modifyOven i fun o => o.withPhase new).offerOvs i))).doorView = p.doorView := by
      simp only [doorView_cancelOnPhase, doorView_evalOverdue, doorView_offerOvs]
      exact doorView_modifyOven i p
    split
    · exact .refl p
    · exact (ocuPhaseChange c i _ new _).after changed

theorem setByAge (c : Configuration) (i : Nat) (p : Part) : p.KeepsDoors c due (setByAge c i p) := by
  unfold Machine.setByAge
  split
  · exact .refl p
  · exact setPhase c i _ p

theorem loseOven (c : Configuration) (i : Nat) (p : Part) : p.KeepsDoors c due (loseOven c i p) :=
  (setPhase c i .unknown p).trans (.of_view_eq (doorView_raise ..))

end Part.KeepsDoors

end Sys2Proof.Machine

/-! SUPPORT. The push, the reports and the door changes told keep the promise about the doors (R40 to R56, R64). -/

namespace Sys2Proof.Machine

open Sys2Proof

/-! ## A context replaced (R64) -/

/-- What the context `x` makes ready, `y` does, but for the oven at place `i`. -/
def ReadyElsewhere (c : Configuration) (i : Nat) (x y : Option Context) : Prop :=
  ∀ pl : Place, pl.oven.number ≠ c.firstOven + i → pl.ready c x = true → pl.ready c y = true

theorem ReadyElsewhere.of_noPermit {c : Configuration} {i : Nat} {x y : Option Context} (h : givesNoPermit x) :
    ReadyElsewhere c i x y := fun pl _ ready => by
  rw [h.not_ready] at ready
  cases ready

/-- A context makes only its own oven ready. -/
theorem ReadyElsewhere.of_placeOf {c : Configuration} {i : Nat} {x : Context} {y : Option Context}
    (h : placeOf c x.oven = some i) : ReadyElsewhere c i (some x) y := fun pl hne ready => by
  rw [Place.not_ready_of_no_push fun z hz e => hne ?_] at ready
  · cases ready
  · cases hz
    rw [← e, (placeOf_eq h).1]

/-- PREPARE and ARMED make the same oven ready (R63). -/
theorem ReadyElsewhere.of_open {c : Configuration} {i : Nat} {x y : Context} (hn : y.oven = x.oven)
    (hs : y.stage = .prepare ∨ y.stage = .armed) : ReadyElsewhere c i (some x) (some y) := fun pl _ ready => by
  rcases hs with hs | hs <;> simp_all [Place.ready]

namespace Part.KeepsDoors

variable {c : Configuration} {due : Set Nat} {p : Part} {i : Nat}

theorem withContext {y : Option Context} (h : ReadyElsewhere c i p.psq.context y) :
    p.KeepsDoors c {i} { p with psq := { p.psq with context := y } } := fun all hi hp => by
  refine ⟨hp.config, hp.number, hp.agree, fun j pl hj hpl side on => ?_⟩
  refine h pl (fun e => hj ?_) (hp.permit j pl hj hpl side on)
  have : j = i := Nat.add_left_cancel ((hp.number j pl hpl).symm.trans e)
  exact this ▸ hi rfl

theorem setContext {y : Option Context} (h : ReadyElsewhere c i p.psq.context y) :
    p.KeepsDoors c due (setContext c i y p) := decided (.withContext h)

end Part.KeepsDoors

section
variable {c : Configuration} {due : Set Nat} (i : Nat) (p : Part)

/-! ## Arming, ISOLATE and PI (R40, R55) -/

theorem testArmed_keepsDoors (n : Nat) : p.KeepsDoors c due (testArmed c n p) := by
  unfold testArmed
  split
  · exact .refl p
  · next x hx =>
    refine .withLocal fun i _ => ?_
    split
    · exact .refl p
    · refine .ite fun _ => .setContext ?_
      rw [hx]
      exact .of_open rfl (.inr rfl)

theorem askIsolate_keepsDoors : p.KeepsDoors c due (askIsolate c i p) := by
  unfold askIsolate
  split
  · exact .refl p
  · next pl _ =>
    have settled := Part.KeepsDoors.settle (due := due) c i (pl.offtake.callMode c (p.offtakeLevels i) .isolate) p
    exact .ite_both (settled.trans (testArmed_keepsDoors _ _)) settled

theorem endReturn_keepsDoors (h : givesNoPermit p.psq.context) : p.KeepsDoors c due (endReturn c i p) := by
  have held : givesNoPermit (setHold i true p).psq.context := by rwa [(OvenOnly.setHold i true p).psq_eq]
  exact ((Part.KeepsDoors.of_view_eq (doorView_setHold i p true)).trans (.setContext (.of_noPermit held))).trans
    (.setByAge c i _)

theorem askPi_keepsDoors (h : givesNoPermit p.psq.context) : p.KeepsDoors c due (askPi c i p) := by
  unfold askPi
  split
  · exact .refl p
  · next pl _ =>
    have asked : (modifyContext (fun x => { x with piRequested := true }) p).doorView = p.doorView :=
      doorView_modifyContext p
    have settled := (Part.KeepsDoors.settle (due := due) c i (pl.offtake.callMode c (p.offtakeLevels i) .control) _).after asked
    refine .ite_both (settled.trans (endReturn_keepsDoors i _ fun y hy => ?_)) settled
    rw [(OvenOnly.settle c i _ _).psq_eq, modifyContext_psq] at hy
    obtain ⟨x, hx, rfl⟩ := Option.map_eq_some_iff.mp hy
    exact h x hx

theorem returnDoorsTest_keepsDoors : p.KeepsDoors c due (returnDoorsTest c i p) := by
  unfold returnDoorsTest
  split
  · next x pl hx _ =>
    refine .ite fun ⟨stage, _, _⟩ => askPi_keepsDoors i p fun y hy => ?_
    rw [hx] at hy
    cases hy
    simp [stage]
  · exact .refl p

/-! ## Aborts (R51, R52) -/

theorem abort_keepsDoors (r : AbortReason) : p.KeepsDoors c due (abort c r p) := by
  unfold abort
  split
  · exact .refl p
  · next x hx =>
    refine .withLocal fun i hi => ?_
    have returning : p.KeepsDoors c {i} (modifyContext (·.aborted r) p) := .withContext (hx ▸ .of_placeOf hi)
    have withdrawn (q : Part) : (qouWithdraw (raiseOven c i .pushAborted q)).doorView = q.doorView :=
      (OrdersOnly.withdraw _).doorView_eq.trans (doorView_raise c i q .pushAborted)
    exact (Part.KeepsDoors.decided (returning.trans (.of_view_eq (withdrawn _)))).trans (returnDoorsTest_keepsDoors i _)

theorem abortIfOpen_keepsDoors (n : Nat) (r : AbortReason) : p.KeepsDoors c due (abortIfOpen c n r p) := by
  unfold abortIfOpen
  split
  · exact .refl p
  · exact .ite fun _ => abort_keepsDoors p r

theorem panelAbort_keepsDoors (n : Nat) : p.KeepsDoors c due (panelAbort c n p) := by
  unfold panelAbort
  split
  · exact .refl p
  · exact .ite fun _ => abortIfOpen_keepsDoors p _ _

/-! ## Ram start and ram home (R44 to R50) -/

theorem closingDoorsTest_keepsDoors : p.KeepsDoors c due (closingDoorsTest c i p) := by
  unfold closingDoorsTest
  split
  · next x pl hx _ =>
    refine .ite fun ⟨stage, _⟩ => (Part.KeepsDoors.setPhase c i .empty p).trans (.setContext (.of_noPermit fun y hy => ?_))
    rw [(OvenOnly.setPhase c i .empty p).psq_eq, hx] at hy
    cases hy
    simp [stage]
  · exact .refl p

theorem ramInContext_keepsDoors {x : Context} (hx : p.psq.context = some x) (hi : placeOf c x.oven = some i) :
    p.KeepsDoors c due (ramInContext c i x p) := by
  have started (u : Bool) : p.KeepsDoors c due (startRam c i x u p) := .setContext (hx ▸ .of_placeOf hi)
  have unpermitted := (started true).trans (.of_view_eq (doorView_raise c i _ .pushUnpermitted))
  unfold ramInContext
  split
  · exact .ite_both (started false) unpermitted
  · exact unpermitted
  · exact unpermitted.trans (askIsolate_keepsDoors i _)
  · exact .refl p
  · exact .of_view_eq (doorView_raise ..)

/-- An oven enters PUSHING with a new context, where there was none. -/
theorem beginPush_keepsDoors (hx : p.psq.context = none) (x : Context) :
    p.KeepsDoors c due (setContext c i (some x) (setPhase c i .pushing p)) := by
  refine (Part.KeepsDoors.setPhase c i .pushing p).trans (.setContext (.of_noPermit ?_))
  rw [(OvenOnly.setPhase c i .pushing p).psq_eq, hx]
  exact givesNoPermit_none

theorem ramStarts_keepsDoors {n : Nat} (hi : placeOf c n = some i) : p.KeepsDoors c due (ramStarts c i n p) := by
  unfold ramStarts
  split
  · next hx =>
    have begun := (beginPush_keepsDoors (c := c) (due := due) i p hx (Context.unannounced n)).trans
      (.of_view_eq (doorView_raise c i _ .pushUnpermitted))
    exact .ite_both (begun.trans (askIsolate_keepsDoors i _)) (.loseOven c i p)
  · next x hx =>
    by_cases hn : x.oven = n
    · rw [if_pos hn]
      exact ramInContext_keepsDoors i p hx (hn ▸ hi)
    · rw [if_neg hn]
      exact .loseOven c i p

theorem offerPdn_doorView (e : PendingPdn) : (offerPdn e p).doorView = p.doorView := by
  unfold offerPdn
  split <;> rfl

theorem orderAtHome_doorView (kind : OrderKind) : (orderAtHome c kind p).doorView = p.doorView := by
  unfold orderAtHome
  split
  · exact (OrdersOnly.append kind p).doorView_eq
  · rfl

theorem ramHome_keepsDoors {x : Context} (hx : p.psq.context = some x) (hs : x.stage = .pushing) (stroke : Nat) :
    p.KeepsDoors c due (ramHome c i x stroke p) := by
  let done := offerPdn ⟨x.oven, stroke, x.unpermitted⟩ p
  let ordered := orderAtHome c .dump (orderAtHome c (.quench c.quenchTime) done)
  have view : ordered.doorView = p.doorView :=
    ((orderAtHome_doorView ..).trans (orderAtHome_doorView ..)).trans (offerPdn_doorView ..)
  have context : ordered.psq.context = some x := by
    rw [orderAtHome_psq, orderAtHome_psq, offerPdn_context, hx]
  have closing : ordered.KeepsDoors c due (setContext c i (some (x.home stroke)) ordered) := by
    refine .setContext (.of_noPermit fun y hy => ?_)
    rw [context] at hy
    cases hy
    simp [hs]
  exact (closing.after view).trans (closingDoorsTest_keepsDoors i _)

/-! ## Limits and push asks (R41 to R50, R55) -/

theorem prepareLimit_keepsDoors : p.KeepsDoors c due (prepareLimit c p) := by
  unfold prepareLimit
  split
  · exact .refl p
  · have marked : (modifyContext (fun x => { x with prepareLimit := .expired }) p).doorView = p.doorView :=
      doorView_modifyContext p
    exact .ite fun _ => .ite_both ((abort_keepsDoors _ _).after marked) (.of_view_eq marked)

theorem armedLimit_keepsDoors : p.KeepsDoors c due (armedLimit c p) := by
  unfold armedLimit
  split
  · exact .refl p
  · exact .ite fun _ => abort_keepsDoors p _

theorem rmhLimit_keepsDoors : p.KeepsDoors c due (rmhLimit c p) := by
  unfold rmhLimit
  split
  · exact .refl p
  · exact .ite fun _ => .withLocal fun i _ =>
      .of_view_eq ((doorView_raise ..).trans (doorView_modifyContext p))

theorem doorLimit_keepsDoors : p.KeepsDoors c due (doorLimit c p) := by
  unfold doorLimit
  split
  · exact .refl p
  · exact .ite fun _ => .withLocal fun i _ =>
      .of_view_eq ((doorView_raise ..).trans (doorView_modifyContext p))

theorem pushAsk_doorView (n : Nat) : (pushAsk c i n p).doorView = p.doorView := by
  have permit (t : Timer) (q : Part) : (modifyContext (fun x => { x with permit := t }) q).doorView = q.doorView :=
    doorView_modifyContext q
  unfold pushAsk
  split
  · rfl
  · split
    · unfold answerArmed
      split
      · exact permit .stopped _
      · split
        · exact permit _ _
        · rfl
    · rfl

/-! ## The round won and the SPOT's outcome (R39, R53, R56) -/

theorem orderSpot_keepsDoors (n : Nat) : p.KeepsDoors c due (orderSpot c n p) := by
  refine .ite_both (.of_view_eq ?_) (abort_keepsDoors p _)
  exact (doorView_modifyContext _).trans (OrdersOnly.append _ p).doorView_eq

theorem takeWin_keepsDoors (hx : p.psq.context = none) (n : Nat) : p.KeepsDoors c due (takeWin c n p) :=
  .withLocal fun i _ => .ite fun _ =>
    ((beginPush_keepsDoors i p hx _).trans (askIsolate_keepsDoors i _)).trans (orderSpot_keepsDoors _ n)

theorem takeOutcome_keepsDoors (r : Outcome) : p.KeepsDoors c due (takeOutcome c r p) := by
  unfold takeOutcome
  split
  · exact .refl p
  · next x _ =>
    have heard : (modifyContext (fun x => { x with spotAwaited := false }) p).doorView = p.doorView :=
      doorView_modifyContext p
    have failed (reason : AbortReason) := Part.KeepsDoors.ite_both (b := x.stage = .prepare)
      ((abort_keepsDoors (c := c) (due := due) _ reason).after heard) (.of_view_eq heard)
    refine .ite fun _ => ?_
    cases r with
    | done =>
      exact (testArmed_keepsDoors _ _).after ((doorView_modifyContext _).trans heard)
    | refused => exact failed .carRefused
    | timeout => exact failed .carTimeout

/-! ## Reports told (R14, R15, R40, R51, R55) -/

theorem chargeBegins_keepsDoors : p.KeepsDoors c due (chargeBegins c i p) := by
  unfold chargeBegins
  split
  · exact .refl p
  · have freed : (p.modifyOven i fun o => { o with inFlight := false }).doorView = p.doorView := doorView_modifyOven i p
    have charging := (Part.KeepsDoors.setPhase (due := due) c i .charging _).after freed
    have timed (q : Part) : (q.modifyOven i fun o => { o with chargeLimit := .running chargeLimitMs }).doorView = q.doorView :=
      doorView_modifyOven i q
    have begun := charging.trans (.of_view_eq (timed _))
    exact .ite fun _ => .ite_both (begun.trans (.of_view_eq rfl)) (begun.trans (.of_view_eq (doorView_modifyOven i _)))

/-- A charge start cancelled with its request for ISOLATE. -/
theorem chargeCancelled_keepsDoors (n : Nat) (r : ChrReason) : p.KeepsDoors c due (chargeCancelled c i n r p) :=
  (askIsolate_keepsDoors i _).after ((doorView_offer ..).trans (doorView_modifyOven i p))

theorem chargeFails_keepsDoors : p.KeepsDoors c due (chargeFails c i p) := by
  unfold chargeFails
  split
  · exact .refl p
  · exact .ite fun _ => chargeCancelled_keepsDoors i p _ .cap

theorem returnAnswered_keepsDoors (n : Nat) : p.KeepsDoors c due (returnAnswered c i n p) := by
  unfold returnAnswered
  split
  · exact .refl p
  · next x hx =>
    refine .ite fun ⟨_, stage, _⟩ => endReturn_keepsDoors i p fun y hy => ?_
    rw [hx] at hy
    cases hy
    simp [stage]

theorem tellReport_keepsDoors (n : Nat) (r : Report) : p.KeepsDoors c due (tellReport c i n r p) := by
  cases r with
  | aspirateReached => exact chargeBegins_keepsDoors i p
  | aspirateFailed => exact chargeFails_keepsDoors i p
  | isolateReached => exact testArmed_keepsDoors p n
  | isolateFailed => exact abortIfOpen_keepsDoors p n .isolateFail
  | piEntered => exact returnAnswered_keepsDoors i p n
  | returnFailed => exact returnAnswered_keepsDoors i p n

theorem tellOfftake_keepsDoors (new : Offtake) (alarm : Option OvenAlarm) :
    p.KeepsDoors c due (tellOfftake c i new alarm p) := by
  unfold tellOfftake
  split
  · exact .refl p
  · next pl _ =>
    have stored := Part.KeepsDoors.commitOfftake c i new p
    refine Part.KeepsDoors.decided ?_
    have told (q : Part) (h : p.KeepsDoors c {i} q) : p.KeepsDoors c {i}
        (match reportOf pl.offtake new with | none => q | some r => tellReport c i pl.oven.number r q) := by
      split
      · exact h
      · exact h.trans (tellReport_keepsDoors i q _ _)
    cases alarm with
    | none => exact told _ stored
    | some a => exact told _ (stored.trans (.of_view_eq (doorView_raise ..)))

/-! ## Door changes told (R16, R40 to R55) -/

theorem returnToPrepare_keepsDoors {x : Context} (hx : p.psq.context = some x) :
    p.KeepsDoors c due (returnToPrepare c i x p) := by
  have back : p.KeepsDoors c due
      (setContext c i (some { x with stage := .prepare, armedLimit := .stopped, permit := .stopped }) p) :=
    .setContext (hx ▸ .of_open rfl (.inl rfl))
  exact .ite_both (back.trans (abort_keepsDoors _ _)) back

theorem psqDoorChange_keepsDoors {x : Context} (hx : p.psq.context = some x) (old new : DoorState) :
    p.KeepsDoors c due (psqDoorChange c i old new x p) := by
  unfold psqDoorChange
  split
  · exact .ite_both (abort_keepsDoors p _) (testArmed_keepsDoors p _)
  · exact .ite_both (abort_keepsDoors p _) (.ite fun _ => returnToPrepare_keepsDoors i p hx)
  · exact .refl p
  · exact closingDoorsTest_keepsDoors i p
  · exact .ite_both ((askIsolate_keepsDoors i _).after (doorView_modifyContext p))
      (returnDoorsTest_keepsDoors i p)

theorem cancelOnDoor_keepsDoors (new : DoorState) : p.KeepsDoors c due (cancelOnDoor c i new p) := by
  unfold cancelOnDoor
  split
  · exact .refl p
  · exact .ite fun _ => chargeCancelled_keepsDoors i p _ .doors

theorem tellDoor_keepsDoors (old new : DoorState) : p.KeepsDoors c due (tellDoor c i old new p) := by
  have cancelled := cancelOnDoor_keepsDoors (c := c) (due := due) i p new
  unfold tellDoor
  split
  · exact .refl p
  · split
    · exact .refl p
    · dsimp only
      split
      · exact cancelled
      · next x hx => exact .ite_both (cancelled.trans (psqDoorChange_keepsDoors i _ hx old new)) cancelled

/-- Once a door's record is stored, the rest of its change keeps the promise. -/
theorem changeDoor_keepsDoors_after (side : Side) (d : Door) :
    (commitDoor c i side d p).KeepsDoors c due (changeDoor c i side d p) := by
  unfold changeDoor
  split
  · next h => simpa only [commitDoor, h] using Part.KeepsDoors.refl p
  · exact Part.KeepsDoors.trans (.foldl (fun q a => .of_view_eq (doorView_raise c i q a)) _ _) (tellDoor_keepsDoors i _ _ _)

end

end Sys2Proof.Machine

/-! SUPPORT. The switches and the timers of the doors keep the promise about them (R59 to R68, R121, R122). -/

namespace Sys2Proof.Machine

open Sys2Proof

/-! ## A level set (R121) -/

theorem PlaceInputs.get_set_other (y : PlaceInputs) (z : Input) {input other : SwitchInput} (h : other ≠ input) :
    (y.set input z).get other = y.get other := by
  unfold PlaceInputs.set PlaceInputs.get
  split <;> split <;> simp_all

theorem Part.withLevel_level_of_ne (p : Part) {i j : Nat} (input : SwitchInput) (v : Bool) {other : SwitchInput}
    (h : j ≠ i ∨ other ≠ input) : (p.withLevel i input v).level j other = p.level j other := by
  rcases eq_or_ne j i with rfl | hne
  · exact Part.withLevel_level_other p j v fun y z => PlaceInputs.get_set_other y z (h.resolve_left (absurd rfl))
  · simp only [Part.level, Part.withLevel, List.getElem?_modify_ne _ _ hne.symm]

theorem Part.withLevel_level_set {p : Part} {i : Nat} {x : PlaceInputs} (h : p.fls.inputs[i]? = some x) (input : SwitchInput)
    (v : Bool) : (p.withLevel i input v).level i input = v := by
  simp [Part.level, Part.withLevel, h, PlaceInputs.get_set_same]

/-- Levels that no door's state stands for are not seen. -/
theorem doorView_withLevel (p : Part) (i : Nat) {input : SwitchInput} (v : Bool)
    (h : ∀ side, input ≠ .present side ∧ input ≠ .latched side) : (p.withLevel i input v).doorView = p.doorView := by
  have present (j : Nat) (side : Side) : (p.withLevel i input v).level j (.present side) = p.level j (.present side) :=
    Part.withLevel_level_of_ne p input v (.inr (h side).1.symm)
  have latched (j : Nat) (side : Side) : (p.withLevel i input v).level j (.latched side) = p.level j (.latched side) :=
    Part.withLevel_level_of_ne p input v (.inr (h side).2.symm)
  simp only [Part.doorView, present, latched]
  rfl

/-! ## A door's record and its levels (R59) -/

theorem Door.switchedTo_agrees (c : Configuration) (leak : Bool) (d : Door) (ready : Prop) [Decidable ready]
    (present latched : Bool) : (d.switchedTo c leak (.ofLevels ready present latched)).Agrees present latched := by
  obtain ⟨hp, hl⟩ := DoorState.ofLevels_levels (ready := ready) (present := present) (latched := latched)
  generalize DoorState.ofLevels ready present latched = state at hp hl ⊢
  refine ⟨by simp [Door.switchedTo, Claims.doorEntered], hp.symm, hl.symm, fun on => ?_, nofun, nofun, fun on => ?_⟩
  · simp only [Door.switchedTo, Claims.doorEntered] at on ⊢
    split at on
    · next e => exact e.1
    · cases on
  · simp only [Door.switchedTo, Claims.doorEntered] at on ⊢
    split at on
    · next e => exact e
    · cases on

section
variable {c : Configuration} {ready leak v present latched : Bool} {d : Door}

/-- A present level that comes: the record agrees with it, and its permit line is active only by the conditions. -/
theorem Door.Agrees.presentChange (h : d.Agrees present latched) : (d.presentChange c ready leak v).Agrees v latched
    ∧ ((d.presentChange c ready leak v).permit = true → ready = true ∨ d.permit = true) := by
  obtain ⟨-, hp, hl, -⟩ := id h
  by_cases same : d.state.presentLevel = v
  · have kept : d.presentChange c ready leak v = d := by
      subst same
      cases hs : d.state <;> simp [Door.presentChange, hs, DoorState.presentLevel]
    rw [kept, ← same, ← hp]
    exact ⟨h, .inr⟩
  · rw [Door.presentChange_eq (Bool.eq_not.mpr same), hl]
    exact ⟨Door.switchedTo_agrees .., fun on => .inl (DoorState.ofLevels_released (of_decide_eq_true on))⟩

/-- So for a latched level. -/
theorem Door.Agrees.latchedChange (h : d.Agrees present latched) : (d.latchedChange c ready leak v).Agrees present v
    ∧ ((d.latchedChange c ready leak v).permit = true → ready = true ∨ d.permit = true) := by
  obtain ⟨-, hp, hl, -⟩ := id h
  by_cases same : d.state.latchedLevel = v
  · have kept : d.latchedChange c ready leak v = d := by
      subst same
      cases hs : d.state <;> simp [Door.latchedChange, hs, DoorState.latchedLevel]
    rw [kept, ← same, ← hl]
    exact ⟨h, .inr⟩
  · rw [Door.latchedChange_eq (Bool.eq_not.mpr same), hp]
    exact ⟨Door.switchedTo_agrees .., fun on => .inl (DoorState.ofLevels_released (of_decide_eq_true on))⟩

theorem Door.Agrees.leakChange (h : d.Agrees present latched) (c : Configuration) (v : Bool) :
    (d.leakChange c v).Agrees present latched ∧ (d.leakChange c v).permit = d.permit := by
  obtain ⟨permit, hp, hl, leak, clear, leaking, sealed⟩ := id h
  unfold Door.leakChange
  split
  · next hs => exact ⟨⟨permit, hp, hl, fun _ => hs, clear, leaking, sealed⟩, rfl⟩
  · next hs => exact ⟨⟨permit, hp, hl, leak, fun _ => hs, leaking, sealed⟩, rfl⟩
  · exact ⟨h, rfl⟩

theorem Door.Agrees.enterLeaking (h : d.Agrees present latched) (hs : d.state = .sealed) (c : Configuration) (leak : Bool) :
    (d.enterLeaking c leak).Agrees present latched := by
  obtain ⟨-, hp, hl, -⟩ := h
  rw [hs] at hp hl
  simp [Door.Agrees, Door.enterLeaking, Door.stopTimers, Timer.active, hp, hl, DoorState.presentLevel, DoorState.latchedLevel]

theorem Door.Agrees.enterSealed (h : d.Agrees present latched) (hs : d.state = .leaking) (c : Configuration) (leak : Bool) :
    (d.enterSealed c leak).Agrees present latched := by
  obtain ⟨-, hp, hl, -⟩ := h
  rw [hs] at hp hl
  cases hw : d.resealWanted <;>
    simp [Door.Agrees, Door.enterSealed, Door.stopTimers, Timer.active, hp, hl, hw, DoorState.presentLevel,
      DoorState.latchedLevel]

theorem Door.Agrees.leakingSpellEnds (h : d.Agrees present latched) :
    ({ d with leakingSpell := .stopped, resealWanted := true } : Door).Agrees present latched := by
  obtain ⟨permit, hp, hl, leak, clear, -, sealed⟩ := h
  exact ⟨permit, hp, hl, leak, clear, nofun, fun on => ⟨(sealed on).1, rfl⟩⟩

theorem Door.Agrees.sealedSpellEnds (h : d.Agrees present latched) :
    ({ d with sealedSpell := .stopped, resealWanted := false } : Door).Agrees present latched := by
  obtain ⟨permit, hp, hl, leak, clear, leaking, -⟩ := h
  exact ⟨permit, hp, hl, leak, clear, leaking, nofun⟩

end

/-! ## The timers of a door (R66 to R68) -/

section
variable {c : Configuration} {due : Set Nat} (i : Nat) (p : Part) (side : Side)

/-- A door record changed that agrees with the switches, its permit line inactive or as it was. -/
theorem changeDoor_keepsDoors {pl : Place} (hpl : p.places[i]? = some pl) {d : Door}
    (h : ∀ present latched, (pl.door side).Agrees present latched → d.Agrees present latched)
    (hp : d.permit = true → (pl.door side).permit = true) : p.KeepsDoors c due (changeDoor c i side d p) := by
  refine Part.KeepsDoors.trans (.commitDoor fun pl' hpl' agree => ?_) (changeDoor_keepsDoors_after i p side d)
  rw [hpl] at hpl'
  cases hpl'
  exact ⟨h _ _ (agree side), fun stand on => stand side (hp on)⟩

theorem leakExpires_keepsDoors : p.KeepsDoors c due (leakExpires c side i p) := by
  unfold leakExpires
  split
  · exact .refl p
  · next hpl => exact .ite fun ⟨_, hs⟩ => changeDoor_keepsDoors i p side hpl (fun _ _ h => h.enterLeaking hs c _) nofun

theorem clearExpires_keepsDoors : p.KeepsDoors c due (clearExpires c side i p) := by
  unfold clearExpires
  split
  · exact .refl p
  · next hpl => exact .ite fun ⟨_, hs⟩ => changeDoor_keepsDoors i p side hpl (fun _ _ h => h.enterSealed hs c _) nofun

theorem leakingSpellExpires_keepsDoors : p.KeepsDoors c due (leakingSpellExpires c side i p) := by
  unfold leakingSpellExpires
  split
  · exact .refl p
  · next hpl =>
    refine .ite fun _ => .commitDoor fun pl' hpl' agree => ?_
    rw [hpl] at hpl'
    cases hpl'
    exact ⟨(agree side).leakingSpellEnds, fun stand on => stand side on⟩

theorem sealedSpellExpires_keepsDoors : p.KeepsDoors c due (sealedSpellExpires c side i p) := by
  unfold sealedSpellExpires
  split
  · exact .refl p
  · next hpl =>
    refine .ite fun _ => .commitDoor fun pl' hpl' agree => ?_
    rw [hpl] at hpl'
    cases hpl'
    exact ⟨(agree side).sealedSpellEnds, fun stand on => stand side on⟩

end

/-! ## A level delivered (R122) -/

section
variable {c : Configuration} {due : Set Nat} {p : Part} {i : Nat} {x : PlaceInputs}

/-- A level set at a place without records. -/
theorem Part.DoorsHold.withLevel_of_absent (h : p.DoorsHold c due) (absent : p.places[i]? = none) (input : SwitchInput)
    (v : Bool) : (p.withLevel i input v).DoorsHold c due :=
  h.of_place rfl rfl (fun _ _ => rfl) (fun _ hj _ => Part.withLevel_level_of_ne p input v (.inl hj)) fun _ hpl =>
    absurd (absent.symm.trans hpl) nofun

/-- The level of a door's own line set, and its record changed to one that agrees. -/
theorem Part.DoorsHold.switched (h : p.DoorsHold c due) {pl : Place} (hpl : p.places[i]? = some pl) {side : Side}
    {input : SwitchInput} (hin : input = .present side ∨ input = .latched side) (v : Bool) {d : Door}
    (agrees : d.Agrees ((p.withLevel i input v).level i (.present side)) ((p.withLevel i input v).level i (.latched side)))
    (permits : i ∉ due → d.permit = true → pl.ready c p.psq.context = true) :
    (changeDoor c i side d (p.withLevel i input v)).DoorsHold c due := by
  let q := p.withLevel i input v
  have frame := OvenOnly.commitDoor c i side d q
  have stored := (Part.shows_self (p := q) hpl).commitDoor c side d
  refine changeDoor_keepsDoors_after (due := due) i q side d due subset_rfl ?_
  refine h.of_place (i := i) frame.config_eq (by rw [frame.psq_eq]; rfl) (fun j hj => frame.places j hj)
    (fun j hj other => ?_) fun pl' hpl' => ?_
  · rw [frame.level_eq]
    exact Part.withLevel_level_of_ne p input v (.inl hj)
  · rw [stored.place] at hpl'
    cases hpl'
    refine ⟨by simpa using h.number i pl hpl, fun other => ?_, fun out other => ?_⟩
    · rw [frame.level_eq, frame.level_eq]
      rcases eq_or_ne other side with rfl | hne
      · rw [Place.doorStored_door]
        exact agrees
      · have apart : ∀ line : Side → SwitchInput, line = .present ∨ line = .latched → line other ≠ input := by
          rintro _ (rfl | rfl) <;> rcases hin with rfl | rfl <;> simp [hne]
        rw [Place.doorStored_door_other pl d hne, Part.withLevel_level_of_ne p input v (.inr (apart _ (.inl rfl))),
          Part.withLevel_level_of_ne p input v (.inr (apart _ (.inr rfl)))]
        exact h.agree i pl hpl other
    · rw [Place.ready_congr c _ (by simp) (Place.doorStored_offtake pl side d)]
      rcases eq_or_ne other side with rfl | hne
      · rw [Place.doorStored_door]
        exact permits out
      · rw [Place.doorStored_door_other pl d hne]
        exact h.permit i pl out hpl other

/-- A level set and delivered to the owner of its input. -/
theorem Part.DoorsHold.delivered (h : p.DoorsHold c due) (hx : p.fls.inputs[i]? = some x) (input : SwitchInput) (v : Bool) :
    (deliver c i input v (p.withLevel i input v)).DoorsHold c due := by
  let q := p.withLevel i input v
  have unseen (k : ∀ side, input ≠ .present side ∧ input ≠ .latched side) : q.DoorsHold c due :=
    h.of_view_eq (doorView_withLevel p i v k)
  have offtake (which : Confirmation) (sound : q.DoorsHold c due) : (offtakeSwitch c i which v q).DoorsHold c due := by
    unfold offtakeSwitch
    split
    · exact sound
    · exact Part.KeepsDoors.ite_both (tellOfftake_keepsDoors i q _ _) (tellOfftake_keepsDoors i q _ _) due subset_rfl sound
  cases hpl : p.places[i]? with
  | none =>
    have absent : deliver c i input v q = q := by
      have none : q.places[i]? = none := hpl
      cases input <;> simp [deliver, confirmationOf, offtakeSwitch, doorSwitch, none]
    change (deliver c i input v q).DoorsHold c due
    rw [absent]
    exact h.withLevel_of_absent hpl input v
  | some pl =>
    have shown : q.Shows i pl p.psq.context (q.level i) := Part.shows_self hpl
    have agree := h.agree i pl hpl
    cases input with
    | valveClosed => exact offtake .valveClosed (unseen (by simp))
    | capOpen => exact offtake .capOpen (unseen (by simp))
    | capClosed => exact offtake .capClosed (unseen (by simp))
    | leak side =>
      have meaning : deliver c i (.leak side) v q = changeDoor c i side ((pl.door side).leakChange c v) q := by
        simp [deliver, confirmationOf, doorSwitch, shown.place]
      refine meaning ▸ changeDoor_keepsDoors (due := due) i q side hpl (fun _ _ k => (k.leakChange c v).1)
        (fun on => ?_) due subset_rfl (unseen (by simp))
      rwa [((agree side).leakChange c v).2] at on
    | present side =>
      let d := (pl.door side).presentChange c (pl.ready c p.psq.context) (q.level i (.leak side)) v
      have meaning : deliver c i (.present side) v q = changeDoor c i side d q := by
        simp [deliver, confirmationOf, doorSwitch, shown.place, shown.permitReady, d]
      obtain ⟨agrees, permit⟩ := (agree side).presentChange (c := c) (ready := pl.ready c p.psq.context)
        (leak := q.level i (.leak side)) (v := v)
      refine meaning ▸ h.switched hpl (.inl rfl) v ?_ fun out on => (permit on).elim id (h.permit i pl out hpl side)
      rwa [Part.withLevel_level_set hx, Part.withLevel_level_of_ne p (.present side) v (.inr (by simp))]
    | latched side =>
      let d := (pl.door side).latchedChange c (pl.ready c p.psq.context) (q.level i (.leak side)) v
      have meaning : deliver c i (.latched side) v q = changeDoor c i side d q := by
        simp [deliver, confirmationOf, doorSwitch, shown.place, shown.permitReady, d]
      obtain ⟨agrees, permit⟩ := (agree side).latchedChange (c := c) (ready := pl.ready c p.psq.context)
        (leak := q.level i (.leak side)) (v := v)
      refine meaning ▸ h.switched hpl (.inr rfl) v ?_ fun out on => (permit on).elim id (h.permit i pl out hpl side)
      rwa [Part.withLevel_level_set hx, Part.withLevel_level_of_ne p (.latched side) v (.inr (by simp))]

theorem PlaceInputs.get_mem_all (y : PlaceInputs) (input : SwitchInput) : y.get input ∈ y.all := by
  unfold PlaceInputs.get
  split <;> simp [PlaceInputs.all]

/-- The end of a stability timer, over inputs of which every local one has a level (R121, R122). -/
theorem debounce_doorsHold (h : p.DoorsHold c due) (inputs : p.InputsSound) (i : Nat) (input : SwitchInput) :
    (debounce i input p).DoorsHold c due := by
  unfold debounce
  split
  · exact h
  · next x hx =>
    split
    · next active =>
      obtain ⟨-, pins, levels⟩ := inputs
      obtain ⟨v, pin⟩ := Option.isSome_iff_exists.mp
        (pins x (List.mem_of_getElem? hx) _ (PlaceInputs.get_mem_all x input) active)
      have settled : (x.get input).settle = { pin := some v, level := some v, stability := .stopped } := by
        simp [Input.settle, pin]
      simp only [settled, h.config]
      cases level : (x.get input).level with
      | some old => exact h.delivered hx input v
      | none =>
        obtain ⟨-, length, known⟩ := levels c (by simp [h.config])
        have absent : p.places[i]? = none := by
          refine List.getElem?_eq_none (length ▸ Nat.le_of_not_lt fun hi => ?_)
          have := known x (List.mem_of_getElem? ((List.getElem?_take_of_lt hi).trans hx)) _ (PlaceInputs.get_mem_all x input)
          rw [level] at this
          cases this
        exact h.withLevel_of_absent absent input v
    · exact h

end

end Sys2Proof.Machine

/-! SUPPORT. What the commands do keeps the promise about the doors (R59 to R65), or is not seen by it. -/

namespace Sys2Proof.Machine

open Sys2Proof

section
variable {c : Configuration} {due : Set Nat} (i : Nat) (p : Part)

/-! ## The offtake's switches and timers, and the samples (R72 to R92) -/

theorem valveTimerExpires_keepsDoors : p.KeepsDoors c due (valveTimerExpires c i p) := by
  unfold valveTimerExpires
  split
  · exact .refl p
  · exact .ite fun _ => tellOfftake_keepsDoors i p _ _

theorem capTimerExpires_keepsDoors : p.KeepsDoors c due (capTimerExpires c i p) := by
  unfold capTimerExpires
  split
  · exact .refl p
  · exact .ite fun _ => tellOfftake_keepsDoors i p _ _

theorem highTimerExpires_keepsDoors : p.KeepsDoors c due (highTimerExpires c i p) := by
  unfold highTimerExpires
  split
  · exact .refl p
  · next hpl =>
    exact .ite fun _ => .of_view_eq ((doorView_raise ..).trans (doorView_commitOfftake i p hpl rfl rfl rfl))

theorem aspirateHoldExpires_keepsDoors : p.KeepsDoors c due (aspirateHoldExpires c i p) := by
  unfold aspirateHoldExpires
  split
  · exact .refl p
  · exact .ite fun _ => .settle c i _ p

theorem countSample_keepsDoors (x : Int) : p.KeepsDoors c {i} (countSample c i x p) := by
  unfold countSample
  split
  · exact .refl p
  · exact .ite_both ((Part.KeepsDoors.commitOfftake c i _ p).trans (.of_view_eq (doorView_remove ..))) (.commitOfftake c i _ p)

theorem timeSample_keepsDoors (x : Int) : p.KeepsDoors c {i} (timeSample c i x p) := by
  unfold timeSample
  split
  · exact .refl p
  · exact .ite_both ((Part.KeepsDoors.commitOfftake c i _ p).trans (.of_view_eq (doorView_remove ..))) (.commitOfftake c i _ p)

theorem controlSample_keepsDoors (x : Int) : p.KeepsDoors c {i} (controlSample c i x p) := by
  unfold controlSample
  split
  · exact .refl p
  · exact .ite_both (.commitOfftake c i _ p) (.ite fun _ => .commitOfftake c i _ p)

theorem validSample_keepsDoors (code : Nat) : p.KeepsDoors c due (validSample c i code p) :=
  .decided (((countSample_keepsDoors i p _).trans (timeSample_keepsDoors i _ _)).trans (controlSample_keepsDoors i _ _))

theorem invalidSample_keepsDoors : p.KeepsDoors c due (invalidSample c i p) := by
  refine .decided ?_
  unfold countInvalidSample
  split
  · exact .refl p
  · next pl _ =>
    have failed (o : Offtake) : p.KeepsDoors c {i} (raiseOven c i .pressureSensor (commitOfftake i o p)) :=
      (Part.KeepsDoors.commitOfftake c i o p).trans (.of_view_eq (doorView_raise ..))
    exact .ite_both (.ite_both ((failed _).trans (.commitOfftake c i _ _)) (failed _)) (.commitOfftake c i _ p)

theorem endScan_doorView (early : Bool) : (endScan c early p).doorView = p.doorView := by
  unfold endScan
  dsimp only
  split
  · split <;> rfl
  · split <;> rfl

theorem nextPlace_doorView : (nextPlace c p).doorView = p.doorView := by
  unfold nextPlace
  split
  · rfl
  · exact endScan_doorView ..

theorem failRest_keepsDoors : p.KeepsDoors c due (failRest c p) := .foldl (fun q i => invalidSample_keepsDoors i q) _ p

theorem transactionDone_keepsDoors (code : Nat) : p.KeepsDoors c due (transactionDone c code p) :=
  .ite fun _ => Part.KeepsDoors.trans (.ite_both (validSample_keepsDoors _ p code) (invalidSample_keepsDoors _ p))
    (.of_view_eq (nextPlace_doorView _))

theorem channelNack_keepsDoors : p.KeepsDoors c due (channelNack c p) :=
  .ite fun _ => (invalidSample_keepsDoors _ p).trans (.of_view_eq (nextPlace_doorView _))

/-- A scan that a failed transaction ends. -/
theorem scanFails_keepsDoors : p.KeepsDoors c due (endScan c true (failRest c p)).sendStop :=
  (failRest_keepsDoors p).trans (.of_view_eq (endScan_doorView _ true))

theorem addressFails_keepsDoors : p.KeepsDoors c due (addressFails c p) :=
  .ite fun _ => (scanFails_keepsDoors _).after rfl

theorem clockFails_keepsDoors : p.KeepsDoors c due (clockFails c p) := .ite fun _ => scanFails_keepsDoors p

theorem quarterSecond_doorView : (roundRobinOvs c (startScan c p)).doorView = p.doorView := by
  have scan : (startScan c p).doorView = p.doorView := by
    unfold startScan
    split <;> rfl
  exact (doorView_offerOvs (startScan c p).asr.roundRobin (startScan c p)).trans scan

/-! ## The oven commands (R2 to R18) -/

theorem minuteAt_keepsDoors : p.KeepsDoors c due (minuteAt c p i) := by
  unfold minuteAt
  split
  · exact .refl p
  · have aged : (p.modifyOven i fun o => { o with kept := o.kept.older }).doorView = p.doorView := doorView_modifyOven i p
    exact Part.KeepsDoors.trans (.ite_both ((Part.KeepsDoors.setPhase c i .ready _).after aged) (.of_view_eq aged))
      (.of_view_eq (doorView_evalOverdue ..))

theorem takeOut_keepsDoors : p.KeepsDoors c due (takeOut c i p) :=
  ((Part.KeepsDoors.setPhase c i .out p).trans (.of_view_eq (doorView_setHold ..))).trans (askIsolate_keepsDoors i _)

theorem panelOut_keepsDoors : p.KeepsDoors c due (panelOut c i p) := by
  unfold panelOut
  split
  · exact takeOut_keepsDoors i p
  · exact takeOut_keepsDoors i p
  · exact .refl p

theorem panelTarget_keepsDoors (value : Word16) : p.KeepsDoors c due (panelTarget value c i p) := by
  unfold panelTarget
  split
  · exact .refl p
  · have set : (p.modifyOven i fun o => { o with kept := { o.kept with target := clampTarget value.toNat } }).doorView
        = p.doorView := doorView_modifyOven i p
    exact Part.KeepsDoors.trans (.ite_both ((Part.KeepsDoors.setByAge c i _).after set) (.of_view_eq set))
      (.of_view_eq (doorView_evalOverdue ..))

theorem panelDeclare_keepsDoors (value : Word16) (phase : Byte) : p.KeepsDoors c due (panelDeclare value phase c i p) := by
  refine .ite fun _ => ?_
  split
  · have aged : (p.modifyOven i fun o => { o with kept := { o.kept with age := min maxAge value.toNat } }).doorView
        = p.doorView := doorView_modifyOven i p
    exact ((Part.KeepsDoors.setByAge c i _).after aged).trans (.of_view_eq (doorView_evalOverdue ..))
  · exact takeOut_keepsDoors i p
  · exact .refl p

theorem panelClear_keepsDoors (n : Nat) : p.KeepsDoors c due (panelClear c n p) := by
  refine .ite_both (.of_view_eq rfl) (.withLocal fun i _ => ?_)
  unfold clearOvenAlarms
  split
  · exact .refl p
  · exact .of_view_eq (doorView_setAlarms ..)

theorem chargeAsk_keepsDoors : p.KeepsDoors c due (chargeAsk c i p) := by
  have asked (q : Part) : q.KeepsDoors c due (askAspirate c i q) := by
    unfold askAspirate
    split
    · exact .refl q
    · exact tellOfftake_keepsDoors i q _ none
  have answered (n : Nat) (r : ChrReason) : p.KeepsDoors c due (offerChr n r p) := .of_view_eq rfl
  unfold chargeAsk
  split
  · exact .refl p
  · exact .ite_both (answered _ _) (.ite_both (answered _ _) (.ite_both (answered _ _)
      ((asked _).after (doorView_modifyOven i p))))

theorem chargeEnd_keepsDoors : p.KeepsDoors c due (chargeEnd c i p) :=
  .ite fun _ => (Part.KeepsDoors.setPhase c i .coking _).after (doorView_modifyOven i p)

theorem chargeLimit_keepsDoors : p.KeepsDoors c due (chargeLimit c i p) := by
  unfold chargeLimit
  split
  · exact .refl p
  · exact .ite fun _ => .of_view_eq ((doorView_raise ..).trans (doorView_modifyOven i p))

/-! ## The bid round and the car orders (R26 to R36, R100 to R105) -/

theorem holdStation_doorView (a : StationAlarm) (on : Bool) : (holdStation c a on p).doorView = p.doorView := by
  cases on <;> rfl

theorem startRound_doorView (key : BidKey) : (startRound key p).doorView = p.doorView := by
  unfold startRound
  dsimp only
  split <;> rfl

theorem evaluateRound_doorView : (evaluateRound c p).doorView = p.doorView := by
  unfold evaluateRound
  split
  · split
    · rfl
    · exact startRound_doorView ..
  · rfl

theorem takeBid_doorView (r : Rival) : (takeBid c r p).doorView = p.doorView := by
  have answered : (answerRival c r p).doorView = p.doorView := by
    unfold answerRival
    dsimp only
    split
    · split
      · rfl
      · split
        · exact startRound_doorView ..
        · rfl
    · rfl
  unfold takeBid
  split
  · rfl
  · split
    · rfl
    · split
      · exact answered
      · rfl
      · rfl

theorem decideRound_keepsDoors : p.KeepsDoors c due (decideRound c p) := by
  unfold decideRound
  split
  · refine .ite fun _ => ?_
    split
    · next won =>
      simp only [roundWon, Bool.and_eq_true, Option.isNone_iff_eq_none] at won
      obtain ⟨⟨⟨⟨noPush, -⟩, -⟩, -⟩, -⟩ := won
      exact (takeWin_keepsDoors { p with bsu := p.bsu.win } noPush _).after rfl
    · exact .of_view_eq rfl
  · exact .refl p

theorem headLeaves_keepsDoors (head : Order) (left : List Order) (r : Outcome) :
    p.KeepsDoors c due (headLeaves c head left r p) := by
  refine Part.KeepsDoors.trans ?_ (.of_view_eq (OrdersOnly.offerHead _).doorView_eq)
  exact .ite_both ((takeOutcome_keepsDoors _ r).after rfl) (.of_view_eq rfl)

theorem carReply_keepsDoors (id verdict : Nat) : p.KeepsDoors c due (carReply c id verdict p) := by
  unfold carReply
  split
  · next head rest v _ _ =>
    refine .ite fun _ => .ite fun _ => ?_
    cases v with
    | accept => exact .ite_both (.refl p) (.of_view_eq rfl)
    | done => exact headLeaves_keepsDoors p head rest .done
    | refuse => exact headLeaves_keepsDoors p head _ .refused
  · exact .refl p

theorem deadline_keepsDoors : p.KeepsDoors c due (deadline c p) := by
  unfold deadline
  split
  · exact .refl p
  · next head _ _ =>
    rw [deadlineExpires_eq]
    exact .ite fun _ => .ite_both ((takeOutcome_keepsDoors _ .timeout).after rfl) (.of_view_eq rfl)

/-! ## The battery line and the views (R110 to R119, R131 to R135) -/

theorem reofferPdn_doorView (e : PendingPdn) : (reofferPdn p e).doorView = p.doorView := by
  unfold reofferPdn
  split <;> rfl

theorem reofferChp_keepsDoors : p.KeepsDoors c due (reofferChp p i) := by
  unfold reofferChp
  split
  · exact .refl p
  · exact .ite fun _ => .ite fun _ => .of_view_eq ((doorView_modifyOven i _).trans (doorView_offer ..))

theorem tellRemoval_keepsDoors : p.KeepsDoors c due (tellRemoval p) :=
  ((Part.KeepsDoors.of_view_eq (OrdersOnly.offerHead p).doorView_eq).trans
    (.foldl (fun q i => reofferChp_keepsDoors i q) _ _)).trans (.foldl (fun q e => .of_view_eq (reofferPdn_doorView q e)) _ _)

theorem heardBack_doorView (k : Kind) (sub : Subject) : (heardBack c k sub p).doorView = p.doorView := by
  unfold heardBack
  split
  · unfold bidHeardBack
    split <;> rfl
  · unfold orderHeardBack
    split
    · rfl
    · split <;> rfl
  · rfl

theorem takePdn_doorView (n : Nat) : (takePdn c n p).doorView = p.doorView := by
  unfold takePdn
  split <;> rfl

theorem routeEcho_doorView (k : Kind) (sub : Subject) : (routeEcho c k sub p).doorView = p.doorView := by
  unfold routeEcho
  split
  · exact takePdn_doorView ..
  · rfl

theorem succeed_keepsDoors : p.KeepsDoors c due (succeed c p) := by
  unfold succeed
  split
  · exact .refl p
  · next a _ =>
    have heard : (heardBack c a.kind a.subject
        (removeStation c .lineSilent { p with bli := { p.bli.endAttempt with failed := 0 } })).doorView = p.doorView :=
      heardBack_doorView ..
    refine Part.KeepsDoors.trans ?_ (.of_view_eq (routeEcho_doorView ..))
    exact .ite_both (.of_view_eq heard) ((tellRemoval_keepsDoors _).after heard)

theorem fail_keepsDoors : p.KeepsDoors c due (fail c p) := by
  unfold fail
  split
  · exact .refl p
  · have removing (l : List TxEntry) (q : Part) : q.KeepsDoors c due (l.foldl (fun q _ => tellRemoval q) q) :=
      .foldl (fun q _ => tellRemoval_keepsDoors q) l q
    exact .ite_both ((removing _ _).after rfl) (.of_view_eq rfl)

theorem beginAttempt_doorView : (beginAttempt c p).doorView = p.doorView := by
  unfold beginAttempt
  split
  · split <;> rfl
  · rfl

theorem loseContention_doorView (urgency station : Nat) : (loseContention c urgency station p).doorView = p.doorView := by
  unfold loseContention
  split
  · rfl
  · split <;> rfl

theorem takeMst_doorView (station : Nat) (position activity load aligned owner : Byte) :
    (takeMst c station position activity load aligned owner p).doorView = p.doorView := by
  unfold takeMst
  split
  · split <;> rfl
  · split
    · split <;> rfl
    · split
      · split <;> rfl
      · rfl

theorem takeOvs_doorView (n : Nat) (phase : Phase) (age : Nat) : (takeOvs c n phase age p).doorView = p.doorView := by
  unfold takeOvs
  dsimp only
  split
  · rfl
  · split
    · rfl
    · split <;> rfl

theorem takeScs_doorView (station stage : Nat) : (takeScs station stage p).doorView = p.doorView := by
  unfold takeScs peerAdded
  dsimp only
  split
  · rfl
  · split
    · rfl
    · split
      · rfl
      · split <;> rfl

end

end Sys2Proof.Machine

/-! SUPPORT. A start sets the doors by their levels, a stop leaves none, and so every command keeps the promise (R70, R148, R149). -/

namespace Sys2Proof.Machine

open Sys2Proof

/-! ## A start (R70, R122, R148) -/

theorem Door.start_agrees (c : Configuration) (present latched leak : Bool) :
    (Door.start c present latched leak).Agrees present latched := by
  cases present <;> cases latched <;> cases leak <;>
    simp [Door.Agrees, Door.start, DoorState.presentLevel, DoorState.latchedLevel, Timer.active]

theorem PlaceInputs.fresh_get (input : SwitchInput) : PlaceInputs.fresh.get input = .fresh := by
  unfold PlaceInputs.get
  split <;> rfl

/-- A start takes each door's record from its levels, no permit line active. -/
theorem startPart_doorsHold (c : Configuration) (low : Bool) (p : Part) : (startPart c low p).DoorsHold c ∅ := by
  have started (j : Nat) (pl : Place) (h : (startPart c low p).places[j]? = some pl) :
      ∃ kept lost, pl = Place.start c (c.firstOven + j) kept lost ((inputsAtLoad c p.fls.inputs).getD j .fresh) := by
    change ((List.range c.ovenCount).map (startPlace c p.retained (inputsAtLoad c p.fls.inputs)))[j]? = some pl at h
    obtain ⟨j', hj', rfl⟩ := Option.map_eq_some_iff.mp ((List.getElem?_map ..).symm.trans h)
    obtain ⟨hlt, rfl⟩ := List.getElem?_eq_some_iff.mp hj'
    rw [List.getElem_range]
    unfold startPlace
    dsimp only
    split
    · exact ⟨_, _, rfl⟩
    · exact ⟨_, _, rfl⟩
  have level (j : Nat) (input : SwitchInput) : (startPart c low p).level j input
      = (((inputsAtLoad c p.fls.inputs).getD j .fresh).get input).level.getD false := by
    change (match (inputsAtLoad c p.fls.inputs)[j]? with | none => false | some x => (x.get input).level.getD false) = _
    rw [List.getD_eq_getElem?_getD]
    cases (inputsAtLoad c p.fls.inputs)[j]? with
    | none => exact (congrArg (·.level.getD false) (PlaceInputs.fresh_get input)).symm
    | some x => rfl
  refine ⟨rfl, fun j pl h => ?_, fun j pl h side => ?_, fun j pl _ h side on => ?_⟩
  all_goals obtain ⟨kept, lost, rfl⟩ := started j pl h
  · rfl
  · rw [level, level]
    cases side <;> exact Door.start_agrees ..
  · cases side <;> cases on

/-! ## Every command -/

/-- The promise about the doors of a part, loaded or not. -/
structure Part.HoldsDoors (p : Part) : Prop where
  unloaded : p.config = none → p.places = []
  loaded : ∀ c, p.config = some c → p.DoorsHold c ∅

theorem Part.HoldsDoors.of_sound {p : Part} (places : p.PlacesSound) (doors : p.DoorsSound) : p.HoldsDoors := by
  obtain ⟨-, numbered⟩ := places
  obtain ⟨unloaded, doors⟩ := doors
  refine ⟨unloaded, fun c hc => ?_⟩
  obtain ⟨-, -, number⟩ := numbered c (by simp [hc])
  have at_place (j : Nat) (pl : Place) (h : p.places[j]? = some pl) :=
    doors c (by simp [hc]) j (List.getElem?_eq_some_iff.mp h).1 pl (by simp [h])
  refine ⟨hc, fun j pl h => ?_, fun j pl h side => ?_, fun j pl _ h side on => ?_⟩
  · simpa [h] using number j (List.getElem?_eq_some_iff.mp h).1
  · obtain ⟨agreeP, agreeC, -⟩ := at_place j pl h
    cases side
    · exact agreeP
    · exact agreeC
  · obtain ⟨-, -, permit⟩ := at_place j pl h
    rw [← (Part.shows_self h).permitReady]
    cases side
    · exact permit (.inl on)
    · exact permit (.inr on)

theorem Part.HoldsDoors.sound {p : Part} (h : p.HoldsDoors) : p.DoorsSound := by
  refine ⟨h.unloaded, fun c hc j _ pl hpl => ?_⟩
  rw [Option.mem_toList] at hc hpl
  have doors := h.loaded c hc
  refine ⟨doors.agree j pl hpl .p, doors.agree j pl hpl .c, fun on => ?_⟩
  rw [(Part.shows_self hpl).permitReady]
  rcases on with on | on
  · exact doors.permit j pl (Set.notMem_empty j) hpl .p on
  · exact doors.permit j pl (Set.notMem_empty j) hpl .c on

/-- What a part with sound inputs holds of its doors, `q` does. -/
def Part.LeadsDoors (p q : Part) : Prop := p.InputsSound → p.HoldsDoors → q.HoldsDoors

namespace Part.LeadsDoors

variable {p q : Part}

theorem refl (p : Part) : p.LeadsDoors p := fun _ h => h

theorem of_view_eq (h : q.doorView = p.doorView) : p.LeadsDoors q := fun _ hp => by
  refine ⟨fun hc => ?_, fun c hc => ?_⟩
  · have places := congrArg DoorView.places h
    change q.places.map Place.doors = p.places.map Place.doors at places
    rw [hp.unloaded ((congrArg DoorView.config h).symm.trans hc)] at places
    exact List.map_eq_nil_iff.mp places
  · exact (hp.loaded c ((congrArg DoorView.config h).symm.trans hc)).of_view_eq h

/-- A part without configuration and without records. -/
theorem of_empty (hc : q.config = none) (hp : q.places = []) : p.LeadsDoors q := fun _ _ =>
  ⟨fun _ => hp, fun _ h => absurd (hc.symm.trans h) nofun⟩

theorem ite {b : Prop} [Decidable b] (h : b → p.LeadsDoors q) : p.LeadsDoors (if b then q else p) := by
  split
  · next hb => exact h hb
  · exact .refl p

theorem of_loaded {c : Configuration} (hc : p.config = some c) (h : p.KeepsDoors c ∅ q) : p.LeadsDoors q := fun _ hp => by
  have holds := h ∅ subset_rfl (hp.loaded c hc)
  refine ⟨fun k => absurd (holds.config.symm.trans k) nofun, fun d hd => ?_⟩
  cases holds.config.symm.trans hd
  exact holds

end Part.LeadsDoors

section
variable (p : Part)

theorem minute_leadsDoors : p.LeadsDoors (minute p) := by
  unfold minute
  split
  · exact .of_view_eq rfl
  · next hc => exact .of_loaded hc (.foldl (fun q i => minuteAt_keepsDoors i q) _ p)

/-- Without a configuration a level is delivered to nobody (R122). -/
theorem debounce_unloaded {p : Part} (hc : p.config = none) (i : Nat) (input : SwitchInput) :
    (debounce i input p).config = none ∧ (debounce i input p).places = p.places := by
  unfold debounce
  split
  · exact ⟨hc, rfl⟩
  · split
    · rw [hc]
      exact ⟨hc, rfl⟩
    · exact ⟨hc, rfl⟩

theorem debounce_leadsDoors (i : Nat) (input : SwitchInput) : p.LeadsDoors (debounce i input p) := fun inputs hp => by
  cases hc : p.config with
  | some c => exact Part.LeadsDoors.of_loaded hc (fun _ _ h => debounce_doorsHold h inputs i input) inputs hp
  | none =>
    obtain ⟨config, places⟩ := debounce_unloaded hc i input
    exact Part.LeadsDoors.of_empty config (places.trans (hp.unloaded hc)) inputs hp

theorem Input.sample_level (v : Bool) (x : Input) : (x.sample v).level = x.level := by
  unfold Input.sample
  split
  · split <;> rfl
  · split <;> rfl

/-- A sample of the pins leaves every debounced level (R121). -/
theorem millisecond_doorView (pins : Pins) : (millisecond pins p).doorView = p.doorView := by
  unfold millisecond
  split
  · rfl
  · next n _ =>
    have sampled (j : Nat) (x : PlaceInputs) (input : SwitchInput) :
        ((x.sample pins j).get input).level = (x.get input).level := by
      unfold PlaceInputs.get
      split <;> exact Input.sample_level ..
    have level (q : Part) (h : q.fls.inputs = p.fls.inputs.mapIdx fun i x => if i < sampledPlaces p then x.sample pins i else x)
        (j : Nat) (input : SwitchInput) : q.level j input = p.level j input := by
      unfold Part.level
      rw [h, List.getElem?_mapIdx]
      cases p.fls.inputs[j]? with
      | none => rfl
      | some x =>
        simp only [Option.map_some]
        split
        · rw [sampled]
        · rfl
    simp only [Part.doorView]
    rw [funext fun j => funext fun side => level _ rfl j (.present side),
      funext fun j => funext fun side => level _ rfl j (.latched side)]
    rfl

theorem compareMatch_doorView (i : Nat) : (compareMatch i p).doorView = p.doorView := by
  unfold compareMatch
  split
  · rfl
  · split <;> rfl

/-! ### Loads, supplies and resets (R147 to R149) -/

theorem failLoad_leadsDoors (h : p.load = .reading) : p.LeadsDoors (failLoad p) := fun inputs hp =>
  Part.LeadsDoors.of_empty rfl (hp.unloaded (config_of_reading h)) inputs hp

theorem loadDone_leadsDoors (acked : Bool) (block : List Byte) (low : Bool) : p.LeadsDoors (loadDone acked block low p) := by
  refine .ite fun reading => ?_
  split
  · exact failLoad_leadsDoors p reading
  · next c _ =>
    refine fun _ _ => ⟨nofun, fun d hd => ?_⟩
    cases hd
    exact startPart_doorsHold c low _

theorem retry_leadsDoors : p.LeadsDoors (if p.load = .failed ∧ p.retry.active = true then beginLoad p else p) :=
  .ite fun ⟨failed, _⟩ inputs hp =>
    Part.LeadsDoors.of_empty rfl (hp.unloaded (config_of_failed failed)) inputs hp

theorem assertReset_leadsDoors : p.LeadsDoors (assertReset p) := by
  unfold assertReset
  split
  · exact .refl p
  · split
    · exact .of_empty rfl rfl
    · exact .of_view_eq rfl

theorem releaseReset_leadsDoors : p.LeadsDoors (releaseReset p) := by
  unfold releaseReset
  split
  · split
    · exact .of_empty rfl rfl
    · exact .of_view_eq rfl
  · exact .refl p

theorem applyMain_leadsDoors : p.LeadsDoors (applyMain p) := by
  unfold applyMain
  split
  · exact .refl p
  · split
    · exact .of_empty rfl rfl
    · exact .of_empty rfl rfl

theorem loseMain_leadsDoors : p.LeadsDoors (loseMain p) := by
  unfold loseMain
  refine .ite fun _ => ?_
  dsimp only
  split
  · exact .of_empty rfl rfl
  · exact .of_empty rfl rfl

theorem loseBackup_leadsDoors : p.LeadsDoors (loseBackup p) := by
  unfold loseBackup
  dsimp only
  split
  · exact .of_view_eq rfl
  · exact .of_view_eq rfl

end

/-- Whatever next state an answer gives holds of its doors what the state did. -/
def State.AnswerLeadsDoors (s : State) (r : Host.Outcome State Fault Refusal) : Prop :=
  ∀ t, r = .next t → s.part.LeadsDoors t.part

section
variable {s : State}

theorem State.update_leadsDoors {f : Part → Part} (h : s.part.LeadsDoors (f s.part)) : s.AnswerLeadsDoors (s.update f) := by
  intro t e
  cases e
  exact h

theorem State.whenLoaded_leadsDoors {f : Configuration → Part → Part}
    (h : ∀ c, s.part.KeepsDoors c ∅ (f c s.part)) :
    s.AnswerLeadsDoors (s.whenLoaded f) := by
  refine State.update_leadsDoors ?_
  cases hc : s.part.config with
  | none => exact .refl _
  | some c => exact .of_loaded hc (h c)

/-- A command whose change the promise about the doors does not see. -/
theorem State.whenLoaded_sameDoors {f : Configuration → Part → Part} (h : ∀ c, (f c s.part).doorView = s.part.doorView) :
    s.AnswerLeadsDoors (s.whenLoaded f) := State.whenLoaded_leadsDoors fun c => .of_view_eq (h c)

theorem panelAt_leadsDoors {h : Header} {oven : Byte} {f : Configuration → Nat → Part → Part}
    (hf : ∀ c i, s.part.KeepsDoors c ∅ (f c i s.part)) : s.AnswerLeadsDoors (panelAt h oven f s) :=
  State.whenLoaded_leadsDoors fun c => .ite fun _ => .withLocal fun i _ => hf c i

/-- The expiry of a timer of one oven. -/
theorem ovenTimer_leadsDoors {oven : Nat} {f : Configuration → Nat → Part → Part}
    (hf : ∀ c i, s.part.KeepsDoors c ∅ (f c i s.part)) :
    s.AnswerLeadsDoors (s.whenLoaded fun c p => withLocal c oven p fun i => f c i p) :=
  State.whenLoaded_leadsDoors fun c => .withLocal fun i _ => hf c i

end

/-- Every command keeps the promise about the doors. -/
theorem exec_leadsDoors (i : Instr) (s : State) : s.AnswerLeadsDoors (exec i s) := by
  cases i with
  | minuteExpiry => exact State.update_leadsDoors (minute_leadsDoors _)
  | pnlHold h oven => exact panelAt_leadsDoors fun _ i => .of_view_eq (doorView_setHold ..)
  | pnlRelease h oven => exact panelAt_leadsDoors fun _ i => .of_view_eq (doorView_setHold ..)
  | pnlOut h oven => exact panelAt_leadsDoors fun c i => panelOut_keepsDoors i _
  | pnlIn h oven => exact panelAt_leadsDoors fun c i => .ite fun _ => .setPhase c i .empty _
  | pnlTarget h oven value => exact panelAt_leadsDoors fun c i => panelTarget_keepsDoors i _ value
  | pnlDeclare h oven value phase => exact panelAt_leadsDoors fun c i => panelDeclare_keepsDoors i _ value phase
  | pnlAbort h oven => exact State.whenLoaded_leadsDoors fun c => .ite fun _ => panelAbort_keepsDoors _ _
  | pnlClear h oven => exact State.whenLoaded_leadsDoors fun c => .ite fun _ => panelClear_keepsDoors _ _
  | cha h oven => exact State.whenLoaded_leadsDoors fun c => .ite fun _ => .withLocal fun i _ => chargeAsk_keepsDoors i _
  | che h oven => exact State.whenLoaded_leadsDoors fun c => .ite fun _ => .withLocal fun i _ => chargeEnd_keepsDoors i _
  | chargeLimitExpiry oven => exact ovenTimer_leadsDoors fun c i => chargeLimit_keepsDoors i _
  | evaluationExpiry low =>
    unfold exec execEvaluationExpiry
    exact State.whenLoaded_sameDoors fun c => (holdStation_doorView ..).trans (evaluateRound_doorView _)
  | bid h oven lateness =>
    exact State.whenLoaded_leadsDoors fun c => .ite fun _ => .of_view_eq (takeBid_doorView ..)
  | windowExpiry => exact State.whenLoaded_leadsDoors fun c => decideRound_keepsDoors _
  | holdOffExpiry =>
    unfold exec execHoldOffExpiry
    exact State.whenLoaded_sameDoors fun _ => rfl
  | deferralExpiry => exact State.whenLoaded_leadsDoors fun _ => .ite fun _ => .of_view_eq rfl
  | pas h oven =>
    exact State.whenLoaded_leadsDoors fun c => .ite fun _ => .withLocal fun i _ => .of_view_eq (pushAsk_doorView ..)
  | rms h oven => exact State.whenLoaded_leadsDoors fun c => .ite fun _ => .withLocal fun i hi => ramStarts_keepsDoors i _ hi
  | rmh h oven stroke =>
    refine State.whenLoaded_leadsDoors fun c => .ite fun _ => ?_
    split
    · exact .refl _
    · next x hx => exact .ite fun ⟨_, stage⟩ => .withLocal fun i _ => ramHome_keepsDoors i _ hx stage _
  | prepareLimitExpiry => exact State.whenLoaded_leadsDoors fun c => prepareLimit_keepsDoors _
  | armedLimitExpiry => exact State.whenLoaded_leadsDoors fun c => armedLimit_keepsDoors _
  | permitTimerExpiry => exact State.whenLoaded_sameDoors fun _ => doorView_modifyContext _
  | rmhLimitExpiry => exact State.whenLoaded_leadsDoors fun c => rmhLimit_keepsDoors _
  | doorLimitExpiry => exact State.whenLoaded_leadsDoors fun c => doorLimit_keepsDoors _
  | debounceExpiry place input =>
    unfold exec execDebounceExpiry
    refine State.update_leadsDoors ?_
    split
    · exact .refl _
    · exact debounce_leadsDoors _ _ input
  | leakTimerExpiry oven side => exact ovenTimer_leadsDoors fun c i => leakExpires_keepsDoors i _ side
  | clearTimerExpiry oven side => exact ovenTimer_leadsDoors fun c i => clearExpires_keepsDoors i _ side
  | leakingSpellExpiry oven side => exact ovenTimer_leadsDoors fun c i => leakingSpellExpires_keepsDoors i _ side
  | sealedSpellExpiry oven side => exact ovenTimer_leadsDoors fun c i => sealedSpellExpires_keepsDoors i _ side
  | valveMotionTimerExpiry oven => exact ovenTimer_leadsDoors fun c i => valveTimerExpires_keepsDoors i _
  | capMotionTimerExpiry oven => exact ovenTimer_leadsDoors fun c i => capTimerExpires_keepsDoors i _
  | pressureHighTimerExpiry oven => exact ovenTimer_leadsDoors fun c i => highTimerExpires_keepsDoors i _
  | aspirateHoldExpiry oven => exact ovenTimer_leadsDoors fun c i => aspirateHoldExpires_keepsDoors i _
  | quarterSecondExpiry =>
    unfold exec execQuarterSecondExpiry
    exact State.whenLoaded_sameDoors fun c => quarterSecond_doorView _
  | transactionComplete first second => exact State.whenLoaded_leadsDoors fun c => transactionDone_keepsDoors _ _
  | channelByteNack => exact State.whenLoaded_leadsDoors fun c => channelNack_keepsDoors _
  | addressNack => exact State.whenLoaded_leadsDoors fun c => addressFails_keepsDoors _
  | clockHoldTimeout => exact State.whenLoaded_leadsDoors fun c => clockFails_keepsDoors _
  | pwmPeriodEnd => exact State.update_leadsDoors (.of_view_eq rfl)
  | qcr h id verdict reason => exact State.whenLoaded_leadsDoors fun c => .ite fun _ => carReply_keepsDoors _ _ _
  | deadlineExpiry => exact State.whenLoaded_leadsDoors fun c => deadline_keepsDoors _
  | mst h position activity load aligned owner =>
    exact State.whenLoaded_leadsDoors fun c => .ite fun _ => .of_view_eq (takeMst_doorView ..)
  | machineViewFreshnessExpiry view =>
    unfold exec execMachineViewFreshnessExpiry
    exact State.whenLoaded_sameDoors fun _ => rfl
  | ovs h oven stateWord lateness doors offtake pressure alarms =>
    refine State.whenLoaded_leadsDoors fun c => .ite fun _ => ?_
    split
    · exact .refl _
    · exact .of_view_eq (takeOvs_doorView ..)
  | neighbourViewFreshnessExpiry view =>
    unfold exec execNeighbourViewFreshnessExpiry
    exact State.whenLoaded_sameDoors fun _ => rfl
  | pdn h oven stroke unpermitted =>
    exact State.whenLoaded_leadsDoors fun c => .ite fun _ => .of_view_eq (takePdn_doorView ..)
  | scs h stage oven reason anchor count head alarms =>
    exact State.whenLoaded_leadsDoors fun _ => .ite fun _ => .of_view_eq (takeScs_doorView ..)
  | refreshTimerExpiry station =>
    unfold exec execRefreshTimerExpiry
    exact State.whenLoaded_sameDoors fun _ => rfl
  | settleTimerExpiry => exact State.whenLoaded_leadsDoors fun _ => .ite fun _ => .of_view_eq rfl
  | lineIdleAttempt => exact State.whenLoaded_sameDoors fun c => beginAttempt_doorView _
  | lostContention urgency station => exact State.whenLoaded_sameDoors fun c => loseContention_doorView ..
  | attemptSucceeded => exact State.whenLoaded_leadsDoors fun c => succeed_keepsDoors _
  | attemptFailed => exact State.whenLoaded_leadsDoors fun c => fail_keepsDoors _
  | silentExpiry => exact State.whenLoaded_leadsDoors fun _ => .ite fun _ => .of_view_eq rfl
  | scsPeriodExpiry => exact State.whenLoaded_leadsDoors fun _ => .ite fun _ => .of_view_eq rfl
  | configLoadComplete acked block low => exact State.update_leadsDoors (loadDone_leadsDoors _ acked block low)
  | configLoadClockTimeout => exact State.update_leadsDoors (.ite (failLoad_leadsDoors _))
  | configRetryExpiry => exact State.update_leadsDoors (retry_leadsDoors _)
  | resetAsserted => exact State.update_leadsDoors (assertReset_leadsDoors _)
  | resetReleased => exact State.update_leadsDoors (releaseReset_leadsDoors _)
  | mainSupplyApplied => exact State.update_leadsDoors (applyMain_leadsDoors _)
  | mainSupplyLost => exact State.update_leadsDoors (loseMain_leadsDoors _)
  | backupSupplyLost => exact State.update_leadsDoors (loseBackup_leadsDoors _)
  | millisecondExpiry pins => exact State.update_leadsDoors (.of_view_eq (millisecond_doorView _ pins))
  | pwmCompareMatch place =>
    unfold exec execPwmCompareMatch
    refine State.update_leadsDoors (.of_view_eq ?_)
    split
    · rfl
    · exact compareMatch_doorView ..

/-- Settles O9, by the promise about the doors that every command keeps. -/
theorem permitNeedsEveryCondition : Obligations.PermitNeedsEveryCondition := by
  intro s t places inputs doors next
  have holds := Part.HoldsDoors.of_sound places doors
  unfold step at next
  split at next
  · cases next
    exact holds.sound
  · next i rest _ => exact (exec_leadsDoors i { s with pending := rest } t next inputs holds).sound

end Sys2Proof.Machine

/-! SUPPORT. The setpoint's base and its door condition (R69, R75, R76), and the leak line and the spells of a door (R66 to R68). -/

namespace Sys2Proof.Machine

open Sys2Proof

/-! ## The setpoint (R69, R75, R76) -/

theorem DoorState.lowersSetpoint_iff (d : DoorState) :
    d.lowersSetpoint = true ↔ d = .leaking ∨ d = .unlatched ∨ d = .off ∨ d = .fault := by
  cases d <;> simp [DoorState.lowersSetpoint]

theorem Place.doorCondition_iff (pl : Place) :
    pl.doorCondition = true ↔ ∃ side, (pl.door side).state.lowersSetpoint = true := by
  simp only [Place.doorCondition, Bool.or_eq_true]
  constructor
  · rintro (h | h)
    · exact ⟨.p, h⟩
    · exact ⟨.c, h⟩
  · rintro ⟨_ | _, h⟩
    · exact .inl h
    · exact .inr h

/-- Settles O45, by the branches of the base setpoint and of its lowering. -/
theorem setpointFollowsAgeAndDoors : Obligations.SetpointFollowsAgeAndDoors := by
  intro c age pl
  refine ⟨fun h => ?_, fun h k => ?_, fun h k => ?_, rfl, fun h => ?_, fun h => ?_, ?_⟩
  · rw [baseSetpoint, if_pos h]
  · rw [baseSetpoint, if_neg (by omega), if_pos k]
  · rw [baseSetpoint, if_neg (by omega), if_neg (by omega)]
  · simp only [setpoint, if_true, if_pos h]
    omega
  · simp only [setpoint, if_true, if_neg (Nat.not_le_of_lt h)]
  · simp only [Place.doorCondition_iff, DoorState.lowersSetpoint_iff]

/-! ## A door's change that nobody waits for -/

/-- A door that keeps its state, or comes to SEALED or LEAKING. -/
def DoorState.quiet (old new : DoorState) : Prop := new = old ∨ new.isLatched = true

theorem doorChangeAlarms_quiet (charging : Bool) (side : Side) {old new : DoorState} (h : old.quiet new) :
    doorChangeAlarms charging side old new = [] := by
  rcases h with rfl | h
  · cases new <;> simp [doorChangeAlarms, doorForced, DoorState.isLatched]
  · rcases (isLatched_iff new).mp h with rfl | rfl <;> simp [doorChangeAlarms, doorForced]

theorem Place.doorStored_eq (pl : Place) (side : Side) (d : Door) : pl.doorStored side d = { pl.withDoor side d with
    oven := { pl.oven with alarms := Claims.held pl.oven.alarms (Claims.resealBit side) d.resealWanted } } := by
  cases side <;> rfl

section
variable {c : Configuration} {i : Nat} {p : Part} {pl : Place} {x : Option Context} {l : SwitchInput → Bool}

/-- A stored door record is all of a change that raises no alarm, at an oven with no push. -/
theorem changeDoor_quiet (h : p.Shows i pl x l) (hx : ∀ y, x = some y → y.oven ≠ pl.oven.number) {side : Side} {d : Door}
    (hd : (pl.door side).state.quiet d.state) : OvenOnly i p (changeDoor c i side d p)
      ∧ (changeDoor c i side d p).places[i]? = some (pl.doorStored side d) := by
  obtain ⟨alarmed, frame, shown, meaning⟩ := changeDoor_eq (c := c) h side d
  have place : pl.doorChanged side d = pl.doorStored side d := by
    rw [Place.doorChanged, doorChangeAlarms_quiet _ _ hd]
    rfl
  rw [place] at shown
  have told : tellDoor c i (pl.door side).state d.state alarmed = alarmed := by
    by_cases same : d.state = (pl.door side).state
    · rw [tellDoor, if_pos same.symm]
    · have latched := hd.resolve_left same
      rw [tellDoor_noPush shown same (by rwa [Place.doorStored_oven]), cancelOnDoor_eq shown,
        if_neg fun ⟨_, k⟩ => by rw [latched] at k; cases k]
  rw [meaning, told]
  exact ⟨frame.frame, shown.place⟩

/-- A stored door record alone. -/
theorem commitDoor_stores (h : p.Shows i pl x l) (side : Side) (d : Door) : OvenOnly i p (commitDoor c i side d p)
    ∧ (commitDoor c i side d p).places[i]? = some (pl.doorStored side d) :=
  ⟨.commitDoor c i side d p, (h.commitDoor c side d).place⟩

end

/-! ## The records of the entries (R66 to R68) -/

theorem Door.leakChange_eq (c : Configuration) (v : Bool) (d : Door) : d.leakChange c v = { d with
    leakTimer := if d.state = .sealed then (if v then .running (c.leakOn * 1000) else .stopped) else d.leakTimer
    clearTimer := if d.state = .leaking then (if v then .stopped else .running (c.leakOff * 1000)) else d.clearTimer } := by
  obtain ⟨state⟩ := d
  cases state <;> rfl

theorem spellMs_eq (c : Configuration) : spellMs c = c.resealAfter * 60000 := by
  simp only [spellMs, seconds]
  omega

theorem Door.enterLeaking_eq (c : Configuration) (leak : Bool) (d : Door) : d.enterLeaking c leak = { d with
    state := .leaking, permit := false, leakTimer := .stopped, sealedSpell := .stopped
    clearTimer := if leak then .stopped else .running (c.leakOff * 1000)
    leakingSpell := .running (c.resealAfter * 60000) } := by
  rw [← spellMs_eq]
  rfl

theorem Door.enterSealed_eq (c : Configuration) (leak : Bool) (d : Door) : d.enterSealed c leak = { d with
    state := .sealed, permit := false, clearTimer := .stopped, leakingSpell := .stopped
    leakTimer := if leak then .running (c.leakOn * 1000) else .stopped
    sealedSpell := if d.resealWanted then .running (c.resealAfter * 60000) else .stopped } := by
  rw [← spellMs_eq]
  rfl

/-- Settles O42, by the record that each change of the leak line and each timer stores. -/
theorem doorSpellsExpire : Obligations.DoorSpellsExpire := by
  intro s c n i pl side ho hn d leak becomes
  have hpl := ho.2.2.1
  have elsewhere := ho.ne hn
  have leakRuns : s.Runs (.leakTimerExpiry n side) (leakExpires c side i s.part) :=
    ovenTimer_runs ho fun c => leakExpires c side
  have clearRuns : s.Runs (.clearTimerExpiry n side) (clearExpires c side i s.part) :=
    ovenTimer_runs ho fun c => clearExpires c side
  have leakingRuns : s.Runs (.leakingSpellExpiry n side) (leakingSpellExpires c side i s.part) :=
    ovenTimer_runs ho fun c => leakingSpellExpires c side
  have sealedRuns : s.Runs (.sealedSpellExpiry n side) (sealedSpellExpires c side i s.part) :=
    ovenTimer_runs ho fun c => sealedSpellExpires c side
  have stores {e : Instr} {q : Part} {d' : Door} (runs : s.Runs e q)
      (stored : OvenOnly i s.part q ∧ q.places[i]? = some (pl.doorStored side d')) : becomes e d' :=
    ⟨q, runs, stored.1, by rw [stored.2, Place.doorStored_eq]⟩
  refine ⟨fun v spell => ?_, fun ht hs => ?_, fun ht hs => ?_, fun ht => ?_, fun ht => ?_, fun ht => ?_, fun ht => ?_,
    fun ht => ?_, fun ht => ?_⟩
  · have shown : (s.part.withLevel i (.leak side) v).Shows i pl s.part.psq.context _ := Part.shows_self hpl
    have quiet : d.state.quiet (d.leakChange c v).state := .inl (by rw [Door.leakChange_eq])
    have delivered : deliver c i (.leak side) v (s.part.withLevel i (.leak side) v)
        = changeDoor c i side (d.leakChange c v) (s.part.withLevel i (.leak side) v) := by
      simp [deliver, confirmationOf, doorSwitch, shown.place, d]
    obtain ⟨frame, place⟩ := changeDoor_quiet (c := c) shown elsewhere quiet
    refine ⟨_, (debounce_runs ho.1 spell).congr delivered, frame, ?_⟩
    rw [place, Place.doorStored_eq, Door.leakChange_eq]
  · have meaning : leakExpires c side i s.part = changeDoor c i side (d.enterLeaking c leak) s.part := by
      simp only [leakExpires, hpl, d, leak, ht, hs, and_self, if_true]
    rw [← Door.enterLeaking_eq]
    exact stores (leakRuns.congr meaning) (changeDoor_quiet ho.shows elsewhere (.inr rfl))
  · have meaning : clearExpires c side i s.part = changeDoor c i side (d.enterSealed c leak) s.part := by
      simp only [clearExpires, hpl, d, leak, ht, hs, and_self, if_true]
    rw [← Door.enterSealed_eq]
    exact stores (clearRuns.congr meaning) (changeDoor_quiet ho.shows elsewhere (.inr rfl))
  · have meaning : leakingSpellExpires c side i s.part
        = commitDoor c i side { d with leakingSpell := .stopped, resealWanted := true } s.part := by
      simp only [leakingSpellExpires, hpl, d, ht, if_true]
    exact stores (leakingRuns.congr meaning) (commitDoor_stores ho.shows side _)
  · have meaning : sealedSpellExpires c side i s.part
        = commitDoor c i side { d with sealedSpell := .stopped, resealWanted := false } s.part := by
      simp only [sealedSpellExpires, hpl, d, ht, if_true]
    exact stores (sealedRuns.congr meaning) (commitDoor_stores ho.shows side _)
  · exact leakRuns.ignores (by simp [leakExpires, hpl, d, ht])
  · exact clearRuns.ignores (by simp [clearExpires, hpl, d, ht])
  · exact leakingRuns.ignores (by simp [leakingSpellExpires, hpl, d, ht])
  · exact sealedRuns.ignores (by simp [sealedSpellExpires, hpl, d, ht])

end Sys2Proof.Machine

/-! SUPPORT. What a sample makes of its place (R72 to R74), the scan's next step beside it (R126, R128), and the permit decision
that a sample brings (R63 to R65). -/

namespace Sys2Proof.Machine

open Sys2Proof

/-! ## The record a sample counts (R72 to R74) -/

section
variable {p : Part} {i : Nat} {pl : Place} {x : Option Context} {l : SwitchInput → Bool}

theorem Part.Shows.remove (h : p.Shows i pl x l) (c : Configuration) (a : OvenAlarm) :
    (removeOven c i a p).Shows i (pl.held a false) x l := h.hold c a false

/-- The record and the alarms after steps 1 to 3 of a valid sample (R72, R73). -/
def Offtake.sensed (v : Int) (o : Offtake) : Offtake :=
  { o.countValid v with sensorFailed := o.sensorFailed && Decidable.decide (o.validCount < 3) }

def Place.sensedAlarms (pl : Place) : Word16 :=
  if pl.offtake.sensorFailed = true ∧ 3 ≤ pl.offtake.validCount then heldIn pl.oven.alarms .pressureSensor false
  else pl.oven.alarms

theorem Offtake.recovers_iff (v : Int) (o : Offtake) :
    (o.countValid v).recovers = true ↔ o.sensorFailed = true ∧ 3 ≤ o.validCount := by
  simp only [Offtake.recovers, Offtake.countValid, Bool.and_eq_true, beq_iff_eq]
  exact and_congr_right fun _ => by omega

theorem Part.Shows.countSample (h : p.Shows i pl x l) (c : Configuration) (v : Int) : (countSample c i v p).Shows i
    ((pl.withOfftake (pl.offtake.sensed v)).withAlarms pl.sensedAlarms) x l := by
  unfold Machine.countSample
  simp only [h.place]
  split
  · next on =>
    obtain ⟨failed, counted⟩ := (Offtake.recovers_iff v _).mp on
    rw [Place.sensedAlarms, if_pos ⟨failed, counted⟩, Offtake.sensed, failed, decide_eq_false (Nat.not_lt.mpr counted)]
    exact (h.commitOfftake _).remove c .pressureSensor
  · next off =>
    have still := mt (Offtake.recovers_iff v _).mpr off
    have kept : pl.offtake.sensed v = pl.offtake.countValid v := by
      have flag : (pl.offtake.sensorFailed && decide (pl.offtake.validCount < 3)) = pl.offtake.sensorFailed := by
        cases failed : pl.offtake.sensorFailed
        · rfl
        · simpa [failed] using still
      rw [Offtake.sensed, flag]
      rfl
    rw [Place.sensedAlarms, if_neg still, kept]
    exact h.commitOfftake _

/-- Step 4 times PRESSURE_HIGH on the record that steps 1 to 3 leave (R74). -/
theorem Offtake.timeHigh_sensed (c : Configuration) (v : Int) (pl : Place) :
    (pl.offtake.sensed v).timeHigh c (hasOven pl.sensedAlarms .pressureHigh) v = Claims.validCounted c v pl := by
  have high : hasOven pl.sensedAlarms .pressureHigh = hasOven pl.oven.alarms .pressureHigh := by
    unfold Place.sensedAlarms
    split
    · exact hasOven_heldIn pl.oven.alarms .pressureSensor .pressureHigh false
    · rfl
  rw [high]
  unfold Offtake.timeHigh Claims.validCounted
  split
  · rfl
  · dsimp only
    split
    · next on =>
      rw [if_pos (show pl.offtake.mode = .pi ∧ pl.offtake.highTimer = .stopped ∧ hasOven pl.oven.alarms .pressureHigh = false from
        on)]
      rfl
    · next off =>
      rw [if_neg (show ¬(pl.offtake.mode = .pi ∧ pl.offtake.highTimer = .stopped ∧ hasOven pl.oven.alarms .pressureHigh = false) from
        off)]
      rfl

/-- Steps 1 to 4 of a valid sample. -/
theorem Part.Shows.validCounted (h : p.Shows i pl x l) (c : Configuration) (v : Int) :
    (timeSample c i v (Machine.countSample c i v p)).Shows i
      ((pl.withOfftake (Claims.validCounted c v pl)).withAlarms (Claims.validAlarms c v pl)) x l := by
  have counted := h.countSample c v
  have timed := counted.commitOfftake (Claims.validCounted c v pl)
  have record := Offtake.timeHigh_sensed c v pl
  unfold timeSample
  simp only [counted.place]
  change Part.Shows (if v ≤ (c.pHigh : Int) then removeOven c i .pressureHigh (Machine.commitOfftake i
    ((pl.offtake.sensed v).timeHigh c (hasOven pl.sensedAlarms .pressureHigh) v) _) else Machine.commitOfftake i
    ((pl.offtake.sensed v).timeHigh c (hasOven pl.sensedAlarms .pressureHigh) v) _) i _ x l
  rw [record]
  unfold Claims.validAlarms
  split
  · exact timed.remove c .pressureHigh
  · exact timed

theorem Part.Shows.invalidCounted (h : p.Shows i pl x l) (c : Configuration) : (countInvalidSample c i p).Shows i
    ((pl.withOfftake (Claims.invalidCounted c pl.offtake)).withAlarms (Claims.invalidAlarms pl)) x l := by
  have fails : pl.offtake.countInvalid.fails = true ↔ pl.offtake.sensorFailed = false ∧ 2 ≤ pl.offtake.invalidCount := by
    simp only [Offtake.fails, Offtake.countInvalid, Bool.and_eq_true, Bool.not_eq_true', beq_iff_eq]
    exact and_congr_right fun _ => by omega
  unfold countInvalidSample
  simp only [h.place, Claims.invalidAlarms, Claims.invalidCounted]
  split
  · next on =>
    rw [if_pos (fails.mp on), if_pos (fails.mp on)]
    have alarmed := (h.commitOfftake { pl.offtake.countInvalid with sensorFailed := true }).raise c .pressureSensor
    split
    · next pi => rw [if_pos (show pl.offtake.mode = .pi from pi)]; exact alarmed.commitOfftake _
    · next pi => rw [if_neg (show ¬pl.offtake.mode = .pi from pi)]; exact alarmed
  · next off =>
    rw [if_neg (mt fails.mpr off), if_neg (mt fails.mpr off)]
    exact h.commitOfftake _

/-- Neither in PI nor in HOLD a sample moves no valve (R72, R92). -/
theorem controlSample_inert {c : Configuration} {v : Int} (h : p.places[i]? = some pl) (hp : pl.offtake.mode ≠ .pi)
    (hh : pl.offtake.mode ≠ .hold) : controlSample c i v p = p := by
  simp [controlSample, h, hp, holdLeavesForPi, hh]

end

/-! ## The scan beside one oven (R126 to R128) -/

/-- The scan's next step, after a change of the oven it has sampled. -/
theorem OvenOnly.nextPlace {c : Configuration} {i : Nat} {p q : Part} (h : OvenOnly i p q) (hs : Claims.scanAtPlace p i) :
    OvenOnly i (Claims.scanMoved c p i) (nextPlace c q) ∧ (nextPlace c q).places = q.places := by
  obtain ⟨-, place, nack⟩ := hs
  have scan : q.fls.scan = p.fls.scan := by rw [h.rest]
  unfold Machine.nextPlace Claims.scanMoved
  rw [scan, place]
  split
  · refine ⟨⟨h.number, h.places, h.channels, h.entries, ?_⟩, rfl⟩
    rw [h.rest]
    rfl
  · have ended : endScan c false q = removeStation c .samplePort
        { q with fls := { q.fls with scan := { q.fls.scan with running := false, nackCount := 0 }, port := [] } } := by
      simp [endScan, scan, nack]
    rw [ended]
    refine ⟨⟨h.number, h.places, h.channels, h.entries, ?_⟩, rfl⟩
    rw [h.rest]
    rfl

theorem OvenOnly.sendStop {i : Nat} {p q : Part} (h : OvenOnly i p q) : OvenOnly i (Claims.stopSent p) q.sendStop :=
  ⟨h.number, h.places, h.channels, h.entries, by rw [h.rest]; rfl⟩

/-! ## The permit decision that a sample brings (R63 to R65) -/

theorem Door.decide_ready (c : Configuration) (leak : Bool) (d : Door) : d.decide c true leak
    = if d.state = .sealed ∨ d.state = .leaking then Claims.released d else d := by
  simp only [Door.decide, if_true, isLatched_iff]
  rfl

theorem Door.decide_notReady (c : Configuration) (leak : Bool) (d : Door) : d.decide c false leak
    = if d.state = .released then d.enterSealed c leak else d := rfl

/-- In PREPARE or ARMED and ISOLATE REACHED the pressure alone decides (R63). -/
theorem Place.ready_of_pressure {pl : Place} {x : Context} (c : Configuration) (hn : x.oven = pl.oven.number)
    (hs : x.stage = .prepare ∨ x.stage = .armed) (hm : pl.offtake.mode = .isolate) (hr : pl.offtake.sub = some .reached) :
    pl.ready c (some x) = pl.offtake.pressure.any fun v => decide (v ≤ (c.permitMax : Int)) := by
  rcases hs with hs | hs <;> simp [Place.ready, hn, hs, hm, hr]

/-- Place `i` of a part holds `pl` with the offtake record `o` and the doors `f`, its alarms aside. -/
def Part.DecidedAt (q : Part) (i : Nat) (pl : Place) (o : Offtake) (f : Side → Door) : Prop :=
  ∃ pl', q.places[i]? = some pl' ∧ pl'.offtake = o ∧ pl'.doorP = f .p ∧ pl'.doorC = f .c
    ∧ pl'.oven = { pl.oven with alarms := pl'.oven.alarms }

theorem Part.DecidedAt.of_places {q r : Part} {i : Nat} {pl : Place} {o : Offtake} {f : Side → Door}
    (h : q.DecidedAt i pl o f) (hp : r.places = q.places) : r.DecidedAt i pl o f := by
  obtain ⟨pl', place, record⟩ := h
  exact ⟨pl', by rw [hp, place], record⟩

section
variable {p : Part} {c : Configuration} {i : Nat} {pl : Place} {x : Context}

/-- The permit pass after a counted sample. -/
theorem Part.Shows.permitPass_decidedAt {y : Option Context} {l : SwitchInput → Bool} {o : Offtake} {set : Word16}
    (h : p.Shows i ((pl.withOfftake o).withAlarms set) y l) {ready : Bool}
    (hr : ((pl.withOfftake o).withAlarms set).ready c y = ready) :
    (Machine.permitPass c i p).DecidedAt i pl o fun side => (pl.door side).decide c ready (l (.leak side)) := by
  have door (side : Side) : (((pl.withOfftake o).withAlarms set).permits c y l).door side
      = (pl.door side).decide c ready (l (.leak side)) := by
    rw [Place.permits_door, hr]
    cases side <;> rfl
  exact ⟨_, (h.permitPass c).place, Place.permits_offtake .., door .p, door .c, (Place.permits_resealOnly c y l _).rest⟩

/-- In PREPARE or ARMED and ISOLATE REACHED the permit pass sees the sample's pressure. -/
theorem Part.Shows.validSample_decidedAt (h : p.Shows i pl (some x) (p.level i)) (hn : x.oven = pl.oven.number)
    (hs : x.stage = .prepare ∨ x.stage = .armed) (hm : pl.offtake.mode = .isolate) (hr : pl.offtake.sub = some .reached)
    {code : Nat} {ready : Bool} (hv : decide (convert c i code ≤ (c.permitMax : Int)) = ready) :
    (validSample c i code p).DecidedAt i pl (Claims.validCounted c (convert c i code) pl) fun side =>
      (pl.door side).decide c ready (p.level i (.leak side)) := by
  have counted := h.validCounted c (convert c i code)
  have sampled : validSample c i code p
      = Machine.permitPass c i (timeSample c i (convert c i code) (Machine.countSample c i (convert c i code) p)) :=
    congrArg (Machine.permitPass c i) (controlSample_inert counted.place (by simp [Claims.validCounted, Place.withAlarms, hm])
      (by simp [Claims.validCounted, Place.withAlarms, hm]))
  rw [sampled]
  refine counted.permitPass_decidedAt (Eq.trans ?_ hv)
  exact Place.ready_of_pressure c hn hs hm hr

/-- After an invalid sample there is no pressure that could keep a permit. -/
theorem Part.Shows.invalidSample_decidedAt (h : p.Shows i pl (some x) (p.level i)) :
    (invalidSample c i p).DecidedAt i pl (Claims.invalidCounted c pl.offtake) fun side =>
      (pl.door side).decide c false (p.level i (.leak side)) := by
  refine (h.invalidCounted c).permitPass_decidedAt ?_
  have pressure : (Claims.invalidCounted c pl.offtake).pressure = none := by
    unfold Claims.invalidCounted
    split
    · split <;> rfl
    · rfl
  cases ready : ((pl.withOfftake (Claims.invalidCounted c pl.offtake)).withAlarms (Claims.invalidAlarms pl)).ready c (some x)
  · rfl
  · simp [Place.ready, Place.withAlarms, pressure] at ready

/-! ## The ends of a transaction (R126, R127) -/

theorem transactionDone_valid (hs : Claims.scanAtPlace p i) {code : Nat} (hv : 1 ≤ code ∧ code ≤ 4094) :
    transactionDone c code p = nextPlace c (validSample c i code p) := by
  simp [transactionDone, hs.1, hs.2.1, hv]

theorem transactionDone_invalid (hs : Claims.scanAtPlace p i) {code : Nat} (hv : ¬(1 ≤ code ∧ code ≤ 4094)) :
    transactionDone c code p = nextPlace c (invalidSample c i p) := by
  simp only [transactionDone, hs.1, hs.2.1, if_true, if_neg hv, Nat.add_sub_cancel]

theorem channelNack_atPlace (hs : Claims.scanAtPlace p i) :
    channelNack c p = (nextPlace c (invalidSample c i p)).sendStop := by
  simp only [channelNack, hs.1, hs.2.1, if_true, Nat.add_sub_cancel]

end

/-- Settles O47: in ISOLATE a sample is counted and moves no valve, and the pressure it leaves decides for each door. -/
theorem permitFollowsTheSample : Obligations.PermitFollowsTheSample := by
  intro s c i pl x first second ho hx hs hm hr scan v valid moved decided released dropped
  obtain ⟨hc, -, -, number⟩ := id ho
  have shown : s.part.Shows i pl (some x) (s.part.level i) := hx ▸ ho.shows
  have counted {ready : Bool} (hv : decide (v ≤ (c.permitMax : Int)) = ready) :=
    shown.validSample_decidedAt number.symm hs hm hr hv
  have uncounted := shown.invalidSample_decidedAt (c := c)
  have toReleased : (fun side => (pl.door side).decide c true (s.part.level i (.leak side))) = released :=
    funext fun side => Door.decide_ready ..
  have toDropped : (fun side => (pl.door side).decide c false (s.part.level i (.leak side))) = dropped :=
    funext fun side => by rw [Door.decide_notReady, Door.enterSealed_eq]
  have transaction : s.Runs (.transactionComplete first second) (transactionDone c (Claims.code first second) s.part) :=
    State.whenLoaded_some hc _
  have nack : s.Runs .channelByteNack (channelNack c s.part) := State.whenLoaded_some hc _
  have ends {e : Instr} {q r p : Part} {o : Offtake} {f : Side → Door} (runs : s.Runs e r) (frame : OvenOnly i p r)
      (hd : q.DecidedAt i pl o f) (hp : r.places = q.places) : decided e p o f := by
    obtain ⟨pl', place⟩ := hd.of_places hp
    exact ⟨r, pl', runs, frame, place⟩
  obtain ⟨validMoved, validPlaces⟩ := (OvenOnly.validSample c i (Claims.code first second) s.part).nextPlace (c := c) scan
  obtain ⟨invalidMoved, invalidPlaces⟩ := (OvenOnly.invalidSample c i s.part).nextPlace (c := c) scan
  refine ⟨fun hv below => ?_, fun hv above => ?_, fun hv => ?_, ?_⟩
  · exact ends (transaction.congr (transactionDone_valid scan hv)) validMoved
      (toReleased ▸ counted (decide_eq_true below)) validPlaces
  · exact ends (transaction.congr (transactionDone_valid scan hv)) validMoved
      (toDropped ▸ counted (decide_eq_false (Int.not_le.mpr above))) validPlaces
  · rw [toDropped] at uncounted
    exact ends (transaction.congr (transactionDone_invalid scan hv)) invalidMoved uncounted invalidPlaces
  · rw [toDropped] at uncounted
    exact ends (nack.congr (channelNack_atPlace scan)) invalidMoved.sendStop uncounted invalidPlaces

end Sys2Proof.Machine


/-! SUPPORT. What the OCU makes of one offtake record keeps it sound (R71 to R93): the mode fixes valve and cap, and the fields
stand only in the modes that have them. -/

namespace Sys2Proof.Machine

open Sys2Proof

/-! ## Ranges (R72, R78 to R82) -/

@[simp] theorem Timer.active_stopped : Timer.stopped.active = false := rfl
@[simp] theorem Timer.active_running (n : Nat) : (Timer.running n).active = true := rfl

theorem clampInt_bounds {lo hi : Int} (h : lo ≤ hi) (x : Int) : lo ≤ clampInt lo hi x ∧ clampInt lo hi x ≤ hi := by
  unfold clampInt
  omega

theorem convert_bounds (c : Configuration) (i code : Nat) : -1000 ≤ convert c i code ∧ convert c i code ≤ 1000 :=
  clampInt_bounds (by decide) _

theorem clampAcc_le (x : Int) : clampAcc x ≤ 64000 := by
  have := clampInt_bounds (show (0 : Int) ≤ 64000 by decide) x
  unfold clampAcc
  omega

theorem integrate_le {c : Configuration} {acc : Nat} (h : acc ≤ 64000) (e trial : Int) : integrate c e trial acc ≤ 64000 := by
  unfold integrate
  split
  · exact h
  · exact clampAcc_le _

theorem clampBand_bounds {c : Configuration} (h : c.uMin < c.uMax) (u : Int) :
    c.uMin ≤ clampBand c u ∧ clampBand c u ≤ c.uMax := by
  have := clampInt_bounds (Int.ofNat_le.mpr h.le) u
  unfold clampBand
  omega

/-- The slew limit keeps a target of the band in the band (R80). -/
theorem slewLimit_bounds {c : Configuration} {target : Nat} (h : c.uMin ≤ target ∧ target ≤ c.uMax) (previous : Nat) :
    c.uMin ≤ slewLimit c previous target ∧ slewLimit c previous target ≤ c.uMax := by
  unfold slewLimit
  split <;> omega

namespace Offtake

/-- A record in HOLD with every timer stopped (R93). -/
theorem held_sound (c : Configuration) : (held c).Sound c := by simp [Sound, held]

namespace Sound

variable {c : Configuration} {o : Offtake}

/-! ## What the mode excludes -/

theorem outside_pi (h : o.Sound c) (hm : o.mode ≠ .pi) : o.entryPending = false ∧ o.highTimer.active = false := by
  simp_all [Sound]

theorem outside_isolate (h : o.Sound c) (hm : o.mode ≠ .isolate) :
    o.awaits = none ∧ o.valveTimer.active = false ∧ o.capTimer.active = false := by
  have awaits : o.awaits = none := by simp_all [Sound]
  simp_all [Sound]

theorem awaiting (h : o.Sound c) {which : Confirmation} (ha : o.awaits = some which) : o.mode = .isolate := by
  simp_all [Sound]

/-! ## Samples and the PI step (R72 to R82) -/

theorem countValid (h : o.Sound c) {x : Int} (hx : -1000 ≤ x ∧ x ≤ 1000) : (o.countValid x).Sound c := by
  simp_all [Sound, Offtake.countValid]

theorem countInvalid (h : o.Sound c) : o.countInvalid.Sound c := by
  simp_all [Sound, Offtake.countInvalid]

theorem timeHigh (h : o.Sound c) (raised : Bool) (x : Int) : (o.timeHigh c raised x).Sound c := by
  unfold Offtake.timeHigh
  split
  · simp_all [Sound]
  · split
    · next pi =>
      have := h.outside_isolate (by simp [pi])
      simp_all [Sound]
    · exact h

theorem piStep (h : o.Sound c) (hc : c.uMin < c.uMax) (hm : o.mode = .pi) (sp : Nat) (x : Int) : (o.piStep c sp x).Sound c := by
  have valve (u : Int) := slewLimit_bounds (clampBand_bounds hc u) o.valve
  have := h.outside_isolate (by simp [hm])
  simp_all [Sound, Offtake.piStep, integrate_le]

theorem entryStep (h : o.Sound c) (sp : Nat) (x : Int) : (o.entryStep c sp x).Sound c := by
  simp_all [Sound, Offtake.entryStep, clampAcc_le]

theorem control (h : o.Sound c) (hc : c.uMin < c.uMax) (hm : o.mode = .pi) (sp : Nat) (x : Int) : (o.control c sp x).Sound c := by
  unfold Offtake.control
  split
  · exact h.entryStep sp x
  · exact h.piStep hc hm sp x

/-! ## Mode entries (R81, R92) -/

theorem enterPi (h : o.Sound c) (hc : c.uMin < c.uMax) : (o.enterPi c).Sound c := by
  have valve := clampBand_bounds hc (o.valve : Int)
  simp_all [Sound, Offtake.enterPi]

theorem enterHold (h : o.Sound c) : (o.enterHold c).Sound c := by
  simp_all [Sound, Offtake.enterHold]

theorem enterControl (h : o.Sound c) (hc : c.uMin < c.uMax) : (o.enterControl c).Sound c := by
  unfold Offtake.enterControl
  split
  · exact h.enterHold
  · exact h.enterPi hc

/-! ## Sequences (R85 to R88) -/

theorem isolateReached (h : o.Sound c) (ha : o.awaits = some .capOpen) : o.isolateReached.Sound c := by
  have := h.outside_pi (by simp [h.awaiting ha])
  simp_all [Sound, Offtake.isolateReached]

theorem isolateValveClosed (h : o.Sound c) (hm : o.mode = .isolate) (lv : OfftakeLevels) :
    (o.isolateValveClosed lv).Sound c := by
  unfold Offtake.isolateValveClosed
  have opening : ({ o with
      sub := some .moving, awaits := some .capOpen, capOpen := true
      valveTimer := .stopped, capTimer := .running capMotionMs } : Offtake).Sound c := by
    simp_all [Sound]
  dsimp only
  split
  · exact opening.isolateReached rfl
  · exact opening

theorem awaitValveClosed (h : o.Sound c) (hm : o.mode = .isolate) : o.awaitValveClosed.Sound c := by
  simp_all [Sound, Offtake.awaitValveClosed]

theorem startIsolate (h : o.Sound c) (lv : OfftakeLevels) : (o.startIsolate lv).Sound c := by
  unfold Offtake.startIsolate
  have closing : ({ o.awaitValveClosed with
      mode := .isolate, next := none, valve := 0, entryPending := false, highTimer := .stopped } : Offtake).Sound c := by
    simp_all [Sound, Offtake.awaitValveClosed]
  dsimp only
  split
  · exact closing.isolateValveClosed rfl lv
  · exact closing

theorem closeCapToward (h : o.Sound c) (next : NextMode) : (o.closeCapToward next).Sound c := by
  simp_all [Sound, Offtake.closeCapToward]

theorem aspirateReached (h : o.Sound c) (ha : o.awaits = some .capClosed) : o.aspirateReached.Sound c := by
  have := h.outside_pi (by simp [h.awaiting ha])
  simp_all [Sound, Offtake.aspirateReached]

theorem startAspirate (h : o.Sound c) (lv : OfftakeLevels) : (o.startAspirate lv).Sound c := by
  unfold Offtake.startAspirate
  split
  · exact (h.closeCapToward .aspirate).aspirateReached rfl
  · exact h.closeCapToward .aspirate

theorem startReturn (h : o.Sound c) (hc : c.uMin < c.uMax) (lv : OfftakeLevels) : (o.startReturn c lv).Sound c := by
  unfold Offtake.startReturn
  split
  · exact (h.closeCapToward .pi).enterControl hc
  · exact h.closeCapToward .pi

/-! ## Mode calls (R84, R90, R91) -/

theorem startMode (h : o.Sound c) (hc : c.uMin < c.uMax) (lv : OfftakeLevels) (call : ModeCall) :
    (o.startMode c lv call).Sound c := by
  cases call with
  | isolate => exact h.startIsolate lv
  | aspirate => exact h.startAspirate lv
  | control =>
    dsimp only [Offtake.startMode]
    split
    · exact h.enterControl hc
    · exact h.startReturn hc lv
  | hold => exact h.enterHold

theorem callMode (h : o.Sound c) (hc : c.uMin < c.uMax) (lv : OfftakeLevels) (call : ModeCall) :
    (o.callMode c lv call).Sound c := by
  unfold Offtake.callMode
  split
  · exact h
  · exact h.startMode hc lv call

theorem phaseChange (h : o.Sound c) (hc : c.uMin < c.uMax) (lv : OfftakeLevels) (old new : Phase) :
    (o.phaseChange c lv old new).Sound c := by
  have timed (t : Timer) : ({ o with aspirateTimer := t } : Offtake).Sound c := h
  unfold Offtake.phaseChange
  split
  · split
    · exact h.enterControl hc
    · exact timed _
  · exact (timed _).callMode hc lv _

/-! ## Switches and timers (R74, R85 to R89) -/

theorem regain (h : o.Sound c) (lv : OfftakeLevels) : (o.regain lv).Sound c := by
  unfold Offtake.regain
  split
  · simp_all [Sound, lost]
  · exact h

theorem confirm (h : o.Sound c) (hc : c.uMin < c.uMax) (lv : OfftakeLevels) (which : Confirmation) :
    (o.confirm c lv which).Sound c := by
  unfold Offtake.confirm
  split
  · next ha =>
    cases which with
    | valveClosed => exact h.isolateValveClosed (h.awaiting ha) lv
    | capOpen => exact h.isolateReached ha
    | capClosed =>
      dsimp only
      split
      · exact h.aspirateReached ha
      · exact h.enterControl hc
  · exact h.regain lv

theorem unconfirm (h : o.Sound c) (which : Confirmation) : (o.unconfirm which).Sound c := by
  unfold Offtake.unconfirm
  split
  · simp_all [Sound, losesReached]
  · split
    · next back => exact h.awaitValveClosed (h.awaiting back.2)
    · exact h

/-- A motion timer runs only in the ISOLATE mode, and not both (R85 to R88). -/
theorem moving (h : o.Sound c) (hv : o.valveTimer.active = true ∨ o.capTimer.active = true) :
    o.mode = .isolate ∧ (o.valveTimer.active = false ∨ o.capTimer.active = false) := by
  have mode : o.mode = .isolate := by
    by_contra hm
    simp [h.outside_isolate hm] at hv
  refine ⟨mode, ?_⟩
  by_contra both
  simp_all [Sound]

theorem valveTimerExpired (h : o.Sound c) (hv : o.valveTimer.active = true) :
    ({ o with valveTimer := .stopped, sub := some .failed } : Offtake).Sound c := by
  obtain ⟨mode, one⟩ := h.moving (.inl hv)
  have := h.outside_pi (by simp [mode])
  simp_all [Sound]

theorem capTimerExpired (h : o.Sound c) (hv : o.capTimer.active = true) :
    ({ o with capTimer := .stopped, sub := some .failed } : Offtake).Sound c := by
  obtain ⟨mode, one⟩ := h.moving (.inr hv)
  have := h.outside_pi (by simp [mode])
  simp_all [Sound]

theorem highTimerExpired (h : o.Sound c) : ({ o with highTimer := .stopped } : Offtake).Sound c := by
  simp_all [Sound]

end Sound

/-! ## The start (R93) -/

theorem start_sound (c : Configuration) (phase : Phase) (lv : OfftakeLevels) : (start c phase lv).Sound c := by
  unfold start
  split
  · exact (held_sound c).startIsolate lv
  · exact held_sound c

end Offtake

end Sys2Proof.Machine

/-! SUPPORT. The promise about the offtakes on its way through a command (R71, R80, R83, R124): what it reads of a part, the
operations that leave that alone, and the store of a sound record. -/

namespace Sys2Proof.Machine

open Sys2Proof

/-! ## What the promise is about -/

/-- What the promise about the offtakes reads of a part: the records and the compare buffers. -/
structure OfftakeView where
  config : Option Configuration
  offtakes : List Offtake
  buffered : List Nat

def Part.offtakeView (p : Part) : OfftakeView :=
  { config := p.config, offtakes := p.places.map (·.offtake), buffered := p.fls.channels.map (·.buffered) }

/-- The promise about the offtakes of a part loaded with `c`. -/
structure Part.OfftakesHold (c : Configuration) (p : Part) : Prop where
  config : p.config = some c
  range : c.uMin < c.uMax ∧ c.uMax ≤ 1000 ∧ c.ovenCount ≤ 8
  sound : ∀ (j : Nat) (pl : Place), p.places[j]? = some pl → pl.offtake.Sound c
  buffer : ∀ (j : Nat) (pl : Place), p.places[j]? = some pl →
    (p.fls.channels[j]?.map fun ch => ch.buffered) = some pl.offtake.valve

namespace Part.OfftakesHold

variable {c : Configuration} {p q : Part}

theorem band (h : p.OfftakesHold c) : c.uMin < c.uMax := h.range.1

theorem of_view_eq (h : p.OfftakesHold c) (hv : q.offtakeView = p.offtakeView) : q.OfftakesHold c := by
  simp only [Part.offtakeView, OfftakeView.mk.injEq] at hv
  obtain ⟨config, offtakes, buffered⟩ := hv
  have before (j : Nat) (pl' : Place) (hj : q.places[j]? = some pl') :
      ∃ pl, p.places[j]? = some pl ∧ pl.offtake = pl'.offtake := by
    have := congrArg (·[j]?) offtakes
    simp only [List.getElem?_map, hj, Option.map_some] at this
    exact Option.map_eq_some_iff.mp this.symm
  refine ⟨config.trans h.config, h.range, fun j pl' hj => ?_, fun j pl' hj => ?_⟩
  all_goals obtain ⟨pl, hpl, e⟩ := before j pl' hj
  · exact e ▸ h.sound j pl hpl
  · have same := congrArg (·[j]?) buffered
    simp only [List.getElem?_map] at same
    rw [same, ← e]
    exact h.buffer j pl hpl

/-- A sound record stored, its valve command written to the channel (R71, R80). -/
theorem stored (h : p.OfftakesHold c) (i : Nat) {o : Offtake} (ho : o.Sound c) :
    ((p.setOfftake i o).writeValve i o.valve).OfftakesHold c := by
  have places (j : Nat) (pl : Place) (hj : (p.setOfftake i o).places[j]? = some pl) :
      ∃ old, p.places[j]? = some old ∧ pl.offtake = if i = j then o else old.offtake := by
    simp only [Part.setOfftake, Part.modifyPlace, List.getElem?_modify] at hj
    obtain ⟨old, hold, rfl⟩ := Option.map_eq_some_iff.mp hj
    refine ⟨old, hold, ?_⟩
    split <;> rfl
  refine ⟨h.config, h.range, fun j pl hj => ?_, fun j pl hj => ?_⟩
  all_goals obtain ⟨old, hold, e⟩ := places j pl hj
  · rw [e]
    split
    · exact ho
    · exact h.sound j old hold
  · obtain ⟨ch, hch, buffered⟩ := Option.map_eq_some_iff.mp (h.buffer j old hold)
    have here : ((p.setOfftake i o).writeValve i o.valve).fls.channels[j]?
        = some (if i = j then { ch with buffered := o.valve } else ch) := by
      simp only [Part.writeValve, Part.setOfftake, modifyPlace_fls, List.getElem?_modify, hch, Option.map_eq_map,
        Option.map_some]
    rw [here, e]
    split
    · rfl
    · exact congrArg some buffered

theorem ite {b : Prop} [Decidable b] (hp : p.OfftakesHold c) (hq : q.OfftakesHold c) : (if b then p else q).OfftakesHold c := by
  split
  · exact hp
  · exact hq

theorem withLocal (h : p.OfftakesHold c) {n : Nat} {f : Nat → Part} (hf : ∀ i, (f i).OfftakesHold c) :
    (withLocal c n p f).OfftakesHold c := by
  unfold Machine.withLocal
  split
  · exact h
  · exact hf _

theorem foldl {α : Type} {f : Part → α → Part} (hf : ∀ (q : Part) (a : α), q.OfftakesHold c → (f q a).OfftakesHold c)
    (h : p.OfftakesHold c) (l : List α) : (l.foldl f p).OfftakesHold c := by
  induction l generalizing p with
  | nil => exact h
  | cons a l ih => exact ih (hf p a h)

end Part.OfftakesHold

/-! ## Changes the promise does not see -/

section
variable (c : Configuration) (i : Nat) (p : Part)

theorem offtakeView_modifyPlace {f : Place → Place} (hf : ∀ pl, (f pl).offtake = pl.offtake) :
    (p.modifyPlace i f).offtakeView = p.offtakeView := by
  have offtakes : (p.places.modify i f).map (·.offtake) = p.places.map (·.offtake) := by
    refine List.ext_getElem? fun j => ?_
    simp only [List.getElem?_map, List.getElem?_modify, Option.map_eq_map, Option.map_map]
    congr 1
    funext pl
    simp only [Function.comp_apply]
    split
    · exact hf pl
    · rfl
  simp only [Part.offtakeView, modifyPlace_config, modifyPlace_fls, ← offtakes]
  rfl

@[simp] theorem offtakeView_modifyOven (f : Oven → Oven) : (p.modifyOven i f).offtakeView = p.offtakeView :=
  offtakeView_modifyPlace i p fun _ => rfl

@[simp] theorem offtakeView_offer (k : Kind) (sub : Subject) (b : List Byte) : (p.offer k sub b).offtakeView = p.offtakeView :=
  rfl

@[simp] theorem offtakeView_offerChr (n : Nat) (r : ChrReason) : (offerChr n r p).offtakeView = p.offtakeView := rfl

@[simp] theorem offtakeView_decideRelay : (p.decideRelay c).offtakeView = p.offtakeView := rfl

@[simp] theorem offtakeView_offerOvs : (p.offerOvs i).offtakeView = p.offtakeView := by
  simp only [Part.offtakeView, offerOvs_config, offerOvs_places, offerOvs_fls]

@[simp] theorem offtakeView_setAlarms (set : Word16) : (setOvenAlarms c i set p).offtakeView = p.offtakeView := by
  unfold setOvenAlarms
  split
  · rfl
  · split
    · rfl
    · rw [offtakeView_offerOvs, offtakeView_decideRelay, offtakeView_modifyOven]

@[simp] theorem offtakeView_hold (a : OvenAlarm) (on : Bool) : (holdOven c i a on p).offtakeView = p.offtakeView := by
  unfold holdOven raiseOven removeOven
  split <;> split
  · rfl
  · exact offtakeView_setAlarms ..
  · rfl
  · exact offtakeView_setAlarms ..

@[simp] theorem offtakeView_raise (a : OvenAlarm) : (raiseOven c i a p).offtakeView = p.offtakeView :=
  offtakeView_hold c i p a true

@[simp] theorem offtakeView_remove (a : OvenAlarm) : (removeOven c i a p).offtakeView = p.offtakeView :=
  offtakeView_hold c i p a false

@[simp] theorem offtakeView_evalOverdue : (evalOverdue c i p).offtakeView = p.offtakeView := by
  unfold evalOverdue
  split
  · rfl
  · exact offtakeView_hold ..

@[simp] theorem offtakeView_setHold (on : Bool) : (setHold i on p).offtakeView = p.offtakeView := by
  unfold setHold
  split
  · rfl
  · split
    · rfl
    · rw [offtakeView_offerOvs, offtakeView_modifyOven]

@[simp] theorem offtakeView_cancelOnPhase (o : Oven) : (cancelOnPhase i o p).offtakeView = p.offtakeView := by
  unfold cancelOnPhase
  split
  · rw [offtakeView_offerChr, offtakeView_modifyOven]
  · rfl

@[simp] theorem offtakeView_commitDoor (side : Side) (d : Door) : (commitDoor c i side d p).offtakeView = p.offtakeView := by
  have stored : (p.setDoor i side d).offtakeView = p.offtakeView :=
    offtakeView_modifyPlace i p fun pl => Place.withDoor_offtake pl side d
  unfold commitDoor
  split
  · rfl
  · refine (offtakeView_hold ..).trans ?_
    split
    · exact stored
    · exact (offtakeView_offerOvs ..).trans stored

@[simp] theorem offtakeView_permitPass : (permitPass c i p).offtakeView = p.offtakeView := by
  have one (side : Side) (q : Part) : (permitDecide c i side q).offtakeView = q.offtakeView := by
    unfold permitDecide
    split
    · rfl
    · dsimp only
      split
      · rfl
      · exact offtakeView_commitDoor ..
  exact (one .c _).trans (one .p p)

@[simp] theorem offtakeView_modifyContext (f : Context → Context) : (modifyContext f p).offtakeView = p.offtakeView := rfl

@[simp] theorem offtakeView_setContext (x : Option Context) : (setContext c i x p).offtakeView = p.offtakeView :=
  offtakeView_permitPass c i { p with psq := { p.psq with context := x } }

theorem offtakeView_withLocal {p : Part} {n : Nat} {f : Nat → Part} (hf : ∀ i, (f i).offtakeView = p.offtakeView) :
    (withLocal c n p f).offtakeView = p.offtakeView := by
  unfold withLocal
  split
  · rfl
  · exact hf _

@[simp] theorem offtakeView_testArmed (n : Nat) : (testArmed c n p).offtakeView = p.offtakeView := by
  unfold testArmed
  split
  · rfl
  · refine offtakeView_withLocal c fun i => ?_
    split
    · rfl
    · split
      · exact offtakeView_setContext ..
      · rfl

theorem OrdersOnly.offtakeView_eq {p q : Part} (h : OrdersOnly p q) : q.offtakeView = p.offtakeView := by
  simp only [Part.offtakeView, h.config_eq, h.places_eq, h.fls_eq]

end

end Sys2Proof.Machine

/-! SUPPORT. The reactions keep the promise about the offtakes: each stores only records that the OCU makes of a sound one
(R84 to R92), and the push, the charge and the doors reach an offtake in no other way (R13 to R16, R38 to R56). -/

namespace Sys2Proof.Machine

open Sys2Proof

section
variable {c : Configuration} {p : Part} (h : p.OfftakesHold c) (i : Nat)
include h

/-! ## A record stored -/

theorem commitOfftake_offtakesHold {o : Offtake} (ho : o.Sound c) : (commitOfftake i o p).OfftakesHold c := by
  unfold commitOfftake
  split
  · exact h
  · dsimp only
    split
    · exact h.stored i ho
    · exact (h.stored i ho).of_view_eq (offtakeView_offerOvs ..)

theorem settleOfftake_offtakesHold {o : Offtake} (ho : o.Sound c) : (settleOfftake c i o p).OfftakesHold c :=
  (commitOfftake_offtakesHold h i ho).of_view_eq (offtakeView_permitPass ..)

/-- What a call for a mode makes of a record is sound. -/
theorem callMode_sound {pl : Place} (hpl : p.places[i]? = some pl) (lv : OfftakeLevels) (call : ModeCall) :
    (pl.offtake.callMode c lv call).Sound c := (h.sound i pl hpl).callMode h.band lv call

/-! ## Phases (R5, R84, R91) -/

theorem ocuPhaseChange_offtakesHold (old new : Phase) : (ocuPhaseChange c i old new p).OfftakesHold c := by
  unfold ocuPhaseChange
  split
  · exact h
  · next pl hpl => exact settleOfftake_offtakesHold h i ((h.sound i pl hpl).phaseChange h.band _ old new)

theorem setPhase_offtakesHold (new : Phase) : (setPhase c i new p).OfftakesHold c := by
  unfold setPhase
  split
  · exact h
  · refine .ite h (ocuPhaseChange_offtakesHold (h.of_view_eq ?_) i _ new)
    simp

theorem setByAge_offtakesHold : (setByAge c i p).OfftakesHold c := by
  unfold setByAge
  split
  · exact h
  · exact setPhase_offtakesHold h i _

theorem loseOven_offtakesHold : (loseOven c i p).OfftakesHold c :=
  (setPhase_offtakesHold h i .unknown).of_view_eq (offtakeView_raise ..)

/-! ## Requests for ISOLATE and PI (R40, R55) -/

theorem askIsolate_offtakesHold : (askIsolate c i p).OfftakesHold c := by
  unfold askIsolate
  split
  · exact h
  · next pl hpl =>
    have settled := settleOfftake_offtakesHold h i (callMode_sound h i hpl (p.offtakeLevels i) .isolate)
    exact .ite (settled.of_view_eq (offtakeView_testArmed ..)) settled

theorem endReturn_offtakesHold : (endReturn c i p).OfftakesHold c :=
  setByAge_offtakesHold (h.of_view_eq ((offtakeView_setContext ..).trans (offtakeView_setHold ..))) i

theorem askPi_offtakesHold : (askPi c i p).OfftakesHold c := by
  unfold askPi
  split
  · exact h
  · next pl hpl =>
    have asked := h.of_view_eq (offtakeView_modifyContext p fun x => { x with piRequested := true })
    have settled := settleOfftake_offtakesHold asked i (callMode_sound h i hpl (p.offtakeLevels i) .control)
    exact .ite (endReturn_offtakesHold settled i) settled

theorem returnDoorsTest_offtakesHold : (returnDoorsTest c i p).OfftakesHold c := by
  unfold returnDoorsTest
  split
  · exact .ite (askPi_offtakesHold h i) h
  · exact h

/-! ## Aborts (R51, R52, R54) -/

theorem abort_offtakesHold (r : AbortReason) : (abort c r p).OfftakesHold c := by
  unfold abort
  split
  · exact h
  · refine h.withLocal fun i => returnDoorsTest_offtakesHold (h.of_view_eq ?_) i
    rw [offtakeView_permitPass, (OrdersOnly.withdraw _).offtakeView_eq, offtakeView_raise, offtakeView_modifyContext]

theorem abortIfOpen_offtakesHold (n : Nat) (r : AbortReason) : (abortIfOpen c n r p).OfftakesHold c := by
  unfold abortIfOpen
  split
  · exact h
  · exact .ite (abort_offtakesHold h r) h

theorem panelAbort_offtakesHold (n : Nat) : (panelAbort c n p).OfftakesHold c := by
  unfold panelAbort
  split
  · exact h
  · exact .ite (abortIfOpen_offtakesHold h _ _) h

/-! ## Ram start and ram home (R44 to R50) -/

theorem closingDoorsTest_offtakesHold : (closingDoorsTest c i p).OfftakesHold c := by
  unfold closingDoorsTest
  split
  · exact .ite ((setPhase_offtakesHold h i .empty).of_view_eq (offtakeView_setContext ..)) h
  · exact h

theorem ramInContext_offtakesHold (x : Context) : (ramInContext c i x p).OfftakesHold c := by
  have started (u : Bool) : (startRam c i x u p).OfftakesHold c := h.of_view_eq (offtakeView_setContext ..)
  have unpermitted := (started true).of_view_eq (offtakeView_raise c i _ .pushUnpermitted)
  unfold ramInContext
  split
  · exact .ite (started false) unpermitted
  · exact unpermitted
  · exact askIsolate_offtakesHold unpermitted i
  · exact h
  · exact h.of_view_eq (offtakeView_raise ..)

theorem ramStarts_offtakesHold (n : Nat) : (ramStarts c i n p).OfftakesHold c := by
  unfold ramStarts
  split
  · have begun := (setPhase_offtakesHold h i .pushing).of_view_eq
      ((offtakeView_raise c i _ .pushUnpermitted).trans (offtakeView_setContext c i _ (some (Context.unannounced n))))
    exact .ite (askIsolate_offtakesHold begun i) (loseOven_offtakesHold h i)
  · next x _ => exact .ite (ramInContext_offtakesHold h i x) (loseOven_offtakesHold h i)

omit h in
theorem offtakeView_offerPdn (e : PendingPdn) (p : Part) : (offerPdn e p).offtakeView = p.offtakeView := by
  unfold offerPdn
  split <;> rfl

omit h in
theorem offtakeView_orderAtHome (c : Configuration) (kind : OrderKind) (p : Part) :
    (orderAtHome c kind p).offtakeView = p.offtakeView := by
  unfold orderAtHome
  split
  · exact (OrdersOnly.append kind p).offtakeView_eq
  · rfl

theorem ramHome_offtakesHold (x : Context) (stroke : Nat) : (ramHome c i x stroke p).OfftakesHold c := by
  refine closingDoorsTest_offtakesHold (h.of_view_eq ?_) i
  rw [offtakeView_setContext, offtakeView_orderAtHome, offtakeView_orderAtHome, offtakeView_offerPdn]

/-! ## Limits and push asks (R41 to R50, R55) -/

theorem prepareLimit_offtakesHold : (prepareLimit c p).OfftakesHold c := by
  unfold prepareLimit
  split
  · exact h
  · have marked := h.of_view_eq (offtakeView_modifyContext p fun x => { x with prepareLimit := .expired })
    exact .ite (.ite (abort_offtakesHold marked _) marked) h

theorem armedLimit_offtakesHold : (armedLimit c p).OfftakesHold c := by
  unfold armedLimit
  split
  · exact h
  · exact .ite (abort_offtakesHold h _) h

theorem rmhLimit_offtakesHold : (rmhLimit c p).OfftakesHold c := by
  unfold rmhLimit
  split
  · exact h
  · exact .ite (h.withLocal fun i => h.of_view_eq ((offtakeView_raise ..).trans (offtakeView_modifyContext ..))) h

theorem doorLimit_offtakesHold : (doorLimit c p).OfftakesHold c := by
  unfold doorLimit
  split
  · exact h
  · exact .ite (h.withLocal fun i => h.of_view_eq ((offtakeView_raise ..).trans (offtakeView_modifyContext ..))) h

theorem pushAsk_offtakesHold (n : Nat) : (pushAsk c i n p).OfftakesHold c := by
  have answered : (answerArmed c i n p).OfftakesHold c := by
    unfold answerArmed
    split
    · exact h.of_view_eq rfl
    · exact .ite (h.of_view_eq rfl) h
  unfold pushAsk
  split
  · exact h.of_view_eq rfl
  · exact .ite answered (h.of_view_eq rfl)

/-! ## The round won and the SPOT's outcome (R39, R53, R56) -/

theorem orderSpot_offtakesHold (n : Nat) : (orderSpot c n p).OfftakesHold c :=
  .ite (h.of_view_eq (OrdersOnly.append _ p).offtakeView_eq) (abort_offtakesHold h _)

theorem takeWin_offtakesHold (n : Nat) : (takeWin c n p).OfftakesHold c := by
  refine h.withLocal fun i => .ite (orderSpot_offtakesHold (askIsolate_offtakesHold ?_ i) n) h
  exact (setPhase_offtakesHold h i .pushing).of_view_eq (offtakeView_setContext ..)

theorem takeOutcome_offtakesHold (r : Outcome) : (takeOutcome c r p).OfftakesHold c := by
  unfold takeOutcome
  split
  · exact h
  · next x _ =>
    have heard := h.of_view_eq (offtakeView_modifyContext p fun x => { x with spotAwaited := false })
    have failed (reason : AbortReason) := Part.OfftakesHold.ite (b := x.stage = .prepare) (abort_offtakesHold heard reason) heard
    refine .ite ?_ h
    cases r with
    | done => exact heard.of_view_eq (offtakeView_testArmed ..)
    | refused => exact failed .carRefused
    | timeout => exact failed .carTimeout

/-! ## Reports told (R14, R15, R40, R51, R55) -/

theorem chargeBegins_offtakesHold : (chargeBegins c i p).OfftakesHold c := by
  unfold chargeBegins
  split
  · exact h
  · have freed := h.of_view_eq (offtakeView_modifyOven i p fun o => { o with inFlight := false })
    have begun := (setPhase_offtakesHold freed i .charging).of_view_eq
      (offtakeView_modifyOven i _ fun o => { o with chargeLimit := .running chargeLimitMs })
    exact .ite (.ite (begun.of_view_eq rfl) (begun.of_view_eq (offtakeView_modifyOven ..))) h

/-- A charge start cancelled with its request for ISOLATE. -/
theorem chargeCancelled_offtakesHold (n : Nat) (r : ChrReason) : (chargeCancelled c i n r p).OfftakesHold c :=
  askIsolate_offtakesHold (h.of_view_eq ((offtakeView_offerChr ..).trans (offtakeView_modifyOven ..))) i

theorem chargeFails_offtakesHold : (chargeFails c i p).OfftakesHold c := by
  unfold chargeFails
  split
  · exact h
  · exact .ite (chargeCancelled_offtakesHold h i _ .cap) h

theorem returnAnswered_offtakesHold (n : Nat) : (returnAnswered c i n p).OfftakesHold c := by
  unfold returnAnswered
  split
  · exact h
  · exact .ite (endReturn_offtakesHold h i) h

theorem tellReport_offtakesHold (n : Nat) (r : Report) : (tellReport c i n r p).OfftakesHold c := by
  cases r with
  | aspirateReached => exact chargeBegins_offtakesHold h i
  | aspirateFailed => exact chargeFails_offtakesHold h i
  | isolateReached => exact h.of_view_eq (offtakeView_testArmed ..)
  | isolateFailed => exact abortIfOpen_offtakesHold h n .isolateFail
  | piEntered => exact returnAnswered_offtakesHold h i n
  | returnFailed => exact returnAnswered_offtakesHold h i n

theorem tellOfftake_offtakesHold {new : Offtake} (hn : new.Sound c) (alarm : Option OvenAlarm) :
    (tellOfftake c i new alarm p).OfftakesHold c := by
  unfold tellOfftake
  split
  · exact h
  · next pl _ =>
    have stored := commitOfftake_offtakesHold h i hn
    have told (q : Part) (hq : q.OfftakesHold c) :
        (match reportOf pl.offtake new with
          | none => q
          | some r => tellReport c i pl.oven.number r q).OfftakesHold c := by
      split
      · exact hq
      · exact tellReport_offtakesHold hq i _ _
    refine Part.OfftakesHold.of_view_eq ?_ (offtakeView_permitPass ..)
    cases alarm with
    | none => exact told _ stored
    | some a => exact told _ (stored.of_view_eq (offtakeView_raise ..))

/-! ## Door changes told (R16, R40 to R55) -/

theorem returnToPrepare_offtakesHold (x : Context) : (returnToPrepare c i x p).OfftakesHold c := by
  have back := h.of_view_eq
    (offtakeView_setContext c i p (some { x with stage := .prepare, armedLimit := .stopped, permit := .stopped }))
  exact .ite (abort_offtakesHold back _) back

theorem psqDoorChange_offtakesHold (old new : DoorState) (x : Context) : (psqDoorChange c i old new x p).OfftakesHold c := by
  unfold psqDoorChange
  split
  · exact .ite (abort_offtakesHold h _) (h.of_view_eq (offtakeView_testArmed ..))
  · exact .ite (abort_offtakesHold h _) (.ite (returnToPrepare_offtakesHold h i x) h)
  · exact h
  · exact closingDoorsTest_offtakesHold h i
  · exact .ite (askIsolate_offtakesHold (h.of_view_eq (offtakeView_modifyContext ..)) i) (returnDoorsTest_offtakesHold h i)

theorem cancelOnDoor_offtakesHold (new : DoorState) : (cancelOnDoor c i new p).OfftakesHold c := by
  unfold cancelOnDoor
  split
  · exact h
  · exact .ite (chargeCancelled_offtakesHold h i _ .doors) h

theorem tellDoor_offtakesHold (old new : DoorState) : (tellDoor c i old new p).OfftakesHold c := by
  have cancelled := cancelOnDoor_offtakesHold h i new
  unfold tellDoor
  split
  · exact h
  · split
    · exact h
    · dsimp only
      split
      · exact cancelled
      · next x _ => exact .ite (psqDoorChange_offtakesHold cancelled i old new x) cancelled

theorem changeDoor_offtakesHold (side : Side) (d : Door) : (changeDoor c i side d p).OfftakesHold c := by
  unfold changeDoor
  split
  · exact h
  · refine tellDoor_offtakesHold (.foldl (fun q a hq => hq.of_view_eq (offtakeView_raise c i q a)) ?_ _) i _ _
    exact h.of_view_eq (offtakeView_commitDoor ..)

end

end Sys2Proof.Machine

/-! SUPPORT. What the commands do keeps the promise about the offtakes, or is not seen by it (R2 to R56, R66 to R92, R110 to
R135). -/

namespace Sys2Proof.Machine

open Sys2Proof

section
variable {c : Configuration} {p : Part} (h : p.OfftakesHold c) (i : Nat)
include h

/-! ## Switches (R60, R85 to R89, R121, R122) -/

theorem offtakeSwitch_offtakesHold (which : Confirmation) (v : Bool) : (offtakeSwitch c i which v p).OfftakesHold c := by
  unfold offtakeSwitch
  split
  · exact h
  · next pl hpl =>
    have sound := h.sound i pl hpl
    exact .ite (tellOfftake_offtakesHold h i (sound.confirm h.band _ which) _)
      (tellOfftake_offtakesHold h i (sound.unconfirm which) _)

theorem doorSwitch_offtakesHold (input : SwitchInput) (v : Bool) : (doorSwitch c i input v p).OfftakesHold c := by
  unfold doorSwitch
  split
  · exact h
  · cases input with
    | present side => exact changeDoor_offtakesHold h i side _
    | latched side => exact changeDoor_offtakesHold h i side _
    | leak side => exact changeDoor_offtakesHold h i side _
    | valveClosed => exact h
    | capOpen => exact h
    | capClosed => exact h

theorem deliver_offtakesHold (input : SwitchInput) (v : Bool) : (deliver c i input v p).OfftakesHold c := by
  unfold deliver
  split
  · exact offtakeSwitch_offtakesHold h i _ v
  · exact doorSwitch_offtakesHold h i input v

theorem debounce_offtakesHold (input : SwitchInput) : (debounce i input p).OfftakesHold c := by
  unfold debounce
  split
  · exact h
  · next x _ =>
    have stored : ({ p with fls := { p.fls with
        inputs := p.fls.inputs.modify i fun y => y.set input (x.get input).settle } } : Part).OfftakesHold c := h.of_view_eq rfl
    refine .ite ?_ h
    dsimp only
    split
    · next d _ v hd _ _ =>
      obtain rfl : c = d := Option.some.inj (h.config.symm.trans hd)
      exact deliver_offtakesHold stored i input v
    · exact stored

/-! ## Timers (R66 to R68, R74, R88, R91) -/

theorem leakExpires_offtakesHold (side : Side) : (leakExpires c side i p).OfftakesHold c := by
  unfold leakExpires
  split
  · exact h
  · exact .ite (changeDoor_offtakesHold h i side _) h

theorem clearExpires_offtakesHold (side : Side) : (clearExpires c side i p).OfftakesHold c := by
  unfold clearExpires
  split
  · exact h
  · exact .ite (changeDoor_offtakesHold h i side _) h

theorem leakingSpellExpires_offtakesHold (side : Side) : (leakingSpellExpires c side i p).OfftakesHold c := by
  unfold leakingSpellExpires
  split
  · exact h
  · exact .ite (h.of_view_eq (offtakeView_commitDoor ..)) h

theorem sealedSpellExpires_offtakesHold (side : Side) : (sealedSpellExpires c side i p).OfftakesHold c := by
  unfold sealedSpellExpires
  split
  · exact h
  · exact .ite (h.of_view_eq (offtakeView_commitDoor ..)) h

theorem valveTimerExpires_offtakesHold : (valveTimerExpires c i p).OfftakesHold c := by
  unfold valveTimerExpires
  split
  · exact h
  · next pl hpl =>
    split
    · next on => exact tellOfftake_offtakesHold h i ((h.sound i pl hpl).valveTimerExpired on) _
    · exact h

theorem capTimerExpires_offtakesHold : (capTimerExpires c i p).OfftakesHold c := by
  unfold capTimerExpires
  split
  · exact h
  · next pl hpl =>
    split
    · next on => exact tellOfftake_offtakesHold h i ((h.sound i pl hpl).capTimerExpired on) _
    · exact h

theorem highTimerExpires_offtakesHold : (highTimerExpires c i p).OfftakesHold c := by
  unfold highTimerExpires
  split
  · exact h
  · next pl hpl =>
    have stopped := commitOfftake_offtakesHold h i (h.sound i pl hpl).highTimerExpired
    exact .ite (stopped.of_view_eq (offtakeView_raise ..)) h

theorem aspirateHoldExpires_offtakesHold : (aspirateHoldExpires c i p).OfftakesHold c := by
  unfold aspirateHoldExpires
  split
  · exact h
  · next pl hpl => exact .ite (settleOfftake_offtakesHold h i ((h.sound i pl hpl).enterControl h.band)) h

/-! ## Samples and the scan (R72 to R92, R125 to R128) -/

theorem countSample_offtakesHold {x : Int} (hx : -1000 ≤ x ∧ x ≤ 1000) : (countSample c i x p).OfftakesHold c := by
  unfold countSample
  split
  · exact h
  · next pl hpl =>
    have counted := (h.sound i pl hpl).countValid hx
    have recovered : ({ pl.offtake.countValid x with sensorFailed := false } : Offtake).Sound c := counted
    exact .ite ((commitOfftake_offtakesHold h i recovered).of_view_eq (offtakeView_remove ..))
      (commitOfftake_offtakesHold h i counted)

theorem timeSample_offtakesHold (x : Int) : (timeSample c i x p).OfftakesHold c := by
  unfold timeSample
  split
  · exact h
  · next pl hpl =>
    have timed := commitOfftake_offtakesHold h i
      ((h.sound i pl hpl).timeHigh (hasOven pl.oven.alarms .pressureHigh) x)
    exact .ite (timed.of_view_eq (offtakeView_remove ..)) timed

theorem controlSample_offtakesHold (x : Int) : (controlSample c i x p).OfftakesHold c := by
  unfold controlSample
  split
  · exact h
  · next pl hpl =>
    have sound := h.sound i pl hpl
    dsimp only
    split
    · next pi => exact commitOfftake_offtakesHold h i (sound.control h.band pi _ x)
    · exact .ite (commitOfftake_offtakesHold h i ((sound.enterPi h.band).control h.band rfl _ x)) h

theorem validSample_offtakesHold (code : Nat) : (validSample c i code p).OfftakesHold c :=
  (controlSample_offtakesHold (timeSample_offtakesHold (countSample_offtakesHold h i (convert_bounds c i code)) i _) i
    _).of_view_eq (offtakeView_permitPass ..)

theorem invalidSample_offtakesHold : (invalidSample c i p).OfftakesHold c := by
  refine Part.OfftakesHold.of_view_eq ?_ (offtakeView_permitPass ..)
  unfold countInvalidSample
  split
  · exact h
  · next pl hpl =>
    have counted := (h.sound i pl hpl).countInvalid
    have failed : ({ pl.offtake.countInvalid with sensorFailed := true } : Offtake).Sound c := counted
    have alarmed := (commitOfftake_offtakesHold h i failed).of_view_eq (offtakeView_raise c i _ .pressureSensor)
    exact .ite (.ite (commitOfftake_offtakesHold alarmed i failed.enterHold) alarmed) (commitOfftake_offtakesHold h i counted)

omit h in
theorem offtakeView_endScan (c : Configuration) (early : Bool) (p : Part) : (endScan c early p).offtakeView = p.offtakeView := by
  unfold endScan
  dsimp only
  split
  · split <;> rfl
  · split <;> rfl

theorem nextPlace_offtakesHold : (nextPlace c p).OfftakesHold c :=
  .ite (h.of_view_eq rfl) (h.of_view_eq (offtakeView_endScan ..))

theorem transactionDone_offtakesHold (code : Nat) : (transactionDone c code p).OfftakesHold c :=
  .ite (nextPlace_offtakesHold (.ite (validSample_offtakesHold h _ code) (invalidSample_offtakesHold h _))) h

theorem channelNack_offtakesHold : (channelNack c p).OfftakesHold c :=
  .ite ((nextPlace_offtakesHold (invalidSample_offtakesHold h _)).of_view_eq rfl) h

/-- A scan that a failed transaction ends. -/
theorem scanFails_offtakesHold : (endScan c true (failRest c p)).sendStop.OfftakesHold c :=
  (Part.OfftakesHold.foldl (fun _ j hq => invalidSample_offtakesHold hq j) h _).of_view_eq (offtakeView_endScan c true _)

theorem addressFails_offtakesHold : (addressFails c p).OfftakesHold c :=
  .ite (scanFails_offtakesHold (h.of_view_eq rfl)) h

theorem clockFails_offtakesHold : (clockFails c p).OfftakesHold c := .ite (scanFails_offtakesHold h) h

theorem quarterSecond_offtakesHold : (roundRobinOvs c (startScan c p)).OfftakesHold c := by
  have scan : (startScan c p).OfftakesHold c := .ite h (h.of_view_eq rfl)
  exact scan.of_view_eq (offtakeView_offerOvs (startScan c p).asr.roundRobin (startScan c p))

/-! ## The oven commands (R2 to R18) -/

theorem minuteAt_offtakesHold : (minuteAt c p i).OfftakesHold c := by
  unfold minuteAt
  split
  · exact h
  · have aged := h.of_view_eq (offtakeView_modifyOven i p fun o => { o with kept := o.kept.older })
    exact Part.OfftakesHold.of_view_eq (.ite (setPhase_offtakesHold aged i .ready) aged) (offtakeView_evalOverdue ..)

theorem takeOut_offtakesHold : (takeOut c i p).OfftakesHold c :=
  askIsolate_offtakesHold ((setPhase_offtakesHold h i .out).of_view_eq (offtakeView_setHold ..)) i

theorem panelOut_offtakesHold : (panelOut c i p).OfftakesHold c := by
  unfold panelOut
  split
  · exact takeOut_offtakesHold h i
  · exact takeOut_offtakesHold h i
  · exact h

theorem panelTarget_offtakesHold (value : Word16) : (panelTarget value c i p).OfftakesHold c := by
  unfold panelTarget
  split
  · exact h
  · have set := h.of_view_eq
      (offtakeView_modifyOven i p fun o => { o with kept := { o.kept with target := clampTarget value.toNat } })
    exact Part.OfftakesHold.of_view_eq (.ite (setByAge_offtakesHold set i) set) (offtakeView_evalOverdue ..)

theorem panelDeclare_offtakesHold (value : Word16) (phase : Byte) : (panelDeclare value phase c i p).OfftakesHold c := by
  refine .ite ?_ h
  split
  · exact (setByAge_offtakesHold (h.of_view_eq (offtakeView_modifyOven ..)) i).of_view_eq (offtakeView_evalOverdue ..)
  · exact takeOut_offtakesHold h i
  · exact h

theorem panelClear_offtakesHold (n : Nat) : (panelClear c n p).OfftakesHold c := by
  refine .ite (h.of_view_eq rfl) (h.withLocal fun i => ?_)
  unfold clearOvenAlarms
  split
  · exact h
  · exact h.of_view_eq (offtakeView_setAlarms ..)

theorem askAspirate_offtakesHold : (askAspirate c i p).OfftakesHold c := by
  unfold askAspirate
  split
  · exact h
  · next hpl => exact tellOfftake_offtakesHold h i (callMode_sound h i hpl _ _) none

theorem chargeAsk_offtakesHold : (chargeAsk c i p).OfftakesHold c := by
  have answered (n : Nat) (r : ChrReason) : (offerChr n r p).OfftakesHold c := h.of_view_eq rfl
  unfold chargeAsk
  split
  · exact h
  · exact .ite (answered _ _) (.ite (answered _ _) (.ite (answered _ _)
      (askAspirate_offtakesHold (h.of_view_eq (offtakeView_modifyOven ..)) i)))

theorem chargeEnd_offtakesHold : (chargeEnd c i p).OfftakesHold c :=
  .ite (setPhase_offtakesHold (h.of_view_eq (offtakeView_modifyOven ..)) i .coking) h

theorem chargeLimit_offtakesHold : (chargeLimit c i p).OfftakesHold c := by
  unfold chargeLimit
  split
  · exact h
  · exact .ite (h.of_view_eq ((offtakeView_raise ..).trans (offtakeView_modifyOven ..))) h

/-! ## The bid round and the car orders (R26 to R36, R100 to R105) -/

theorem holdStation_offtakesHold (a : StationAlarm) (on : Bool) : (holdStation c a on p).OfftakesHold c :=
  .ite (h.of_view_eq rfl) (h.of_view_eq rfl)

theorem startRound_offtakesHold (key : BidKey) : (startRound key p).OfftakesHold c := .ite (h.of_view_eq rfl) (h.of_view_eq rfl)

theorem evaluateRound_offtakesHold : (evaluateRound c p).OfftakesHold c := by
  refine .ite ?_ h
  split
  · exact h
  · exact startRound_offtakesHold h _

theorem takeBid_offtakesHold (r : Rival) : (takeBid c r p).OfftakesHold c := by
  have deferred : ({ p with bsu := p.bsu.deferTo c r.station } : Part).OfftakesHold c := h.of_view_eq rfl
  have answered : (answerRival c r p).OfftakesHold c := by
    refine .ite ?_ deferred
    split
    · exact deferred
    · exact .ite (startRound_offtakesHold h _) deferred
  refine .ite h (.ite (h.of_view_eq rfl) ?_)
  split
  · exact answered
  · exact h
  · exact h.of_view_eq rfl

theorem decideRound_offtakesHold : (decideRound c p).OfftakesHold c := by
  unfold decideRound
  split
  · have won : ({ p with bsu := p.bsu.win } : Part).OfftakesHold c := h.of_view_eq rfl
    exact .ite (.ite (takeWin_offtakesHold won _) (h.of_view_eq rfl)) h
  · exact h

theorem headLeaves_offtakesHold (head : Order) (left : List Order) (r : Outcome) : (headLeaves c head left r p).OfftakesHold c := by
  have removed : ({ p with qou := { p.qou with orders := left } } : Part).OfftakesHold c := h.of_view_eq rfl
  exact Part.OfftakesHold.of_view_eq (.ite (takeOutcome_offtakesHold removed r) removed) (OrdersOnly.offerHead _).offtakeView_eq

theorem carReply_offtakesHold (id verdict : Nat) : (carReply c id verdict p).OfftakesHold c := by
  unfold carReply
  split
  · next head rest v _ _ =>
    refine .ite (.ite ?_ h) h
    cases v with
    | accept => exact .ite h (h.of_view_eq rfl)
    | done => exact headLeaves_offtakesHold h head rest .done
    | refuse => exact headLeaves_offtakesHold h head _ .refused
  · exact h

theorem deadline_offtakesHold : (deadline c p).OfftakesHold c := by
  unfold deadline
  split
  · exact h
  · have alarmed (b : Bool) (q : Part) (hq : q.OfftakesHold c) :
        (if b then raiseStation c .hotCar q else q).OfftakesHold c := .ite (hq.of_view_eq rfl) hq
    have emptied : (raiseStation c .carTimeout { p with qou := { p.qou with orders := [] } }).OfftakesHold c := h.of_view_eq rfl
    exact .ite (.ite (takeOutcome_offtakesHold (alarmed _ _ emptied) .timeout) (alarmed _ _ emptied)) h

/-! ## The battery line and the views (R110 to R119, R131 to R135) -/

theorem reofferPdn_offtakesHold (e : PendingPdn) : (reofferPdn p e).OfftakesHold c := .ite (h.of_view_eq rfl) h

theorem reofferChp_offtakesHold : (reofferChp p i).OfftakesHold c := by
  unfold reofferChp
  split
  · exact h
  · exact .ite (.ite (h.of_view_eq ((offtakeView_modifyOven ..).trans (offtakeView_offer ..))) h) h

theorem tellRemoval_offtakesHold : (tellRemoval p).OfftakesHold c :=
  .foldl (fun _ e hq => reofferPdn_offtakesHold hq e)
    (.foldl (fun _ i hq => reofferChp_offtakesHold hq i) (h.of_view_eq (OrdersOnly.offerHead p).offtakeView_eq) _) _

theorem heardBack_offtakesHold (k : Kind) (sub : Subject) : (heardBack c k sub p).OfftakesHold c := by
  unfold heardBack
  split
  · exact .ite (h.of_view_eq rfl) h
  · unfold orderHeardBack
    split
    · exact h
    · exact .ite (h.of_view_eq rfl) h
  · exact h

theorem takePdn_offtakesHold (n : Nat) : (takePdn c n p).OfftakesHold c := .ite (h.of_view_eq rfl) h

theorem routeEcho_offtakesHold (k : Kind) (sub : Subject) : (routeEcho c k sub p).OfftakesHold c := by
  unfold routeEcho
  split
  · exact takePdn_offtakesHold h _
  · exact h

theorem succeed_offtakesHold : (succeed c p).OfftakesHold c := by
  unfold succeed
  split
  · exact h
  · next a _ =>
    have counted : (removeStation c .lineSilent { p with bli := { p.bli.endAttempt with failed := 0 } }).OfftakesHold c :=
      h.of_view_eq rfl
    have heard := heardBack_offtakesHold counted a.kind a.subject
    refine routeEcho_offtakesHold ?_ _ _
    exact .ite heard (tellRemoval_offtakesHold (heard.of_view_eq rfl))

theorem fail_offtakesHold : (fail c p).OfftakesHold c := by
  have silenced (q : Part) (hq : q.OfftakesHold c) : (enterSilence c q).OfftakesHold c := by
    refine Part.OfftakesHold.foldl (fun _ _ hr => tellRemoval_offtakesHold hr) ?_ _
    exact hq.of_view_eq rfl
  unfold fail
  split
  · exact h
  · have counted : ({ p with bli := { p.bli.endAttempt with failed := p.bli.failed + 1 } } : Part).OfftakesHold c :=
      h.of_view_eq rfl
    exact .ite (silenced _ counted) counted

theorem beginAttempt_offtakesHold : (beginAttempt c p).OfftakesHold c := by
  unfold beginAttempt
  split
  · exact .ite h (h.of_view_eq rfl)
  · exact h

theorem loseContention_offtakesHold (urgency station : Nat) : (loseContention c urgency station p).OfftakesHold c := by
  unfold loseContention
  split
  · exact h
  · exact .ite (h.of_view_eq rfl) h

theorem takeMst_offtakesHold (station : Nat) (position activity load aligned owner : Byte) :
    (takeMst c station position activity load aligned owner p).OfftakesHold c := by
  refine .ite ?_ (.ite ?_ (.ite ?_ h))
  all_goals
    split
    · exact h
    · exact h.of_view_eq rfl

theorem takeOvs_offtakesHold (n : Nat) (phase : Phase) (age : Nat) : (takeOvs c n phase age p).OfftakesHold c :=
  .ite (h.of_view_eq rfl) (.ite (h.of_view_eq rfl) (.ite (h.of_view_eq rfl) h))

theorem takeScs_offtakesHold (station stage : Nat) : (takeScs station stage p).OfftakesHold c := by
  have listed : ({ p with lvt := { p.lvt with peers := withPeer station p.lvt.peers } } : Part).OfftakesHold c := h.of_view_eq rfl
  exact .ite h (.ite (h.of_view_eq rfl) (.ite listed (.ite (listed.of_view_eq rfl) listed)))

end

end Sys2Proof.Machine

/-! SUPPORT. A start sets sound offtakes, a stop leaves none, and so every command keeps them sound (R93, R124, R148, R149). -/

namespace Sys2Proof.Machine

open Sys2Proof

/-! ## A start (R93, R124, R148) -/

theorem startPlace_offtake_sound (c : Configuration) (r : RetainedDomain) (inputs : List PlaceInputs) (j : Nat) :
    (startPlace c r inputs j).offtake.Sound c := by
  unfold startPlace
  dsimp only
  split
  · exact Offtake.start_sound ..
  · exact Offtake.start_sound ..

theorem startChannels_buffered {places : List Place} {j : Nat} {pl : Place} (h : places[j]? = some pl) (hj : j < 8) :
    ((startChannels places)[j]?.map fun ch => ch.buffered) = some pl.offtake.valve := by
  simp [startChannels, List.getElem?_range hj, h]

theorem startPart_offtakesHold {c : Configuration} (hc : configInRange c) (low : Bool) (p : Part) :
    (startPart c low p).OfftakesHold c := by
  obtain ⟨-, -, -, -, -, -, ovens, -, -, -, band, uMax, -⟩ := hc
  have started (j : Nat) (pl : Place) (h : (startPart c low p).places[j]? = some pl) :
      j < c.ovenCount ∧ pl = startPlace c p.retained (inputsAtLoad c p.fls.inputs) j := by
    change ((List.range c.ovenCount).map (startPlace c p.retained (inputsAtLoad c p.fls.inputs)))[j]? = some pl at h
    obtain ⟨j', hj', rfl⟩ := Option.map_eq_some_iff.mp ((List.getElem?_map ..).symm.trans h)
    obtain ⟨hlt, rfl⟩ := List.getElem?_eq_some_iff.mp hj'
    rw [List.getElem_range]
    exact ⟨by simpa using hlt, rfl⟩
  refine ⟨rfl, ⟨band, uMax, ovens⟩, fun j pl h => ?_, fun j pl h => ?_⟩
  · rw [(started j pl h).2]
    exact startPlace_offtake_sound ..
  · exact startChannels_buffered h (lt_of_lt_of_le (started j pl h).1 ovens)

/-! ## Loaded or not -/

theorem Part.OfftakesSound.hold {p : Part} (h : p.OfftakesSound) {c : Configuration} (hc : p.config = some c) :
    p.OfftakesHold c := by
  obtain ⟨band, uMax, ovens, offtakes⟩ := h.2 c (by simp [hc])
  have at_place (j : Nat) (pl : Place) (hj : p.places[j]? = some pl) :=
    offtakes j (List.getElem?_eq_some_iff.mp hj).1 pl (by simp [hj])
  exact ⟨hc, ⟨band, uMax, ovens⟩, fun j pl hj => (at_place j pl hj).1, fun j pl hj => (at_place j pl hj).2⟩

theorem Part.OfftakesHold.offtakesSound {p : Part} {c : Configuration} (h : p.OfftakesHold c) : p.OfftakesSound := by
  refine ⟨fun hc => absurd (h.config.symm.trans hc) nofun, fun d hd => ?_⟩
  obtain rfl : c = d := Option.some.inj (h.config.symm.trans (Option.mem_toList.mp hd))
  obtain ⟨band, uMax, ovens⟩ := h.range
  refine ⟨band, uMax, ovens, fun j _ pl hpl => ?_⟩
  rw [Option.mem_toList] at hpl
  exact ⟨h.sound j pl hpl, h.buffer j pl hpl⟩

/-- A part without configuration and without records. -/
theorem Part.offtakesSound_of_empty {p : Part} (hc : p.config = none) (hp : p.places = []) : p.OfftakesSound :=
  ⟨fun _ => hp, fun _ h => absurd (hc.symm.trans (Option.mem_toList.mp h)) nofun⟩

theorem Part.OfftakesSound.of_view_eq {p q : Part} (h : p.OfftakesSound) (hv : q.offtakeView = p.offtakeView) :
    q.OfftakesSound := by
  have config : q.config = p.config := congrArg OfftakeView.config hv
  cases hc : p.config with
  | some c => exact ((h.hold hc).of_view_eq hv).offtakesSound
  | none =>
    have offtakes : q.places.map (·.offtake) = p.places.map (·.offtake) := congrArg OfftakeView.offtakes hv
    rw [h.1 hc] at offtakes
    exact Part.offtakesSound_of_empty (config.trans hc) (List.map_eq_nil_iff.mp offtakes)

/-! ## Samples of the pins, outputs, loads, supplies and resets (R121, R124, R145 to R149) -/

section
variable {p : Part} (h : p.OfftakesSound)
include h

theorem minute_offtakesSound : (minute p).OfftakesSound := by
  unfold minute
  split
  · exact h.of_view_eq rfl
  · next c hc => exact (Part.OfftakesHold.foldl (fun _ i hq => minuteAt_offtakesHold hq i) (h.hold hc) _).offtakesSound

theorem debounce_offtakesSound (i : Nat) (input : SwitchInput) : (debounce i input p).OfftakesSound := by
  cases hc : p.config with
  | some c => exact (debounce_offtakesHold (h.hold hc) i input).offtakesSound
  | none =>
    obtain ⟨config, places⟩ := debounce_unloaded hc i input
    exact Part.offtakesSound_of_empty config (places.trans (h.1 hc))

theorem millisecond_offtakesSound (pins : Pins) : (millisecond pins p).OfftakesSound := by
  unfold millisecond
  split
  · exact h
  · exact h.of_view_eq rfl

/-- A period end takes every buffered compare and leaves the buffers (R124). -/
theorem periodEnd_offtakesSound : (periodEnd p).OfftakesSound := by
  refine h.of_view_eq ?_
  have buffered : (p.fls.channels.map fun ch => { ch with applied := ch.buffered }).map (·.buffered)
      = p.fls.channels.map (·.buffered) := List.map_map
  simp only [Part.offtakeView, ← buffered]
  rfl

theorem compareMatch_offtakesSound (i : Nat) : (compareMatch i p).OfftakesSound := by
  unfold compareMatch
  split
  · exact h
  · split
    · exact h.of_view_eq rfl
    · exact h

theorem failLoad_offtakesSound (reading : p.load = .reading) : (failLoad p).OfftakesSound :=
  Part.offtakesSound_of_empty rfl (h.1 (config_of_reading reading))

theorem loadDone_offtakesSound (acked : Bool) (block : List Byte) (low : Bool) : (loadDone acked block low p).OfftakesSound := by
  unfold loadDone
  split
  · next reading =>
    split
    · exact failLoad_offtakesSound h reading
    · next c hb => exact (startPart_offtakesHold (loadBlock_inRange hb) low _).offtakesSound
  · exact h

theorem configLoadTimeout_offtakesSound : (if p.load = .reading then failLoad p else p).OfftakesSound := by
  split
  · next reading => exact failLoad_offtakesSound h reading
  · exact h

theorem configRetry_offtakesSound : (if p.load = .failed ∧ p.retry.active = true then beginLoad p else p).OfftakesSound := by
  split
  · next retried => exact Part.offtakesSound_of_empty rfl (h.1 (config_of_failed retried.1))
  · exact h

theorem assertReset_offtakesSound : (assertReset p).OfftakesSound := by
  unfold assertReset
  split
  · exact h
  · split
    · exact Part.offtakesSound_of_empty rfl rfl
    · exact h.of_view_eq rfl

theorem releaseReset_offtakesSound : (releaseReset p).OfftakesSound := by
  unfold releaseReset
  split
  · split
    · exact Part.offtakesSound_of_empty rfl rfl
    · exact h.of_view_eq rfl
  · exact h

theorem applyMain_offtakesSound : (applyMain p).OfftakesSound := by
  unfold applyMain
  split
  · exact h
  · split
    · exact Part.offtakesSound_of_empty rfl rfl
    · exact Part.offtakesSound_of_empty rfl rfl

theorem loseMain_offtakesSound : (loseMain p).OfftakesSound := by
  unfold loseMain
  split
  · dsimp only
    split
    · exact Part.offtakesSound_of_empty rfl rfl
    · exact Part.offtakesSound_of_empty rfl rfl
  · exact h

theorem loseBackup_offtakesSound : (loseBackup p).OfftakesSound := by
  unfold loseBackup
  dsimp only
  split
  · exact h.of_view_eq rfl
  · exact h.of_view_eq rfl

end

/-! ## Every command -/

/-- Whatever next state an answer gives has sound offtakes if the state has. -/
def State.AnswerKeepsOfftakes (s : State) (r : Host.Outcome State Fault Refusal) : Prop :=
  ∀ t, s.part.OfftakesSound → r = .next t → t.part.OfftakesSound

section
variable {s : State}

theorem State.update_keepsOfftakes {f : Part → Part} (hf : s.part.OfftakesSound → (f s.part).OfftakesSound) :
    s.AnswerKeepsOfftakes (s.update f) := by
  intro t h e
  cases e
  exact hf h

theorem State.whenLoaded_keepsOfftakes {f : Configuration → Part → Part}
    (hf : ∀ c, s.part.OfftakesHold c → (f c s.part).OfftakesHold c) : s.AnswerKeepsOfftakes (s.whenLoaded f) := by
  refine State.update_keepsOfftakes fun h => ?_
  cases hc : s.part.config with
  | none => exact h
  | some c => exact (hf c (h.hold hc)).offtakesSound

theorem panelAt_keepsOfftakes {h : Header} {oven : Byte} {f : Configuration → Nat → Part → Part}
    (hf : ∀ c i, s.part.OfftakesHold c → (f c i s.part).OfftakesHold c) : s.AnswerKeepsOfftakes (panelAt h oven f s) :=
  State.whenLoaded_keepsOfftakes fun c hp => .ite (hp.withLocal fun i => hf c i hp) hp

/-- The expiry of a timer of one oven. -/
theorem ovenTimer_keepsOfftakes {oven : Nat} {f : Configuration → Nat → Part → Part}
    (hf : ∀ c i, s.part.OfftakesHold c → (f c i s.part).OfftakesHold c) :
    s.AnswerKeepsOfftakes (s.whenLoaded fun c p => withLocal c oven p fun i => f c i p) :=
  State.whenLoaded_keepsOfftakes fun c hp => hp.withLocal fun i => hf c i hp

end

/-- Every command keeps the offtakes sound. -/
theorem exec_keepsOfftakes (i : Instr) (s : State) : s.AnswerKeepsOfftakes (exec i s) := by
  cases i with
  | minuteExpiry => exact State.update_keepsOfftakes minute_offtakesSound
  | pnlHold h oven => exact panelAt_keepsOfftakes fun _ i hp => hp.of_view_eq (offtakeView_setHold ..)
  | pnlRelease h oven => exact panelAt_keepsOfftakes fun _ i hp => hp.of_view_eq (offtakeView_setHold ..)
  | pnlOut h oven => exact panelAt_keepsOfftakes fun _ i hp => panelOut_offtakesHold hp i
  | pnlIn h oven => exact panelAt_keepsOfftakes fun _ i hp => .ite (setPhase_offtakesHold hp i .empty) hp
  | pnlTarget h oven value => exact panelAt_keepsOfftakes fun _ i hp => panelTarget_offtakesHold hp i value
  | pnlDeclare h oven value phase => exact panelAt_keepsOfftakes fun _ i hp => panelDeclare_offtakesHold hp i value phase
  | pnlAbort h oven => exact State.whenLoaded_keepsOfftakes fun _ hp => .ite (panelAbort_offtakesHold hp _) hp
  | pnlClear h oven => exact State.whenLoaded_keepsOfftakes fun _ hp => .ite (panelClear_offtakesHold hp _) hp
  | cha h oven =>
    exact State.whenLoaded_keepsOfftakes fun _ hp => .ite (hp.withLocal fun i => chargeAsk_offtakesHold hp i) hp
  | che h oven =>
    exact State.whenLoaded_keepsOfftakes fun _ hp => .ite (hp.withLocal fun i => chargeEnd_offtakesHold hp i) hp
  | chargeLimitExpiry oven => exact ovenTimer_keepsOfftakes fun _ i hp => chargeLimit_offtakesHold hp i
  | evaluationExpiry low =>
    unfold exec execEvaluationExpiry
    refine State.whenLoaded_keepsOfftakes fun c hp => holdStation_offtakesHold ?_ .backupLow low
    exact (evaluateRound_offtakesHold hp).of_view_eq rfl
  | bid h oven lateness => exact State.whenLoaded_keepsOfftakes fun _ hp => .ite (takeBid_offtakesHold hp _) hp
  | windowExpiry => exact State.whenLoaded_keepsOfftakes fun _ hp => decideRound_offtakesHold hp
  | holdOffExpiry =>
    unfold exec execHoldOffExpiry
    exact State.whenLoaded_keepsOfftakes fun _ hp => hp.of_view_eq rfl
  | deferralExpiry => exact State.whenLoaded_keepsOfftakes fun _ hp => .ite (hp.of_view_eq rfl) hp
  | pas h oven =>
    exact State.whenLoaded_keepsOfftakes fun _ hp => .ite (hp.withLocal fun i => pushAsk_offtakesHold hp i _) hp
  | rms h oven =>
    exact State.whenLoaded_keepsOfftakes fun _ hp => .ite (hp.withLocal fun i => ramStarts_offtakesHold hp i _) hp
  | rmh h oven stroke =>
    refine State.whenLoaded_keepsOfftakes fun _ hp => .ite ?_ hp
    split
    · exact hp
    · next x _ => exact .ite (hp.withLocal fun i => ramHome_offtakesHold hp i x _) hp
  | prepareLimitExpiry => exact State.whenLoaded_keepsOfftakes fun _ hp => prepareLimit_offtakesHold hp
  | armedLimitExpiry => exact State.whenLoaded_keepsOfftakes fun _ hp => armedLimit_offtakesHold hp
  | permitTimerExpiry => exact State.whenLoaded_keepsOfftakes fun _ hp => hp.of_view_eq rfl
  | rmhLimitExpiry => exact State.whenLoaded_keepsOfftakes fun _ hp => rmhLimit_offtakesHold hp
  | doorLimitExpiry => exact State.whenLoaded_keepsOfftakes fun _ hp => doorLimit_offtakesHold hp
  | debounceExpiry place input =>
    unfold exec execDebounceExpiry
    refine State.update_keepsOfftakes fun hp => ?_
    split
    · exact hp
    · exact debounce_offtakesSound hp _ input
  | leakTimerExpiry oven side => exact ovenTimer_keepsOfftakes fun _ i hp => leakExpires_offtakesHold hp i side
  | clearTimerExpiry oven side => exact ovenTimer_keepsOfftakes fun _ i hp => clearExpires_offtakesHold hp i side
  | leakingSpellExpiry oven side => exact ovenTimer_keepsOfftakes fun _ i hp => leakingSpellExpires_offtakesHold hp i side
  | sealedSpellExpiry oven side => exact ovenTimer_keepsOfftakes fun _ i hp => sealedSpellExpires_offtakesHold hp i side
  | valveMotionTimerExpiry oven => exact ovenTimer_keepsOfftakes fun _ i hp => valveTimerExpires_offtakesHold hp i
  | capMotionTimerExpiry oven => exact ovenTimer_keepsOfftakes fun _ i hp => capTimerExpires_offtakesHold hp i
  | pressureHighTimerExpiry oven => exact ovenTimer_keepsOfftakes fun _ i hp => highTimerExpires_offtakesHold hp i
  | aspirateHoldExpiry oven => exact ovenTimer_keepsOfftakes fun _ i hp => aspirateHoldExpires_offtakesHold hp i
  | quarterSecondExpiry =>
    unfold exec execQuarterSecondExpiry
    exact State.whenLoaded_keepsOfftakes fun _ hp => quarterSecond_offtakesHold hp
  | transactionComplete first second => exact State.whenLoaded_keepsOfftakes fun _ hp => transactionDone_offtakesHold hp _
  | channelByteNack => exact State.whenLoaded_keepsOfftakes fun _ hp => channelNack_offtakesHold hp
  | addressNack => exact State.whenLoaded_keepsOfftakes fun _ hp => addressFails_offtakesHold hp
  | clockHoldTimeout => exact State.whenLoaded_keepsOfftakes fun _ hp => clockFails_offtakesHold hp
  | pwmPeriodEnd => exact State.update_keepsOfftakes periodEnd_offtakesSound
  | qcr h id verdict reason => exact State.whenLoaded_keepsOfftakes fun _ hp => .ite (carReply_offtakesHold hp _ _) hp
  | deadlineExpiry => exact State.whenLoaded_keepsOfftakes fun _ hp => deadline_offtakesHold hp
  | mst h position activity load aligned owner =>
    exact State.whenLoaded_keepsOfftakes fun _ hp => .ite (takeMst_offtakesHold hp ..) hp
  | machineViewFreshnessExpiry view =>
    unfold exec execMachineViewFreshnessExpiry
    exact State.whenLoaded_keepsOfftakes fun _ hp => hp.of_view_eq rfl
  | ovs h oven stateWord lateness doors offtake pressure alarms =>
    refine State.whenLoaded_keepsOfftakes fun _ hp => .ite ?_ hp
    split
    · exact hp
    · exact takeOvs_offtakesHold hp ..
  | neighbourViewFreshnessExpiry view =>
    unfold exec execNeighbourViewFreshnessExpiry
    exact State.whenLoaded_keepsOfftakes fun _ hp => hp.of_view_eq rfl
  | pdn h oven stroke unpermitted => exact State.whenLoaded_keepsOfftakes fun _ hp => .ite (takePdn_offtakesHold hp _) hp
  | scs h stage oven reason anchor count head alarms =>
    exact State.whenLoaded_keepsOfftakes fun _ hp => .ite (takeScs_offtakesHold hp ..) hp
  | refreshTimerExpiry station =>
    unfold exec execRefreshTimerExpiry
    exact State.whenLoaded_keepsOfftakes fun _ hp => hp.of_view_eq rfl
  | settleTimerExpiry => exact State.whenLoaded_keepsOfftakes fun _ hp => .ite (hp.of_view_eq rfl) hp
  | lineIdleAttempt => exact State.whenLoaded_keepsOfftakes fun _ hp => beginAttempt_offtakesHold hp
  | lostContention urgency station => exact State.whenLoaded_keepsOfftakes fun _ hp => loseContention_offtakesHold hp ..
  | attemptSucceeded => exact State.whenLoaded_keepsOfftakes fun _ hp => succeed_offtakesHold hp
  | attemptFailed => exact State.whenLoaded_keepsOfftakes fun _ hp => fail_offtakesHold hp
  | silentExpiry => exact State.whenLoaded_keepsOfftakes fun _ hp => .ite (hp.of_view_eq rfl) hp
  | scsPeriodExpiry => exact State.whenLoaded_keepsOfftakes fun _ hp => .ite (hp.of_view_eq rfl) hp
  | configLoadComplete acked block low => exact State.update_keepsOfftakes fun hp => loadDone_offtakesSound hp acked block low
  | configLoadClockTimeout => exact State.update_keepsOfftakes configLoadTimeout_offtakesSound
  | configRetryExpiry => exact State.update_keepsOfftakes configRetry_offtakesSound
  | resetAsserted => exact State.update_keepsOfftakes assertReset_offtakesSound
  | resetReleased => exact State.update_keepsOfftakes releaseReset_offtakesSound
  | mainSupplyApplied => exact State.update_keepsOfftakes applyMain_offtakesSound
  | mainSupplyLost => exact State.update_keepsOfftakes loseMain_offtakesSound
  | backupSupplyLost => exact State.update_keepsOfftakes loseBackup_offtakesSound
  | millisecondExpiry pins => exact State.update_keepsOfftakes fun hp => millisecond_offtakesSound hp pins
  | pwmCompareMatch place =>
    unfold exec execPwmCompareMatch
    refine State.update_keepsOfftakes fun hp => ?_
    split
    · exact hp
    · exact compareMatch_offtakesSound hp _

/-- Settles O6, by the promise about the offtakes that every command keeps. -/
theorem offtakesFollowTheirMode : Obligations.OfftakesFollowTheirMode := by
  intro s t _ sound next
  unfold step at next
  split at next
  · cases next
    exact sound
  · next i rest _ => exact exec_keepsOfftakes i { s with pending := rest } t sound next

end Sys2Proof.Machine

/-! SUPPORT. An invalid sample of an oven with no door RELEASED: it is counted at its place alone, and the scan goes on (R72, R73,
R92, R126, R127). -/

namespace Sys2Proof.Machine

open Sys2Proof

/-! ## A sample that no door hears (R63) -/

theorem Place.noneReleased_of {pl : Place} (hP : pl.doorP.state ≠ .released) (hC : pl.doorC.state ≠ .released) :
    pl.NoneReleased := fun side => by
  cases side
  · exact hP
  · exact hC

theorem Place.NoneReleased.sampled {pl : Place} (h : pl.NoneReleased) (o : Offtake) (set : Word16) :
    ((pl.withOfftake o).withAlarms set).NoneReleased := fun side => by
  cases side
  · exact h .p
  · exact h .c

theorem Place.not_ready_of_no_pressure {c : Configuration} {x : Option Context} {pl : Place} (h : pl.offtake.pressure = none) :
    pl.ready c x = false := by
  cases x <;> simp [Place.ready, h]

theorem Claims.invalidCounted_pressure (c : Configuration) (o : Offtake) : (Claims.invalidCounted c o).pressure = none := by
  unfold Claims.invalidCounted
  split
  · split <;> rfl
  · rfl

/-- An invalid sample leaves no pressure, so no permit is given and the doors stay (R63). -/
theorem Part.Shows.invalidSample {p : Part} {i : Nat} {pl : Place} {x : Option Context} {l : SwitchInput → Bool}
    (h : p.Shows i pl x l) (hn : pl.NoneReleased) (c : Configuration) : (invalidSample c i p).Shows i
      ((pl.withOfftake (Claims.invalidCounted c pl.offtake)).withAlarms (Claims.invalidAlarms pl)) x l := by
  have counted := h.invalidCounted c
  have pass : Machine.invalidSample c i p = countInvalidSample c i p :=
    permitPass_of_noneReleased counted (Place.not_ready_of_no_pressure (Claims.invalidCounted_pressure c pl.offtake))
      (hn.sampled _ _)
  rw [pass]
  exact counted

/-! ## No scan (R125) -/

theorem transactionDone_idle {c : Configuration} {p : Part} (h : p.fls.scan.running = false) (code : Nat) :
    transactionDone c code p = p := by simp [transactionDone, h]

theorem channelNack_idle {c : Configuration} {p : Part} (h : p.fls.scan.running = false) : channelNack c p = p := by
  simp [channelNack, h]

/-- Settles O48: the sample is counted at its place alone, and the scan goes on. -/
theorem invalidSampleIsCounted : Obligations.InvalidSampleIsCounted := by
  intro s c n i pl first second e ho hP hC he
  obtain ⟨hc, -⟩ := id ho
  have transaction : s.Runs (.transactionComplete first second) (transactionDone c (Claims.code first second) s.part) :=
    State.whenLoaded_some hc _
  have nack : s.Runs .channelByteNack (channelNack c s.part) := State.whenLoaded_some hc _
  refine ⟨fun scan => ?_, fun idle => ?_⟩
  · have counted := (ho.shows.invalidSample (Place.noneReleased_of hP hC) c).place
    obtain ⟨moved, places⟩ := (OvenOnly.invalidSample c i s.part).nextPlace (c := c) scan
    rcases he with rfl | ⟨rfl, code⟩
    · exact ⟨_, nack.congr (channelNack_atPlace scan), moved.sendStop, (congrArg (·[i]?) places).trans counted⟩
    · exact ⟨_, transaction.congr (transactionDone_invalid scan (by omega)), moved, (congrArg (·[i]?) places).trans counted⟩
  · rcases he with rfl | ⟨rfl, -⟩
    · exact nack.ignores (channelNack_idle idle)
    · exact transaction.ignores (transactionDone_idle idle _)

end Sys2Proof.Machine

/-! SUPPORT. A valid sample of an oven with no push (R72 to R82, R92): the valve command it leaves in the compare buffer (R80, R124),
the OVS its alarms offer (R142), and the control step by the mode. -/

namespace Sys2Proof.Machine

open Sys2Proof

/-! ## The compare buffer (R80, R124) -/

/-- From `p` to `q` the channel of place `i` differs in its buffered compare alone, which is `u` in `q`. -/
def Part.WritesValve (i u : Nat) (p q : Part) : Prop :=
  q.fls.channels[i]? = p.fls.channels[i]?.map fun ch => { ch with buffered := u }

theorem Part.WritesValve.trans {i u v : Nat} {p q r : Part} (h : p.WritesValve i u q) (k : q.WritesValve i v r) :
    p.WritesValve i v r := by
  unfold Part.WritesValve at *
  rw [k, h, Option.map_map]
  rfl

theorem Part.WritesValve.of_fls_eq {i u : Nat} {p q r : Part} (h : p.WritesValve i u q) (e : r.fls = q.fls) :
    p.WritesValve i u r := by
  unfold Part.WritesValve at *
  rw [e, h]

@[simp] theorem removeOven_fls (c : Configuration) (i : Nat) (a : OvenAlarm) (p : Part) : (removeOven c i a p).fls = p.fls := by
  unfold removeOven
  split
  · rfl
  · exact setAlarms_fls ..

section
variable {c : Configuration} {i : Nat} {v : Int} {p : Part} {pl : Place}

theorem commitOfftake_writesValve (h : p.places[i]? = some pl) (o : Offtake) : p.WritesValve i o.valve (commitOfftake i o p) := by
  have stored : p.WritesValve i o.valve ((p.setOfftake i o).writeValve i o.valve) := by
    simp [Part.WritesValve, Part.writeValve, Part.setOfftake]
  simp only [commitOfftake, h]
  split
  · exact stored
  · exact stored.of_fls_eq (offerOvs_fls ..)

theorem countSample_writesValve (h : p.places[i]? = some pl) : p.WritesValve i pl.offtake.valve (countSample c i v p) := by
  simp only [countSample, h]
  split
  · exact (commitOfftake_writesValve h { pl.offtake.countValid v with sensorFailed := false }).of_fls_eq (removeOven_fls ..)
  · exact commitOfftake_writesValve h (pl.offtake.countValid v)

theorem Offtake.timeHigh_valve (c : Configuration) (raised : Bool) (v : Int) (o : Offtake) :
    (o.timeHigh c raised v).valve = o.valve := by
  unfold Offtake.timeHigh
  split
  · rfl
  · split <;> rfl

theorem timeSample_writesValve (h : p.places[i]? = some pl) : p.WritesValve i pl.offtake.valve (timeSample c i v p) := by
  have timed := commitOfftake_writesValve h (pl.offtake.timeHigh c (hasOven pl.oven.alarms .pressureHigh) v)
  rw [Offtake.timeHigh_valve] at timed
  simp only [timeSample, h]
  split
  · exact timed.of_fls_eq (removeOven_fls ..)
  · exact timed

end

/-- Steps 1 to 4 of a valid sample leave the valve command as it was. -/
theorem Part.Shows.validCounted_writesValve {p : Part} {i : Nat} {pl : Place} {x : Option Context} {l : SwitchInput → Bool}
    (h : p.Shows i pl x l) (c : Configuration) (v : Int) :
    p.WritesValve i pl.offtake.valve (timeSample c i v (Machine.countSample c i v p)) :=
  (countSample_writesValve h.place).trans
    (timeSample_writesValve (pl := (pl.withOfftake (pl.offtake.sensed v)).withAlarms pl.sensedAlarms) (h.countSample c v).place)

/-! ## The OVS of a changed alarm set (R133, R142) -/

/-- An OVS of oven `n` with this payload is queued. -/
def Part.CarriesOvs (p : Part) (n : Nat) (payload : List Byte) : Prop :=
  ∃ e ∈ p.bli.queue, e.kind = .ovs ∧ e.subject = .oven n ∧ e.payload = payload

/-- Once the queue has had room, every OVS of the oven is taken: it finds room, or the one queued before. -/
theorem OvsOffers.takes {n : Nat} {b b' : Bli} (h : OvsOffers n b b') (room : b.queue.length < 8) (payload : List Byte) :
    (b'.offer .ovs (.oven n) payload).2 = true := by
  induction h generalizing payload with
  | refl => exact offer_taken_of_room room _ _ _
  | @offer a first _ ih =>
    obtain ⟨e, he, kind, subject, -⟩ := offer_taken (ih first)
    have item : e.isItem .ovs (.oven n) = true := by simp [TxEntry.isItem, kind, subject]
    rcases offer_cases (a.offer .ovs (.oven n) first).1 .ovs (.oven n) payload with ⟨-, taken, -⟩ | ⟨none, -⟩ | ⟨none, -⟩
    · exact taken
    · exact absurd (item.symm.trans (none e he)) nofun
    · exact absurd (item.symm.trans (none e he)) nofun

section
variable {p q : Part} {i : Nat} {pl : Place} {x : Option Context} {l : SwitchInput → Bool}

/-- A change of the alarm set queues the OVS of the place as it then stands. -/
theorem Part.Shows.setAlarms_carriesOvs (h : q.Shows i pl x l) (quiet : OvsOnly i p q) (room : p.bli.queue.length < 8)
    (c : Configuration) {set : Word16} (hne : pl.oven.alarms ≠ set) :
    (setOvenAlarms c i set q).CarriesOvs pl.oven.number (ovsPayload (pl.withAlarms set)) := by
  have number : p.numberAt i = some pl.oven.number := quiet.frame.number.symm.trans (numberAt_some h.place)
  have stored : (((q.modifyOven i fun o => { o with alarms := set }).decideRelay c)).places[i]? = some (pl.withAlarms set) := by
    simp [Part.modifyOven, h.place, Place.withAlarms]
  simp only [setOvenAlarms, h.place, if_neg hne, Part.offerOvs, stored]
  exact offer_taken ((quiet.line _ number).takes room _)

theorem Part.Shows.remove_carriesOvs (h : q.Shows i pl x l) (quiet : OvsOnly i p q) (room : p.bli.queue.length < 8)
    (c : Configuration) {a : OvenAlarm} (hne : heldIn pl.oven.alarms a false ≠ pl.oven.alarms) :
    (removeOven c i a q).CarriesOvs pl.oven.number (ovsPayload (pl.held a false)) := by
  simp only [removeOven, h.place]
  exact h.setAlarms_carriesOvs quiet room c hne.symm

/-- An alarm that is not raised is removed without effect. -/
theorem removeOven_absent (h : p.places[i]? = some pl) (c : Configuration) {a : OvenAlarm}
    (he : heldIn pl.oven.alarms a false = pl.oven.alarms) : removeOven c i a p = p := by
  have same : pl.oven.alarms = pl.oven.alarms &&& ~~~ovenBit a := he.symm
  simp only [removeOven, setOvenAlarms, h, if_pos same]

/-- A record stored without a change of mode or sub-state makes no offer (R142). -/
theorem commitOfftake_quiet (h : p.places[i]? = some pl) {o : Offtake} (hm : pl.offtake.mode = o.mode)
    (hs : pl.offtake.sub = o.sub) : (commitOfftake i o p).bli = p.bli := by
  simp only [commitOfftake, h, hm, hs, and_self, if_true]
  rfl

theorem OvsOnly.countSample (c : Configuration) (i : Nat) (v : Int) (p : Part) : OvsOnly i p (countSample c i v p) := by
  unfold Machine.countSample
  split
  · exact .refl i p
  · dsimp only
    split
    · exact (OvsOnly.commitOfftake i _ p).trans (.hold c i .pressureSensor false _)
    · exact .commitOfftake i _ p

/-- Steps 1 to 3 queue the OVS of a removed PRESSURE_SENSOR (R73). -/
theorem Part.Shows.countSample_carriesOvs (h : p.Shows i pl x l) (room : p.bli.queue.length < 8) (c : Configuration) (v : Int)
    (hne : pl.sensedAlarms ≠ pl.oven.alarms) : (Machine.countSample c i v p).CarriesOvs pl.oven.number
      (ovsPayload ((pl.withOfftake (pl.offtake.sensed v)).withAlarms pl.sensedAlarms)) := by
  have on : pl.offtake.sensorFailed = true ∧ 3 ≤ pl.offtake.validCount := by
    by_contra off
    exact hne (if_neg off)
  have alarms : pl.sensedAlarms = heldIn pl.oven.alarms .pressureSensor false := if_pos on
  have stored := h.commitOfftake { pl.offtake.countValid v with sensorFailed := false }
  have removed := stored.remove_carriesOvs (.commitOfftake i _ p) room c (a := .pressureSensor) (alarms ▸ hne)
  simp only [Machine.countSample, h.place, (Offtake.recovers_iff v _).mpr on, if_true]
  rw [alarms]
  exact removed

/-- Steps 1 to 4 queue the OVS of the alarms they change, with the record they leave (R73, R74, R142). -/
theorem Part.Shows.validCounted_carriesOvs (h : p.Shows i pl x l) (room : p.bli.queue.length < 8) (c : Configuration) (v : Int)
    (hne : Claims.validAlarms c v pl ≠ pl.oven.alarms) :
    (timeSample c i v (Machine.countSample c i v p)).CarriesOvs pl.oven.number
      (ovsPayload ((pl.withOfftake (Claims.validCounted c v pl)).withAlarms (Claims.validAlarms c v pl))) := by
  have counted := h.countSample c v
  have timed := counted.commitOfftake (Claims.validCounted c v pl)
  have quiet := (OvsOnly.countSample c i v p).trans (.commitOfftake i (Claims.validCounted c v pl) _)
  have record : ((pl.withOfftake (pl.offtake.sensed v)).withAlarms pl.sensedAlarms).offtake.timeHigh c
      (hasOven pl.sensedAlarms .pressureHigh) v = Claims.validCounted c v pl := Offtake.timeHigh_sensed c v pl
  have step : timeSample c i v (Machine.countSample c i v p)
      = if v ≤ (c.pHigh : Int) then removeOven c i .pressureHigh
            (Machine.commitOfftake i (Claims.validCounted c v pl) (Machine.countSample c i v p))
        else Machine.commitOfftake i (Claims.validCounted c v pl) (Machine.countSample c i v p) := by
    simp only [timeSample, counted.place]
    rw [← record]
    rfl
  have unoffered := commitOfftake_quiet counted.place (o := Claims.validCounted c v pl) rfl rfl
  have before (hs : pl.sensedAlarms ≠ pl.oven.alarms) :
      (Machine.commitOfftake i (Claims.validCounted c v pl) (Machine.countSample c i v p)).CarriesOvs pl.oven.number
        (ovsPayload ((pl.withOfftake (Claims.validCounted c v pl)).withAlarms pl.sensedAlarms)) := by
    unfold Part.CarriesOvs
    rw [unoffered]
    exact h.countSample_carriesOvs room c v hs
  rw [step]
  by_cases hv : v ≤ (c.pHigh : Int)
  · have alarms : Claims.validAlarms c v pl = heldIn pl.sensedAlarms .pressureHigh false := if_pos hv
    rw [if_pos hv, alarms]
    by_cases high : heldIn pl.sensedAlarms .pressureHigh false = pl.sensedAlarms
    · rw [removeOven_absent timed.place c high, high]
      exact before fun same => hne (alarms.trans (high.trans same))
    · exact timed.remove_carriesOvs quiet room c high
  · have alarms : Claims.validAlarms c v pl = pl.sensedAlarms := if_neg hv
    rw [if_neg hv, alarms]
    exact before (alarms ▸ hne)

end

/-! ## The control step (R77 to R82, R92) -/

theorem controlSample_pi {p : Part} {i : Nat} {pl : Place} (h : p.places[i]? = some pl) (hm : pl.offtake.mode = .pi)
    (c : Configuration) (v : Int) : controlSample c i v p
      = commitOfftake i (pl.offtake.control c (setpoint c pl.oven.kept.age pl.doorCondition) v) p := by
  simp only [controlSample, h, hm, if_true]

theorem holdLeavesForPi_iff {p : Part} {pl : Place} (hn : isContextOven p pl.oven.number = false) :
    holdLeavesForPi p pl = true ↔ pl.offtake.mode = .hold ∧ (pl.oven.kept.phase = .coking ∨ pl.oven.kept.phase = .ready)
      ∧ pl.offtake.sensorFailed = false := by
  simp [holdLeavesForPi, hn, and_assoc]

/-- HOLD left for PI: entered and seeded (R81, R82, R92). -/
theorem controlSample_leavesHold {p : Part} {i : Nat} {pl : Place} (h : p.places[i]? = some pl)
    (leaves : holdLeavesForPi p pl = true) (c : Configuration) (v : Int) : controlSample c i v p
      = commitOfftake i ((pl.offtake.enterPi c).control c (setpoint c pl.oven.kept.age pl.doorCondition) v) p := by
  have hold : pl.offtake.mode ≠ .pi := by
    intro pi
    simp [holdLeavesForPi, pi] at leaves
  simp only [controlSample, h, if_neg hold, if_pos leaves]

theorem controlSample_still {p : Part} {i : Nat} {pl : Place} (h : p.places[i]? = some pl) (hm : pl.offtake.mode ≠ .pi)
    (stays : ¬holdLeavesForPi p pl = true) (c : Configuration) (v : Int) : controlSample c i v p = p := by
  simp only [controlSample, h, if_neg hm, if_neg stays]

theorem clampBand_natCast (c : Configuration) (u : Nat) : clampBand c (u : Int) = max c.uMin (min c.uMax u) := by
  unfold clampBand clampInt
  omega

theorem Offtake.control_mode (c : Configuration) (sp : Nat) (v : Int) (o : Offtake) : (o.control c sp v).mode = o.mode := by
  unfold Offtake.control
  split <;> rfl

theorem Offtake.control_sub (c : Configuration) (sp : Nat) (v : Int) (o : Offtake) : (o.control c sp v).sub = o.sub := by
  unfold Offtake.control
  split <;> rfl

end Sys2Proof.Machine

/-! SUPPORT. The transaction of a valid sample (R72 to R82, R92, R126, R142). -/

namespace Sys2Proof.Machine

open Sys2Proof

/-- The part after steps 1 to 4 of a valid sample. -/
def Part.counted (c : Configuration) (i : Nat) (v : Int) (p : Part) : Part := timeSample c i v (countSample c i v p)

theorem nextPlace_bli (c : Configuration) (p : Part) : (nextPlace c p).bli = p.bli := by
  unfold nextPlace endScan
  split
  · rfl
  · dsimp only
    split
    · split <;> rfl
    · rfl

theorem nextPlace_channels (c : Configuration) (p : Part) : (nextPlace c p).fls.channels = p.fls.channels := by
  unfold nextPlace endScan
  split
  · rfl
  · dsimp only
    split
    · split <;> rfl
    · rfl

section
variable {s : State} {c : Configuration} {n i : Nat} {pl : Place} {first second : Byte}

/-- A valid sample of an oven with no push, no door RELEASED, is what its control step leaves: no permit is decided. -/
theorem validSample_of_noPush (ho : s.HasOven c n i pl) (hn : s.NoPushOf n) (hd : pl.NoneReleased) {code : Nat} {o : Offtake}
    (control : (controlSample c i (convert c i code) (s.part.counted c i (convert c i code))).Shows i
      ((pl.withOfftake o).withAlarms (Claims.validAlarms c (convert c i code) pl)) s.part.psq.context (s.part.level i)) :
    validSample c i code s.part = controlSample c i (convert c i code) (s.part.counted c i (convert c i code)) :=
  permitPass_of_noneReleased control (hn.not_ready ho.2.2.2) (hd.sampled _ _)

/-- The transaction of a valid sample runs to what the control step leaves, with the scan at the next place. -/
theorem transaction_of_control (ho : s.HasOven c n i pl) (hn : s.NoPushOf n) (hd : pl.NoneReleased)
    (scan : Claims.scanAtPlace s.part i) (valid : 1 ≤ Claims.code first second ∧ Claims.code first second ≤ 4094)
    {o : Offtake} {q : Part} (meaning : controlSample c i (Claims.pressure c i first second)
      (s.part.counted c i (Claims.pressure c i first second)) = q)
    (place : q.Shows i ((pl.withOfftake o).withAlarms (Claims.validAlarms c (Claims.pressure c i first second) pl))
      s.part.psq.context (s.part.level i)) :
    s.Runs (.transactionComplete first second) (nextPlace c q)
      ∧ OvenOnly i (Claims.scanMoved c s.part i) (nextPlace c q)
      ∧ (nextPlace c q).places[i]? = some ((pl.withOfftake o).withAlarms
        (Claims.validAlarms c (Claims.pressure c i first second) pl)) := by
  subst meaning
  have sample := validSample_of_noPush ho hn hd (code := Claims.code first second) place
  have frame := OvenOnly.validSample c i (Claims.code first second) s.part
  rw [sample] at frame
  obtain ⟨moved, places⟩ := frame.nextPlace (c := c) scan
  refine ⟨?_, moved, (congrArg (·[i]?) places).trans place.place⟩
  have runs : s.Runs (.transactionComplete first second) (transactionDone c (Claims.code first second) s.part) :=
    State.whenLoaded_some ho.1 _
  refine runs.congr ((transactionDone_valid scan valid).trans ?_)
  rw [sample]
  rfl

end

/-- Settles O46: the sample is counted, and the control step is the PI step, the entry step, the entry from HOLD or none. -/
theorem validSampleControlsTheValve : Obligations.ValidSampleControlsTheValve := by
  intro s c n i pl first second ho hn hP hC scan least most x o sampled e prop trial acc clamped seed toPi
  have hd := Place.noneReleased_of hP hC
  let place (o' : Offtake) : Place := (pl.withOfftake o').withAlarms (Claims.validAlarms c x pl)
  let q := s.part.counted c i x
  have counted : q.Shows i (place o) s.part.psq.context (s.part.level i) := ho.shows.validCounted c x
  have written : s.part.WritesValve i o.valve q := ho.shows.validCounted_writesValve c x
  have still (meaning : controlSample c i x q = q) : sampled o := by
    obtain ⟨runs, moved, at_place⟩ := transaction_of_control ho hn hd scan ⟨least, most⟩ meaning counted
    exact ⟨_, runs, moved, at_place, (congrArg (·[i]?) (nextPlace_channels c q)).trans written⟩
  have stored {o' : Offtake} (meaning : controlSample c i x q = commitOfftake i o' q) : sampled o' := by
    obtain ⟨runs, moved, at_place⟩ :=
      transaction_of_control ho hn hd scan ⟨least, most⟩ (o := o') meaning (counted.commitOfftake o')
    exact ⟨_, runs, moved, at_place,
      (congrArg (·[i]?) (nextPlace_channels c _)).trans (written.trans (commitOfftake_writesValve counted.place o'))⟩
  have leaves : holdLeavesForPi q (place o) = true ↔ toPi := by
    refine holdLeavesForPi_iff ?_
    rw [isContextOven_eq_false_iff, counted.context]
    exact ho.ne hn
  refine ⟨fun pi step => ?_, fun pi entry => ?_, fun hold => ?_, fun notPi stays => ?_, fun pi changed room => ?_⟩
  · have control : o.control c (setpoint c pl.oven.kept.age pl.doorCondition) x = _ := if_neg (by simp [step])
    exact stored ((controlSample_pi counted.place pi c x).trans (congrArg (commitOfftake i · q) control))
  · have control : o.control c (setpoint c pl.oven.kept.age pl.doorCondition) x = _ := if_pos entry
    exact stored ((controlSample_pi counted.place pi c x).trans (congrArg (commitOfftake i · q) control))
  · intro u _
    have band : u = clampBand c (o.valve : Int) := (clampBand_natCast c o.valve).symm
    clear_value u
    subst band
    exact stored (controlSample_leavesHold counted.place (leaves.mpr hold) c x)
  · exact still (controlSample_still counted.place notPi (fun on => stays (leaves.mp on)) c x)
  · have meaning := controlSample_pi counted.place pi c x
    obtain ⟨runs, -⟩ := transaction_of_control ho hn hd scan ⟨least, most⟩
      (o := o.control c (setpoint c pl.oven.kept.age pl.doorCondition) x) meaning (counted.commitOfftake _)
    refine ⟨_, runs, ?_⟩
    rw [nextPlace_bli, commitOfftake_quiet counted.place (Offtake.control_mode ..).symm (Offtake.control_sub ..).symm, ← ho.2.2.2]
    exact ho.shows.validCounted_carriesOvs room c x changed

end Sys2Proof.Machine

/-! SUPPORT. The car order list on its way through a command (R94 to R98, R106): what is done to a list in line leaves it in
line. -/

namespace Sys2Proof.Machine

open Sys2Proof

/-! ## One order (R94, R95, R97) -/

/-- A deadline runs just in SENT and ACCEPTED, the id is one of R97, and only a SPOT owes an outcome. -/
structure Order.Sound (o : Order) : Prop where
  timed : o.deadline.active = true ↔ o.state ≠ .queued
  id : 1 ≤ o.id ∧ o.id ≤ 255
  owes : o.owed = true → o.kind.owesOutcome = true

namespace Order.Sound

variable {o : Order}

theorem of_new (kind : OrderKind) {id : Nat} (h : 1 ≤ id ∧ id ≤ 255) : (newOrder kind id).Sound :=
  ⟨by simp [newOrder, Timer.active], h, fun owed => owed⟩

/-- To SENT or ACCEPTED, with the deadline of that state (R99, R101). -/
theorem timedIn (h : o.Sound) {state : OrderState} (hs : state ≠ .queued) (toward : Nat) :
    ({ o with state := state, deadline := .running toward } : Order).Sound :=
  ⟨by simp [Timer.active, hs], h.id, h.owes⟩

theorem offer (h : o.Sound) : ({ o with offered := true } : Order).Sound := ⟨h.timed, h.id, h.owes⟩

theorem disown (h : o.Sound) : ({ o with owed := false } : Order).Sound := ⟨h.timed, h.id, nofun⟩

end Order.Sound

/-! ## The list (R94, R96 to R98) -/

/-- The promises about the car order list. -/
structure Qou.InLine (q : Qou) : Prop where
  length : q.orders.length ≤ 4
  behind : ∀ o ∈ q.orders.tail, o.waits
  order : ∀ o ∈ q.orders, o.Sound
  next : 1 ≤ q.nextId ∧ q.nextId ≤ 255

theorem Qou.sound_iff (q : Qou) : q.Sound ↔ q.InLine :=
  ⟨fun ⟨length, behind, timed, id, owes, next⟩ => ⟨length, behind, fun o ho => ⟨timed o ho, id o ho, owes o ho⟩, next⟩,
    fun h => ⟨h.length, h.behind, fun o ho => (h.order o ho).timed, fun o ho => (h.order o ho).id,
      fun o ho => (h.order o ho).owes, h.next⟩⟩

namespace Qou.InLine

variable {q : Qou}

theorem start : Qou.start.InLine := ⟨by simp [Qou.start], by simp [Qou.start], by simp [Qou.start], by simp [Qou.start]⟩

/-- Orders may leave anywhere in the list. -/
theorem sublist (h : q.InLine) {left : List Order} (hl : left.Sublist q.orders) : ({ q with orders := left } : Qou).InLine :=
  ⟨hl.length_le.trans h.length, fun o ho => h.behind o (hl.tail.subset ho), fun o ho => h.order o (hl.subset ho), h.next⟩

/-- The head may become another sound order. -/
theorem withHead (h : q.InLine) {head head' : Order} {rest : List Order} (ho : q.orders = head :: rest)
    (hh : head.Sound → head'.Sound) : ({ q with orders := head' :: rest } : Qou).InLine := by
  obtain ⟨length, behind, order, next⟩ := h
  rw [ho] at length behind order
  obtain ⟨first, others⟩ := List.forall_mem_cons.mp order
  exact ⟨length, behind, List.forall_mem_cons.mpr ⟨hh first, others⟩, next⟩

/-- A new order goes behind the others while fewer than four stand. -/
theorem create (h : q.InLine) (room : q.orders.length < 4) (kind : OrderKind) :
    ({ orders := q.orders ++ [newOrder kind q.nextId], nextId := nextOrderId q.nextId } : Qou).InLine where
  length := by simpa using Nat.succ_le_of_lt room
  behind o ho := by
    have new : (newOrder kind q.nextId).waits := ⟨rfl, rfl⟩
    cases e : q.orders with
    | nil => simp [e] at ho
    | cons head rest =>
      have tail : o ∈ q.orders.tail ∨ o = newOrder kind q.nextId := by simpa [e] using ho
      rcases tail with behind | rfl
      · exact h.behind o behind
      · exact new
  order o ho := by
    rcases List.mem_append.mp ho with old | new
    · exact h.order o old
    · exact List.mem_singleton.mp new ▸ .of_new kind h.next
  next := by
    have := h.next
    rw [nextOrderId_eq]
    dsimp only
    split <;> omega

/-- A withdrawal leaves at most the head, which owes no outcome any more (R106). -/
theorem keptByWithdrawal (h : q.InLine) : ({ q with orders := keptByWithdrawal q.orders } : Qou).InLine := by
  have emptied : ({ q with orders := [] } : Qou).InLine := h.sublist (List.nil_sublist _)
  unfold Machine.keptByWithdrawal
  split
  · exact emptied
  · next head rest e =>
    have alone : ({ q with orders := [head] } : Qou).InLine := h.sublist (by simp [e])
    split
    · exact alone.withHead rfl Order.Sound.disown
    · exact emptied

end Qou.InLine

theorem keptByWithdrawal_length (l : List Order) : (keptByWithdrawal l).length ≤ 1 := by
  unfold keptByWithdrawal
  split
  · exact Nat.zero_le 1
  · split <;> simp

/-! ## What keeps the list in line -/

/-- A list in line in `p` is one in `q`. -/
def Part.KeepsOrders (p q : Part) : Prop := p.qou.InLine → q.qou.InLine

namespace Part.KeepsOrders

variable {p q r : Part}

theorem refl (p : Part) : p.KeepsOrders p := id

theorem trans (h : p.KeepsOrders q) (k : q.KeepsOrders r) : p.KeepsOrders r := k ∘ h

theorem of_qou_eq (h : q.qou = p.qou) : p.KeepsOrders q := by
  unfold Part.KeepsOrders
  rw [h]
  exact id

/-- After a change that leaves the orders. -/
theorem after (k : q.KeepsOrders r) (h : q.qou = p.qou) : p.KeepsOrders r := (of_qou_eq h).trans k

/-- Before a change that leaves the orders. -/
theorem before (k : p.KeepsOrders q) (h : r.qou = q.qou) : p.KeepsOrders r := k.trans (of_qou_eq h)

theorem of_start (h : q.qou = .start) : p.KeepsOrders q := fun _ => h ▸ .start

theorem ite {b : Prop} [Decidable b] (h : b → p.KeepsOrders q) : p.KeepsOrders (if b then q else p) := by
  split
  · next hb => exact h hb
  · exact .refl p

theorem ite_both {b : Prop} [Decidable b] (h : b → p.KeepsOrders q) (k : p.KeepsOrders r) :
    p.KeepsOrders (if b then q else r) := by
  split
  · next hb => exact h hb
  · exact k

theorem withLocal {c : Configuration} {n : Nat} {f : Nat → Part} (h : ∀ i, p.KeepsOrders (f i)) :
    p.KeepsOrders (withLocal c n p f) := by
  unfold Machine.withLocal
  split
  · exact .refl p
  · exact h _

theorem foldl {α : Type} {f : Part → α → Part} (h : ∀ (p : Part) a, p.KeepsOrders (f p a)) (l : List α) (p : Part) :
    p.KeepsOrders (l.foldl f p) := by
  induction l generalizing p with
  | nil => exact .refl p
  | cons a l ih => exact (h p a).trans (ih _)

/-! ### The operations of the QOU -/

theorem keeping {left : List Order} (h : left.Sublist p.qou.orders) : p.KeepsOrders (p.keeping left) :=
  fun inLine => inLine.sublist h

theorem withHead {head head' : Order} {rest : List Order} (ho : p.qou.orders = head :: rest)
    (hh : head.Sound → head'.Sound) : p.KeepsOrders (p.keeping (head' :: rest)) :=
  fun inLine => inLine.withHead ho hh

theorem offerHead (p : Part) : p.KeepsOrders (qouOfferHead p) := fun inLine => by
  rcases qouOfferHead_qou p with same | ⟨head, rest, orders, offered⟩
  · rwa [same]
  · rw [offered]
    exact inLine.withHead orders Order.Sound.offer

theorem append (kind : OrderKind) (room : p.qou.orders.length < 4) : p.KeepsOrders (qouAppend kind p) := by
  have created : p.KeepsOrders (qouCreate kind p) := fun inLine => inLine.create room kind
  unfold qouAppend
  exact .ite_both (fun _ => created.trans (.offerHead _)) created

theorem withdraw (p : Part) : p.KeepsOrders (qouWithdraw p) := by
  have kept : p.KeepsOrders (p.keeping (keptByWithdrawal p.qou.orders)) := Qou.InLine.keptByWithdrawal
  exact kept.trans (.append .release (lt_of_le_of_lt (keptByWithdrawal_length _) (by decide)))

end Part.KeepsOrders

theorem room_of_qouTakes {p : Part} (h : qouTakes p = true) : p.qou.orders.length < 4 := of_decide_eq_true h

end Sys2Proof.Machine

/-! SUPPORT. The operations that leave the car orders alone: those of the ovens, the bids, the scan, the line and the views. -/

namespace Sys2Proof.Machine

open Sys2Proof

section
variable (c : Configuration) (i : Nat) (p : Part)

@[simp] theorem qou_ite (b : Prop) [Decidable b] (q : Part) : (if b then p else q).qou = if b then p.qou else q.qou :=
  apply_ite ..

@[simp] theorem qou_withLocal (n : Nat) (f : Nat → Part) (h : ∀ i, (f i).qou = p.qou) : (withLocal c n p f).qou = p.qou := by
  unfold withLocal
  split
  · rfl
  · exact h _

theorem qou_foldl {α : Type} {f : Part → α → Part} (h : ∀ p a, (f p a).qou = p.qou) (l : List α) (p : Part) :
    (l.foldl f p).qou = p.qou := by
  induction l generalizing p with
  | nil => rfl
  | cons a l ih => exact (ih _).trans (h p a)

/-! ## Alarms, phases, doors and offtakes -/

@[simp] theorem qou_modifyOven (f : Oven → Oven) : (p.modifyOven i f).qou = p.qou := rfl
@[simp] theorem qou_offer (k : Kind) (sub : Subject) (b : List Byte) : (p.offer k sub b).qou = p.qou := rfl
@[simp] theorem qou_offerChr (n : Nat) (r : ChrReason) : (offerChr n r p).qou = p.qou := rfl
@[simp] theorem qou_offerPrf (n : Nat) (r : PrfReason) : (offerPrf n r p).qou = p.qou := rfl
@[simp] theorem qou_modifyContext (f : Context → Context) : (modifyContext f p).qou = p.qou := rfl
@[simp] theorem qou_setStationAlarms (set : Byte) : (setStationAlarms c set p).qou = p.qou := rfl
@[simp] theorem qou_raiseStation (a : StationAlarm) : (raiseStation c a p).qou = p.qou := rfl
@[simp] theorem qou_removeStation (a : StationAlarm) : (removeStation c a p).qou = p.qou := rfl
@[simp] theorem qou_holdStation (a : StationAlarm) (on : Bool) : (holdStation c a on p).qou = p.qou := by
  cases on <;> rfl

@[simp] theorem qou_offerOvs : (p.offerOvs i).qou = p.qou := (OvenOnly.offerOvs i p).qou_eq
@[simp] theorem qou_setAlarms (set : Word16) : (setOvenAlarms c i set p).qou = p.qou := (OvenOnly.setAlarms c i set p).qou_eq
@[simp] theorem qou_raise (a : OvenAlarm) : (raiseOven c i a p).qou = p.qou := (OvenOnly.raise c i a p).qou_eq
@[simp] theorem qou_evalOverdue : (evalOverdue c i p).qou = p.qou := (OvenOnly.evalOverdue c i p).qou_eq
@[simp] theorem qou_commitDoor (side : Side) (d : Door) : (commitDoor c i side d p).qou = p.qou :=
  (OvenOnly.commitDoor c i side d p).qou_eq
@[simp] theorem qou_permitPass : (permitPass c i p).qou = p.qou := (OvenOnly.permitPass c i p).qou_eq
@[simp] theorem qou_commitOfftake (o : Offtake) : (commitOfftake i o p).qou = p.qou := (OvenOnly.commitOfftake i o p).qou_eq
@[simp] theorem qou_settle (o : Offtake) : (settleOfftake c i o p).qou = p.qou := (OvenOnly.settle c i o p).qou_eq
@[simp] theorem qou_setPhase (new : Phase) : (setPhase c i new p).qou = p.qou := (OvenOnly.setPhase c i new p).qou_eq
@[simp] theorem qou_setByAge : (setByAge c i p).qou = p.qou := (OvenOnly.setByAge c i p).qou_eq
@[simp] theorem qou_setHold (hold : Bool) : (setHold i hold p).qou = p.qou := (OvenOnly.setHold i hold p).qou_eq
@[simp] theorem qou_validSample (code : Nat) : (validSample c i code p).qou = p.qou := (OvenOnly.validSample c i code p).qou_eq
@[simp] theorem qou_invalidSample : (invalidSample c i p).qou = p.qou := (OvenOnly.invalidSample c i p).qou_eq
@[simp] theorem qou_loseOven : (loseOven c i p).qou = p.qou := (OvenOnly.loseOven c i p).qou_eq
@[simp] theorem qou_minuteAt : (minuteAt c p i).qou = p.qou := (OvenOnly.minuteAt c p i).qou_eq

/-! ## The push (R38 to R55) -/

@[simp] theorem qou_setContext (x : Option Context) : (setContext c i x p).qou = p.qou := (OvenAndPush.setContext c i x p).qou_eq

@[simp] theorem qou_testArmed (n : Nat) : (testArmed c n p).qou = p.qou := by
  unfold testArmed
  split
  · rfl
  · refine qou_withLocal _ _ _ _ fun i => ?_
    split <;> simp

@[simp] theorem qou_askIsolate : (askIsolate c i p).qou = p.qou := by
  unfold askIsolate
  split <;> simp

@[simp] theorem qou_endReturn : (endReturn c i p).qou = p.qou := (OvenAndPush.endReturn c i p).qou_eq

@[simp] theorem qou_askPi : (askPi c i p).qou = p.qou := by
  unfold askPi
  split <;> simp

@[simp] theorem qou_returnDoorsTest : (returnDoorsTest c i p).qou = p.qou := by
  unfold returnDoorsTest
  split <;> simp

@[simp] theorem qou_closingDoorsTest : (closingDoorsTest c i p).qou = p.qou := by
  unfold closingDoorsTest
  split <;> simp

@[simp] theorem qou_returnAnswered (n : Nat) : (returnAnswered c i n p).qou = p.qou := by
  unfold returnAnswered
  split <;> simp

@[simp] theorem qou_pushAsk (n : Nat) : (pushAsk c i n p).qou = p.qou := by
  have answered : (answerArmed c i n p).qou = p.qou := by
    unfold answerArmed
    split <;> simp
  unfold pushAsk
  split <;> simp [answered]

@[simp] theorem qou_ramStarts (n : Nat) : (ramStarts c i n p).qou = p.qou := by
  have inContext (x : Context) : (ramInContext c i x p).qou = p.qou := by
    unfold ramInContext
    split <;> simp [startRam]
  unfold ramStarts
  split <;> simp [ramOutside, inContext]

@[simp] theorem qou_offerPdn (e : PendingPdn) : (offerPdn e p).qou = p.qou := by simp [offerPdn]

@[simp] theorem qou_rmhLimit : (rmhLimit c p).qou = p.qou := by
  unfold rmhLimit
  split <;> simp

@[simp] theorem qou_doorLimit : (doorLimit c p).qou = p.qou := by
  unfold doorLimit
  split <;> simp

/-! ## The oven commands and the charge (R2 to R18) -/

@[simp] theorem qou_minute : (minute p).qou = p.qou := by
  unfold minute
  split
  · rfl
  · next c _ => exact qou_foldl (fun p i => qou_minuteAt c i p) _ p

@[simp] theorem qou_takeOut : (takeOut c i p).qou = p.qou := by simp [takeOut]

@[simp] theorem qou_panelOut : (panelOut c i p).qou = p.qou := by
  unfold panelOut
  split <;> simp

@[simp] theorem qou_panelIn : (panelIn c i p).qou = p.qou := by simp [panelIn]

@[simp] theorem qou_panelTarget (value : Word16) : (panelTarget value c i p).qou = p.qou := by
  unfold panelTarget
  split <;> simp

@[simp] theorem qou_panelDeclare (value : Word16) (phase : Byte) : (panelDeclare value phase c i p).qou = p.qou := by
  unfold panelDeclare
  split
  · split <;> simp [declareCoking]
  · rfl

@[simp] theorem qou_panelClear (n : Nat) : (panelClear c n p).qou = p.qou := by
  unfold panelClear
  split
  · simp
  · refine qou_withLocal _ _ _ _ fun i => ?_
    unfold clearOvenAlarms
    split <;> simp

@[simp] theorem qou_chargeBegins : (chargeBegins c i p).qou = p.qou := by
  unfold chargeBegins
  split <;> simp

@[simp] theorem qou_chargeFails : (chargeFails c i p).qou = p.qou := by
  unfold chargeFails
  split <;> simp

@[simp] theorem qou_cancelOnDoor (new : DoorState) : (cancelOnDoor c i new p).qou = p.qou := by
  unfold cancelOnDoor
  split <;> simp

@[simp] theorem qou_chargeEnd : (chargeEnd c i p).qou = p.qou := by simp [chargeEnd]

@[simp] theorem qou_chargeLimit : (chargeLimit c i p).qou = p.qou := by
  unfold chargeLimit
  split <;> simp

/-! ## Timers that tell nobody (R66 to R68, R74, R91) -/

@[simp] theorem qou_leakingSpellExpires (side : Side) : (leakingSpellExpires c side i p).qou = p.qou := by
  unfold leakingSpellExpires
  split <;> simp

@[simp] theorem qou_sealedSpellExpires (side : Side) : (sealedSpellExpires c side i p).qou = p.qou := by
  unfold sealedSpellExpires
  split <;> simp

@[simp] theorem qou_highTimerExpires : (highTimerExpires c i p).qou = p.qou := by
  unfold highTimerExpires
  split <;> simp

@[simp] theorem qou_aspirateHoldExpires : (aspirateHoldExpires c i p).qou = p.qou := by
  unfold aspirateHoldExpires
  split <;> simp

/-! ## The bid round (R26 to R36) -/

@[simp] theorem qou_startRound (key : BidKey) : (startRound key p).qou = p.qou := by simp [startRound]

@[simp] theorem qou_evaluateRound : (evaluateRound c p).qou = p.qou := by
  unfold evaluateRound
  split
  · split <;> simp
  · rfl

@[simp] theorem qou_takeBid (r : Rival) : (takeBid c r p).qou = p.qou := by
  have answered : (answerRival c r p).qou = p.qou := by
    unfold answerRival
    cases candidate c p <;> simp
  unfold takeBid
  cases p.bsu.round <;> simp [answered]

/-! ## The scan and the outputs (R124 to R128) -/

@[simp] theorem qou_endScan (early : Bool) : (endScan c early p).qou = p.qou := by simp [endScan]

@[simp] theorem qou_nextPlace : (nextPlace c p).qou = p.qou := by simp [nextPlace, startTransaction]

@[simp] theorem qou_failRest : (failRest c p).qou = p.qou := qou_foldl (fun p i => qou_invalidSample c i p) _ p

@[simp] theorem qou_sendStop : p.sendStop.qou = p.qou := rfl

@[simp] theorem qou_transactionDone (code : Nat) : (transactionDone c code p).qou = p.qou := by simp [transactionDone]

@[simp] theorem qou_channelNack : (channelNack c p).qou = p.qou := by simp [channelNack]

@[simp] theorem qou_addressFails : (addressFails c p).qou = p.qou := by simp [addressFails]

@[simp] theorem qou_clockFails : (clockFails c p).qou = p.qou := by simp [clockFails]

@[simp] theorem qou_startScan : (startScan c p).qou = p.qou := by
  unfold startScan
  split <;> rfl

@[simp] theorem qou_roundRobinOvs : (roundRobinOvs c p).qou = p.qou := qou_offerOvs _ p

@[simp] theorem qou_compareMatch : (compareMatch i p).qou = p.qou := by
  unfold compareMatch
  split <;> simp

@[simp] theorem qou_millisecond (pins : Pins) : (millisecond pins p).qou = p.qou := by
  unfold millisecond
  split <;> rfl

/-! ## The line and the views (R110 to R119, R131, R143) -/

@[simp] theorem qou_scsPeriod : (scsPeriod c p).qou = p.qou := by
  unfold scsPeriod
  split <;> rfl

@[simp] theorem qou_beginAttempt : (beginAttempt c p).qou = p.qou := by
  unfold beginAttempt
  split <;> simp

@[simp] theorem qou_loseContention (urgency station : Nat) : (loseContention c urgency station p).qou = p.qou := by
  unfold loseContention
  split <;> simp

@[simp] theorem qou_takeMst (station : Nat) (position activity load aligned owner : Byte) :
    (takeMst c station position activity load aligned owner p).qou = p.qou := by
  unfold takeMst
  split
  · cases pusherViewOf c position activity <;> rfl
  · split
    · cases guideViewOf c position activity aligned <;> rfl
    · split
      · cases carViewOf c position activity load owner <;> rfl
      · rfl

@[simp] theorem qou_takeOvs (n : Nat) (phase : Phase) (age : Nat) : (takeOvs c n phase age p).qou = p.qou := by
  simp [takeOvs]

@[simp] theorem qou_takePdn (n : Nat) : (takePdn c n p).qou = p.qou := by simp [takePdn]

@[simp] theorem qou_takeScs (station stage : Nat) : (takeScs station stage p).qou = p.qou := by simp [takeScs, peerAdded]

end

end Sys2Proof.Machine

/-! SUPPORT. Where a command reaches the car orders, it leaves the list in line: the push, the car's replies, the doors and
offtakes that abort a push, the line and the start (R39, R48, R51, R56, R98 to R106). -/

namespace Sys2Proof.Machine

open Sys2Proof

section
variable (c : Configuration) (i : Nat) (p : Part)

/-! ## Aborts and limits (R41, R43, R51, R52, R54) -/

theorem abort_keepsOrders (r : AbortReason) : p.KeepsOrders (abort c r p) := by
  unfold abort
  split
  · exact .refl p
  · refine .withLocal fun i => ?_
    let alarmed := raiseOven c i .pushAborted (modifyContext (·.aborted r) p)
    have withdrawn : p.KeepsOrders (qouWithdraw alarmed) := (Part.KeepsOrders.withdraw _).after (by simp [alarmed])
    exact withdrawn.before (by simp [alarmed])

theorem abortIfOpen_keepsOrders (n : Nat) (r : AbortReason) : p.KeepsOrders (abortIfOpen c n r p) := by
  unfold abortIfOpen
  split
  · exact .refl p
  · exact .ite fun _ => abort_keepsOrders c p r

theorem panelAbort_keepsOrders (n : Nat) : p.KeepsOrders (panelAbort c n p) := by
  unfold panelAbort
  split
  · exact .refl p
  · exact .ite fun _ => abortIfOpen_keepsOrders c p _ _

theorem prepareLimit_keepsOrders : p.KeepsOrders (prepareLimit c p) := by
  unfold prepareLimit
  split
  · exact .refl p
  · exact .ite fun _ => .ite_both (fun _ => (abort_keepsOrders c _ _).after rfl) (.of_qou_eq rfl)

theorem armedLimit_keepsOrders : p.KeepsOrders (armedLimit c p) := by
  unfold armedLimit
  split
  · exact .refl p
  · exact .ite fun _ => abort_keepsOrders c p _

/-! ## The round won and ram home (R29, R39, R48, R53) -/

theorem orderSpot_keepsOrders (n : Nat) : p.KeepsOrders (orderSpot c n p) :=
  .ite_both (fun takes => (Part.KeepsOrders.append _ (room_of_qouTakes takes)).before rfl) (abort_keepsOrders c p _)

theorem takeWin_keepsOrders (n : Nat) : p.KeepsOrders (takeWin c n p) :=
  .withLocal fun i => .ite fun _ => (orderSpot_keepsOrders c _ n).after (by simp)

theorem decideRound_keepsOrders : p.KeepsOrders (decideRound c p) := by
  unfold decideRound
  split
  · exact .ite fun _ => .ite_both (fun _ => (takeWin_keepsOrders c _ _).after rfl) (.of_qou_eq rfl)
  · exact .refl p

theorem orderAtHome_keepsOrders (kind : OrderKind) : p.KeepsOrders (orderAtHome c kind p) :=
  .ite_both (fun takes => .append kind (room_of_qouTakes takes)) (.of_qou_eq rfl)

theorem ramHome_keepsOrders (x : Context) (stroke : Nat) : p.KeepsOrders (ramHome c i x stroke p) := by
  let done := offerPdn ⟨x.oven, stroke, x.unpermitted⟩ p
  have quench : p.KeepsOrders (orderAtHome c (.quench c.quenchTime) done) :=
    (orderAtHome_keepsOrders c done _).after (by simp [done])
  have dump := quench.trans (orderAtHome_keepsOrders c _ .dump)
  exact dump.before (by simp [ramHome, done])

/-! ## Car replies and deadlines (R56, R99 to R105) -/

theorem takeOutcome_keepsOrders (r : Outcome) : p.KeepsOrders (takeOutcome c r p) := by
  unfold takeOutcome
  split
  · exact .refl p
  · refine .ite fun _ => ?_
    cases r with
    | done => exact .of_qou_eq (by simp)
    | refused => exact .ite_both (fun _ => (abort_keepsOrders c _ _).after rfl) (.of_qou_eq rfl)
    | timeout => exact .ite_both (fun _ => (abort_keepsOrders c _ _).after rfl) (.of_qou_eq rfl)

theorem headLeaves_keepsOrders (head : Order) {left : List Order} (hl : left.Sublist p.qou.orders) (r : Outcome) :
    p.KeepsOrders (headLeaves c head left r p) := by
  have removed : p.KeepsOrders (p.keeping left) := .keeping hl
  exact Part.KeepsOrders.trans (.ite_both (fun _ => removed.trans (takeOutcome_keepsOrders c _ r)) removed) (.offerHead _)

theorem carReply_keepsOrders (id verdict : Nat) : p.KeepsOrders (carReply c id verdict p) := by
  unfold carReply
  split
  · next head rest v orders _ =>
    refine .ite fun _ => .ite fun _ => ?_
    have behind : rest.Sublist p.qou.orders := orders ▸ List.sublist_cons_self head rest
    cases v with
    | accept => exact .ite_both (fun _ => .refl p) (.withHead orders fun sound => sound.timedIn (by decide) _)
    | done => exact headLeaves_keepsOrders c p head behind .done
    | refuse => exact headLeaves_keepsOrders c p head (List.filter_sublist.trans behind) .refused
  · exact .refl p

theorem deadline_keepsOrders : p.KeepsOrders (deadline c p) := by
  unfold deadline
  split
  · exact .refl p
  · next head _ _ =>
    have emptied : p.KeepsOrders (p.timedOut c (p.deadlineAlarms head)) := Part.KeepsOrders.keeping (List.nil_sublist _)
    rw [deadlineExpires_eq]
    exact .ite fun _ => .ite_both (fun _ => emptied.trans (takeOutcome_keepsOrders c _ .timeout)) emptied

theorem orderHeardBack_keepsOrders (id : Nat) : p.KeepsOrders (orderHeardBack id p) := by
  unfold orderHeardBack
  split
  · exact .refl p
  · next head rest orders => exact .ite fun _ => .withHead orders fun sound => sound.timedIn (by decide) _

/-! ## Reports and door changes told (R14 to R16, R40 to R55) -/

theorem tellReport_keepsOrders (n : Nat) (r : Report) : p.KeepsOrders (tellReport c i n r p) := by
  cases r with
  | isolateFailed => exact abortIfOpen_keepsOrders c p n .isolateFail
  | _ => exact .of_qou_eq (by simp [tellReport])

theorem tellOfftake_keepsOrders (new : Offtake) (alarm : Option OvenAlarm) : p.KeepsOrders (tellOfftake c i new alarm p) := by
  unfold tellOfftake
  split
  · exact .refl p
  · next pl _ =>
    dsimp only
    refine Part.KeepsOrders.trans ?_ (.of_qou_eq (qou_permitPass c i _))
    have told (q : Part) (h : q.qou = p.qou) : p.KeepsOrders
        (match reportOf pl.offtake new with | none => q | some r => tellReport c i pl.oven.number r q) := by
      split
      · exact .of_qou_eq h
      · exact (tellReport_keepsOrders c i q _ _).after h
    cases alarm with
    | none => exact told _ (by simp)
    | some a => exact told _ (by simp)

theorem askAspirate_keepsOrders : p.KeepsOrders (askAspirate c i p) := by
  unfold askAspirate
  split
  · exact .refl p
  · exact tellOfftake_keepsOrders c i p _ none

theorem chargeAsk_keepsOrders : p.KeepsOrders (chargeAsk c i p) := by
  unfold chargeAsk
  split
  · exact .refl p
  · refine .ite_both (fun _ => ?_) (.ite_both (fun _ => ?_) (.ite_both (fun _ => ?_) ?_))
    · exact .of_qou_eq rfl
    · exact .of_qou_eq rfl
    · exact .of_qou_eq rfl
    · exact (askAspirate_keepsOrders c i _).after rfl

theorem returnToPrepare_keepsOrders (x : Context) : p.KeepsOrders (returnToPrepare c i x p) :=
  .ite_both (fun _ => (abort_keepsOrders c _ _).after (by simp)) (.of_qou_eq (by simp))

theorem psqDoorChange_keepsOrders (old new : DoorState) (x : Context) : p.KeepsOrders (psqDoorChange c i old new x p) := by
  unfold psqDoorChange
  split
  · exact .ite_both (fun _ => abort_keepsOrders c p _) (.of_qou_eq (by simp))
  · exact .ite_both (fun _ => abort_keepsOrders c p _) (.ite fun _ => returnToPrepare_keepsOrders c i p x)
  · exact .refl p
  · exact .of_qou_eq (by simp)
  · exact .of_qou_eq (by simp)

theorem tellDoor_keepsOrders (old new : DoorState) : p.KeepsOrders (tellDoor c i old new p) := by
  have cancelled : p.KeepsOrders (cancelOnDoor c i new p) := .of_qou_eq (by simp)
  unfold tellDoor
  split
  · exact .refl p
  · split
    · exact .refl p
    · dsimp only
      split
      · exact cancelled
      · exact .ite_both (fun _ => cancelled.trans (psqDoorChange_keepsOrders c i _ old new _)) cancelled

theorem changeDoor_keepsOrders (side : Side) (d : Door) : p.KeepsOrders (changeDoor c i side d p) := by
  unfold changeDoor
  split
  · exact .refl p
  · refine (tellDoor_keepsOrders c i _ _ _).after ?_
    rw [qou_foldl fun p a => qou_raise c i p a, qou_commitDoor]

/-! ## Switches and timers (R60 to R68, R85 to R89, R121) -/

theorem deliver_keepsOrders (input : SwitchInput) (level : Bool) : p.KeepsOrders (deliver c i input level p) := by
  unfold deliver
  split
  · unfold offtakeSwitch
    split
    · exact .refl p
    · exact .ite_both (fun _ => tellOfftake_keepsOrders c i p _ _) (tellOfftake_keepsOrders c i p _ _)
  · unfold doorSwitch
    split
    · exact .refl p
    · dsimp only
      split
      · exact changeDoor_keepsOrders c i p _ _
      · exact changeDoor_keepsOrders c i p _ _
      · exact changeDoor_keepsOrders c i p _ _
      · exact .refl p

theorem debounce_keepsOrders (input : SwitchInput) : p.KeepsOrders (debounce i input p) := by
  unfold debounce
  split
  · exact .refl p
  · refine .ite fun _ => ?_
    dsimp only
    split
    · exact (deliver_keepsOrders _ i _ input _).after rfl
    · exact .of_qou_eq rfl

theorem leakExpires_keepsOrders (side : Side) : p.KeepsOrders (leakExpires c side i p) := by
  unfold leakExpires
  split
  · exact .refl p
  · exact .ite fun _ => changeDoor_keepsOrders c i p side _

theorem clearExpires_keepsOrders (side : Side) : p.KeepsOrders (clearExpires c side i p) := by
  unfold clearExpires
  split
  · exact .refl p
  · exact .ite fun _ => changeDoor_keepsOrders c i p side _

theorem valveTimerExpires_keepsOrders : p.KeepsOrders (valveTimerExpires c i p) := by
  unfold valveTimerExpires
  split
  · exact .refl p
  · exact .ite fun _ => tellOfftake_keepsOrders c i p _ _

theorem capTimerExpires_keepsOrders : p.KeepsOrders (capTimerExpires c i p) := by
  unfold capTimerExpires
  split
  · exact .refl p
  · exact .ite fun _ => tellOfftake_keepsOrders c i p _ _

/-! ## Echoes and attempts that fail (R98, R99, R134, R135) -/

/-- Of what a removal lets in only the head's QCO is about the orders. -/
theorem tellRemoval_keepsOrders : p.KeepsOrders (tellRemoval p) := by
  refine (Part.KeepsOrders.offerHead p).before ?_
  rw [tellRemoval, (reofferPdns_keeps _).1, reofferChps, qou_foldl reofferChp_qou]

theorem heardBack_keepsOrders (k : Kind) (sub : Subject) : p.KeepsOrders (heardBack c k sub p) := by
  unfold heardBack
  split
  · exact .ite fun _ => .of_qou_eq rfl
  · exact orderHeardBack_keepsOrders p _
  · exact .refl p

theorem succeed_keepsOrders : p.KeepsOrders (succeed c p) := by
  cases ha : p.bli.attempt with
  | none => simpa [succeed, ha] using Part.KeepsOrders.refl p
  | some a =>
    have heard : p.KeepsOrders (heardBack c a.kind a.subject (Claims.heard c a p)) := (heardBack_keepsOrders c _ _ _).after rfl
    obtain ⟨lvt, routed⟩ := routeEcho_frame c a.kind a.subject (if a.replaced then
      heardBack c a.kind a.subject (Claims.heard c a p) else tellRemoval (heardBack c a.kind a.subject (Claims.heard c a p)))
    rw [succeed_eq ha, routed]
    exact Part.KeepsOrders.before (.ite_both (fun _ => heard) (heard.trans (tellRemoval_keepsOrders _))) rfl

theorem fail_keepsOrders : p.KeepsOrders (fail c p) := by
  unfold fail
  split
  · exact .refl p
  · refine .ite_both (fun _ => ?_) (.of_qou_eq rfl)
    exact (Part.KeepsOrders.foldl (fun q _ => tellRemoval_keepsOrders q) _ _).after rfl

/-! ## Loads, supplies and resets (R147 to R149) -/

theorem loadDone_keepsOrders (acked : Bool) (block : List Byte) (low : Bool) : p.KeepsOrders (loadDone acked block low p) := by
  refine .ite fun _ => ?_
  split
  · exact .of_qou_eq rfl
  · exact .of_start rfl

theorem assertReset_keepsOrders : p.KeepsOrders (assertReset p) :=
  .ite_both (fun _ => .refl p) (.ite_both (fun _ => .of_start rfl) (.of_qou_eq rfl))

theorem releaseReset_keepsOrders : p.KeepsOrders (releaseReset p) :=
  .ite fun _ => .ite_both (fun _ => .of_start rfl) (.of_qou_eq rfl)

theorem applyMain_keepsOrders : p.KeepsOrders (applyMain p) :=
  .ite_both (fun _ => .refl p) (.ite_both (fun _ => .of_start rfl) (.of_start rfl))

theorem loseMain_keepsOrders : p.KeepsOrders (loseMain p) :=
  .ite fun _ => .ite_both (fun _ => .of_start rfl) (.of_start rfl)

theorem loseBackup_keepsOrders : p.KeepsOrders (loseBackup p) := .ite_both (fun _ => .of_qou_eq rfl) (.of_qou_eq rfl)

end

end Sys2Proof.Machine

/-! SUPPORT. Every command leaves the car order list in line (R94 to R98, R105, R106). -/

namespace Sys2Proof.Machine

open Sys2Proof

/-- Whatever next state an answer gives has its car orders in line if `s` has. -/
def State.AnswerKeepsOrders (s : State) (r : Host.Outcome State Fault Refusal) : Prop :=
  ∀ t, r = .next t → s.part.KeepsOrders t.part

section
variable {s : State}

theorem State.update_keepsOrders {f : Part → Part} (h : s.part.KeepsOrders (f s.part)) : s.AnswerKeepsOrders (s.update f) := by
  intro t e
  cases e
  exact h

theorem State.whenLoaded_keepsOrders {f : Configuration → Part → Part} (h : ∀ c, s.part.KeepsOrders (f c s.part)) :
    s.AnswerKeepsOrders (s.whenLoaded f) := by
  refine State.update_keepsOrders ?_
  cases s.part.config with
  | none => exact .refl _
  | some c => exact h c

/-- A command that leaves the car orders alone. -/
theorem State.update_sameOrders {f : Part → Part} (h : (f s.part).qou = s.part.qou) : s.AnswerKeepsOrders (s.update f) :=
  State.update_keepsOrders (.of_qou_eq h)

theorem State.whenLoaded_sameOrders {f : Configuration → Part → Part} (h : ∀ c, (f c s.part).qou = s.part.qou) :
    s.AnswerKeepsOrders (s.whenLoaded f) := State.whenLoaded_keepsOrders fun c => .of_qou_eq (h c)

theorem panelAt_sameOrders {h : Header} {oven : Byte} {f : Configuration → Nat → Part → Part}
    (hf : ∀ c i p, (f c i p).qou = p.qou) : s.AnswerKeepsOrders (panelAt h oven f s) :=
  State.whenLoaded_sameOrders fun c => by simp [hf]

/-- The expiry of a timer of one oven. -/
theorem ovenTimer_keepsOrders {oven : Nat} {f : Configuration → Nat → Part → Part}
    (hf : ∀ c i, s.part.KeepsOrders (f c i s.part)) :
    s.AnswerKeepsOrders (s.whenLoaded fun c p => withLocal c oven p fun i => f c i p) :=
  State.whenLoaded_keepsOrders fun c => .withLocal fun i => hf c i

/-- The expiry of a timer of one oven that leaves the car orders alone. -/
theorem ovenTimer_sameOrders {oven : Nat} {f : Configuration → Nat → Part → Part} (hf : ∀ c i p, (f c i p).qou = p.qou) :
    s.AnswerKeepsOrders (s.whenLoaded fun c p => withLocal c oven p fun i => f c i p) :=
  ovenTimer_keepsOrders fun c i => .of_qou_eq (hf c i _)

end

/-- Every command leaves the car orders in line. -/
theorem exec_keepsOrders (i : Instr) (s : State) : s.AnswerKeepsOrders (exec i s) := by
  cases i with
  | minuteExpiry => exact State.update_sameOrders (by simp)
  | pnlHold h oven => exact panelAt_sameOrders (by simp)
  | pnlRelease h oven => exact panelAt_sameOrders (by simp)
  | pnlOut h oven => exact panelAt_sameOrders (by simp)
  | pnlIn h oven => exact panelAt_sameOrders (by simp)
  | pnlTarget h oven value => exact panelAt_sameOrders (by simp)
  | pnlDeclare h oven value phase => exact panelAt_sameOrders (by simp)
  | pnlAbort h oven => exact State.whenLoaded_keepsOrders fun c => .ite fun _ => panelAbort_keepsOrders c _ _
  | pnlClear h oven => exact State.whenLoaded_sameOrders (by simp)
  | cha h oven => exact State.whenLoaded_keepsOrders fun c => .ite fun _ => .withLocal fun i => chargeAsk_keepsOrders c i _
  | che h oven => exact State.whenLoaded_sameOrders (by simp)
  | chargeLimitExpiry oven => exact ovenTimer_sameOrders qou_chargeLimit
  | evaluationExpiry low =>
    unfold exec execEvaluationExpiry
    refine State.whenLoaded_sameOrders fun c => (qou_holdStation ..).trans ?_
    exact qou_evaluateRound c s.part
  | bid h oven lateness => exact State.whenLoaded_sameOrders (by simp)
  | windowExpiry => exact State.whenLoaded_keepsOrders fun c => decideRound_keepsOrders c _
  | holdOffExpiry =>
    unfold exec execHoldOffExpiry
    exact State.whenLoaded_sameOrders fun _ => rfl
  | deferralExpiry => exact State.whenLoaded_sameOrders (by simp)
  | pas h oven => exact State.whenLoaded_sameOrders (by simp)
  | rms h oven => exact State.whenLoaded_sameOrders (by simp)
  | rmh h oven stroke =>
    refine State.whenLoaded_keepsOrders fun c => .ite fun _ => ?_
    split
    · exact .refl _
    · next x _ => exact .ite fun _ => .withLocal fun i => ramHome_keepsOrders c i _ x _
  | prepareLimitExpiry => exact State.whenLoaded_keepsOrders fun c => prepareLimit_keepsOrders c _
  | armedLimitExpiry => exact State.whenLoaded_keepsOrders fun c => armedLimit_keepsOrders c _
  | permitTimerExpiry => exact State.whenLoaded_sameOrders (by simp)
  | rmhLimitExpiry => exact State.whenLoaded_sameOrders (by simp)
  | doorLimitExpiry => exact State.whenLoaded_sameOrders (by simp)
  | debounceExpiry place input =>
    unfold exec execDebounceExpiry
    exact State.update_keepsOrders (.ite_both (fun _ => .refl _) (debounce_keepsOrders _ _ input))
  | leakTimerExpiry oven side => exact ovenTimer_keepsOrders fun c i => leakExpires_keepsOrders c i _ side
  | clearTimerExpiry oven side => exact ovenTimer_keepsOrders fun c i => clearExpires_keepsOrders c i _ side
  | leakingSpellExpiry oven side => exact ovenTimer_sameOrders fun c i p => qou_leakingSpellExpires c i p side
  | sealedSpellExpiry oven side => exact ovenTimer_sameOrders fun c i p => qou_sealedSpellExpires c i p side
  | valveMotionTimerExpiry oven => exact ovenTimer_keepsOrders fun c i => valveTimerExpires_keepsOrders c i _
  | capMotionTimerExpiry oven => exact ovenTimer_keepsOrders fun c i => capTimerExpires_keepsOrders c i _
  | pressureHighTimerExpiry oven => exact ovenTimer_sameOrders qou_highTimerExpires
  | aspirateHoldExpiry oven => exact ovenTimer_sameOrders qou_aspirateHoldExpires
  | quarterSecondExpiry =>
    unfold exec execQuarterSecondExpiry
    exact State.whenLoaded_sameOrders (by simp)
  | transactionComplete first second => exact State.whenLoaded_sameOrders (by simp)
  | channelByteNack => exact State.whenLoaded_sameOrders (by simp)
  | addressNack => exact State.whenLoaded_sameOrders (by simp)
  | clockHoldTimeout => exact State.whenLoaded_sameOrders (by simp)
  | pwmPeriodEnd => exact State.update_sameOrders rfl
  | qcr h id verdict reason =>
    exact State.whenLoaded_keepsOrders fun c => .ite fun _ => carReply_keepsOrders c _ _ _
  | deadlineExpiry => exact State.whenLoaded_keepsOrders fun c => deadline_keepsOrders c _
  | mst h position activity load aligned owner => exact State.whenLoaded_sameOrders (by simp)
  | machineViewFreshnessExpiry view =>
    unfold exec execMachineViewFreshnessExpiry
    exact State.whenLoaded_sameOrders fun _ => rfl
  | ovs h oven stateWord lateness doors offtake pressure alarms =>
    refine State.whenLoaded_sameOrders fun c => ?_
    cases phaseOfCode (stateWordPhase stateWord) <;> simp
  | neighbourViewFreshnessExpiry view =>
    unfold exec execNeighbourViewFreshnessExpiry
    exact State.whenLoaded_sameOrders fun _ => rfl
  | pdn h oven stroke unpermitted => exact State.whenLoaded_sameOrders (by simp)
  | scs h stage oven reason anchor count head alarms => exact State.whenLoaded_sameOrders (by simp)
  | refreshTimerExpiry station =>
    unfold exec execRefreshTimerExpiry
    exact State.whenLoaded_sameOrders fun _ => rfl
  | settleTimerExpiry => exact State.whenLoaded_sameOrders (by simp)
  | lineIdleAttempt => exact State.whenLoaded_sameOrders (by simp)
  | lostContention urgency station => exact State.whenLoaded_sameOrders (by simp)
  | attemptSucceeded => exact State.whenLoaded_keepsOrders fun c => succeed_keepsOrders c _
  | attemptFailed => exact State.whenLoaded_keepsOrders fun c => fail_keepsOrders c _
  | silentExpiry => exact State.whenLoaded_sameOrders (by simp)
  | scsPeriodExpiry => exact State.whenLoaded_sameOrders (by simp)
  | configLoadComplete acked block low => exact State.update_keepsOrders (loadDone_keepsOrders _ acked block low)
  | configLoadClockTimeout => exact State.update_keepsOrders (.ite fun _ => .of_qou_eq rfl)
  | configRetryExpiry => exact State.update_keepsOrders (.ite fun _ => .of_qou_eq rfl)
  | resetAsserted => exact State.update_keepsOrders (assertReset_keepsOrders _)
  | resetReleased => exact State.update_keepsOrders (releaseReset_keepsOrders _)
  | mainSupplyApplied => exact State.update_keepsOrders (applyMain_keepsOrders _)
  | mainSupplyLost => exact State.update_keepsOrders (loseMain_keepsOrders _)
  | backupSupplyLost => exact State.update_keepsOrders (loseBackup_keepsOrders _)
  | millisecondExpiry pins => exact State.update_sameOrders (by simp)
  | pwmCompareMatch place =>
    unfold exec execPwmCompareMatch
    exact State.update_sameOrders (by simp)

/-- Settles O5, by the promises about the car order list that every command keeps. -/
theorem carOrdersStayInLine : Obligations.CarOrdersStayInLine := by
  intro s t sound next
  rw [Qou.sound_iff] at sound ⊢
  unfold step at next
  split at next
  · cases next
    exact sound
  · next i rest _ => exact exec_keepsOrders i { s with pending := rest } t next sound

end Sys2Proof.Machine

/-! SUPPORT. A car reply about an order that owes no outcome, or about none (R100 to R103). -/

namespace Sys2Proof.Machine

open Sys2Proof

/-! ## Replies that are stray (R100, R150) -/

theorem verdictOfCode_unknown {verdict : Byte} (h : verdict = 0 ∨ verdict.toNat > 3) : verdictOfCode verdict.toNat = none := by
  rcases h with rfl | above
  · rfl
  · obtain ⟨n, e⟩ := Nat.exists_eq_add_of_lt above
    rw [e, show 3 + n + 1 = n + 4 by omega]
    rfl

theorem inFlight_eq_false_iff (o : Order) : o.inFlight = false ↔ ¬Claims.onTheLine o := by
  rw [← Bool.not_eq_true, inFlight_iff, Claims.onTheLine]

section
variable {c : Configuration} {p : Part} {head : Order} {rest : List Order}

theorem carReply_empty (h : p.qou.orders = []) (id verdict : Nat) : carReply c id verdict p = p := by
  simp only [carReply, h]

/-- Another id, an unknown verdict or a head not on the line: the reply is stray. -/
theorem carReply_stray (ho : p.qou.orders = head :: rest) {id verdict : Byte}
    (h : head.id ≠ id.toNat ∨ verdict = 0 ∨ verdict.toNat > 3 ∨ ¬Claims.onTheLine head) :
    carReply c id.toNat verdict.toNat p = p := by
  unfold carReply
  split
  · next head' rest' v orders known =>
    obtain ⟨rfl, rfl⟩ := List.cons.inj (ho.symm.trans orders)
    split
    · next same =>
      rcases h with other | zero | above | offLine
      · exact absurd same other
      · simp [verdictOfCode_unknown (.inl zero)] at known
      · simp [verdictOfCode_unknown (.inr above)] at known
      · simp [headReply, (inFlight_eq_false_iff head).mpr offLine]
    · rfl
  · rfl

/-! ## Replies to the head (R95, R101 to R103) -/

theorem doneDeadline_eq (k : OrderKind) : k.doneDeadline = Claims.doneDeadline k := by
  cases k <;> rfl

theorem headReply_accept_again (line : Claims.onTheLine head) (h : head.state = .accepted) :
    headReply c .accept head rest p = p := by
  simp only [headReply, (inFlight_iff head).mpr line, h, if_true]

theorem headReply_accept (line : Claims.onTheLine head) (h : head.state ≠ .accepted) : headReply c .accept head rest p
    = p.keeping ({ head with state := .accepted, deadline := .running (Claims.doneDeadline head.kind) } :: rest) := by
  simp only [headReply, (inFlight_iff head).mpr line, h, if_true, if_false, acceptHead, doneDeadline_eq]
  rfl

/-- A head that owes nothing leaves the list and tells nobody. -/
theorem headLeaves_owing_nothing (owed : head.owed = false) {left : List Order} (hw : ∀ o ∈ left, o.waits) (r : Outcome) :
    headLeaves c head left r p = Claims.headOffered p left :=
  headLeaves_offers hw (if_neg (by simp [owed]))

end

/-- Settles O51, by the reply's verdict about the head. -/
theorem carRepliesMoveTheHead : Obligations.CarRepliesMoveTheHead := by
  intro s c h id verdict reason hf hc sound
  have runs : s.Runs (.qcr h id verdict reason) (carReply c id.toNat verdict.toNat s.part) :=
    (runs_of_whenLoaded hc (i := .qcr h id verdict reason) rfl).congr (if_pos hf)
  refine ⟨fun empty => runs.ignores (carReply_empty empty _ _), fun head rest ho =>
    ⟨fun stray => runs.ignores (carReply_stray ho stray), fun same line => ?_⟩⟩
  have about : RepliesTo c head verdict (.qcr h id verdict reason) := ⟨h, id, reason, rfl, hf, same, line⟩
  have behind : ∀ o ∈ rest, o.waits := by
    have tail := ((Qou.sound_iff _).mp sound).behind
    rwa [ho] at tail
  refine ⟨?_, ?_, ?_, ?_⟩
  · rintro rfl accepted
    exact (reply_runs hc ho (v := .accept) rfl about).ignores (headReply_accept_again line accepted)
  · rintro rfl sent
    exact (reply_runs hc ho (v := .accept) rfl about).congr (headReply_accept line sent)
  · rintro rfl owed
    exact (done_runs hc ho about).congr (headLeaves_owing_nothing owed behind .done)
  · rintro rfl owed
    exact (refuse_runs hc ho about).congr
      (headLeaves_owing_nothing owed (fun o mem => behind o (List.mem_of_mem_filter mem)) .refused)

end Sys2Proof.Machine

/-! SUPPORT. What an MST makes of the view of its station (R110 to R112): the codes of its fields, the view that the fields of
each station fill, and the view that takes it. -/

namespace Sys2Proof.Machine

open Sys2Proof

/-! ## The codes of the fields (R110, R150) -/

theorem activityOfCode_activityCode (a : Activity) : activityOfCode (Claims.activityCode a) = some a := by cases a <;> rfl

theorem loadOfCode_loadCode (l : Load) : loadOfCode (Claims.loadCode l) = some l := by cases l <;> rfl

theorem flagOfCode_toNat (g : Bool) : flagOfCode g.toNat = some g := by cases g <;> rfl

section
variable {n : Nat}

theorem activityOfCode_unknown (h : 2 < n) : activityOfCode n = none := by
  obtain ⟨k, rfl⟩ := Nat.exists_eq_add_of_le' h
  rfl

theorem loadOfCode_unknown (h : 2 < n) : loadOfCode n = none := by
  obtain ⟨k, rfl⟩ := Nat.exists_eq_add_of_le' h
  rfl

theorem flagOfCode_unknown (h : 1 < n) : flagOfCode n = none := by
  obtain ⟨k, rfl⟩ := Nat.exists_eq_add_of_le' h
  rfl

theorem positionInRange_iff (c : Configuration) : positionInRange c n = true ↔ Claims.inRange c n := by
  simp [positionInRange, Claims.inRange, or_assoc]

end

section
variable {c : Configuration} {position activity load aligned owner : Byte}

/-! ## The view that the fields fill (R110, R111) -/

section
variable {a : Activity} (ha : activity.toNat = Claims.activityCode a) (inside : Claims.inRange c position.toNat)
include ha inside

theorem pusherViewOf_inRange : pusherViewOf c position activity = some ⟨position.toNat, a, .running 3000⟩ := by
  rw [pusherViewOf, ha, activityOfCode_activityCode]
  exact if_pos ((positionInRange_iff c).mpr inside)

theorem guideViewOf_inRange {g : Bool} (hg : aligned.toNat = g.toNat) :
    guideViewOf c position activity aligned = some ⟨position.toNat, a, g, .running 3000⟩ := by
  rw [guideViewOf, ha, activityOfCode_activityCode, hg, flagOfCode_toNat]
  exact if_pos ((positionInRange_iff c).mpr inside)

theorem carViewOf_inRange {l : Load} (hl : load.toNat = Claims.loadCode l) (ho : owner.toNat ≤ 63) :
    carViewOf c position activity load owner = some ⟨position.toNat, a, l, owner.toNat, .running 3000⟩ := by
  rw [carViewOf, ha, activityOfCode_activityCode, hl, loadOfCode_loadCode]
  exact if_pos ⟨(positionInRange_iff c).mpr inside, ho⟩

end

theorem pusherViewOf_outOfRange (h : 2 < activity.toNat ∨ ¬Claims.inRange c position.toNat) :
    pusherViewOf c position activity = none := by
  unfold pusherViewOf
  split
  · next a known =>
    rcases h with unknown | outside
    · simp [activityOfCode_unknown unknown] at known
    · exact if_neg (mt (positionInRange_iff c).mp outside)
  · rfl

theorem guideViewOf_outOfRange (h : 2 < activity.toNat ∨ 1 < aligned.toNat ∨ ¬Claims.inRange c position.toNat) :
    guideViewOf c position activity aligned = none := by
  unfold guideViewOf
  split
  · next a g known flag =>
    rcases h with unknown | noFlag | outside
    · simp [activityOfCode_unknown unknown] at known
    · simp [flagOfCode_unknown noFlag] at flag
    · exact if_neg (mt (positionInRange_iff c).mp outside)
  · rfl

theorem carViewOf_outOfRange
    (h : 2 < activity.toNat ∨ 2 < load.toNat ∨ 63 < owner.toNat ∨ ¬Claims.inRange c position.toNat) :
    carViewOf c position activity load owner = none := by
  unfold carViewOf
  split
  · next a l known loaded =>
    rcases h with unknown | noLoad | nobody | outside
    · simp [activityOfCode_unknown unknown] at known
    · simp [loadOfCode_unknown noLoad] at loaded
    · exact if_neg fun inside => absurd inside.2 (by omega)
    · exact if_neg fun inside => outside ((positionInRange_iff c).mp inside.1)
  · rfl

/-! ## The view that takes it (R111) -/

section
variable {station : Nat} (p : Part)

/-- A view that the fields do not fill stays as it is. -/
theorem takeMst_pusher (own : station = c.pusherStation) : takeMst c station position activity load aligned owner p
    = { p with lvt := { p.lvt with pusher := (pusherViewOf c position activity).or p.lvt.pusher } } := by
  rw [takeMst, if_pos own]
  cases pusherViewOf c position activity <;> rfl

theorem takeMst_guide (notPusher : station ≠ c.pusherStation) (own : station = c.guideStation) :
    takeMst c station position activity load aligned owner p
      = { p with lvt := { p.lvt with guide := (guideViewOf c position activity aligned).or p.lvt.guide } } := by
  rw [takeMst, if_neg notPusher, if_pos own]
  cases guideViewOf c position activity aligned <;> rfl

theorem takeMst_car (notPusher : station ≠ c.pusherStation) (notGuide : station ≠ c.guideStation)
    (own : station = c.carStation) : takeMst c station position activity load aligned owner p
      = { p with lvt := { p.lvt with car := (carViewOf c position activity load owner).or p.lvt.car } } := by
  rw [takeMst, if_neg notPusher, if_neg notGuide, if_pos own]
  cases carViewOf c position activity load owner <;> rfl

theorem takeMst_elsewhere (notPusher : station ≠ c.pusherStation) (notGuide : station ≠ c.guideStation)
    (notCar : station ≠ c.carStation) : takeMst c station position activity load aligned owner p = p := by
  rw [takeMst, if_neg notPusher, if_neg notGuide, if_neg notCar]

end

theorem mst_runs {s : State} {h : Header} (hc : s.part.config = some c) (hf : fromOther h c = true) :
    s.Runs (.mst h position activity load aligned owner)
      (takeMst c h.station.toNat position activity load aligned owner s.part) :=
  (runs_of_whenLoaded hc (i := .mst h position activity load aligned owner) rfl).congr (if_pos hf)

/-! ## An expiry (R112) -/

theorem machineViewFreshnessExpiry_runs {s : State} (hc : s.part.config = some c) (view : ViewName) :
    s.Runs (.machineViewFreshnessExpiry view) { s.part with lvt := s.part.lvt.machineStale view } :=
  runs_of_whenLoaded hc (f := fun _ p => { p with lvt := p.lvt.machineStale view }) rfl

end

/-- Settles O53, by the station of the MST: the view it fills, or none where a field is out of range. -/
theorem machineViewsFollowTheirStations : Obligations.MachineViewsFollowTheirStations := by
  intro s c h position activity load aligned owner hc hf pusherGuide pusherCar guideCar e from' pos
  have runs : s.Runs e (takeMst c h.station.toNat position activity load aligned owner s.part) := mst_runs hc hf
  have byPusher (own : from' c.pusherStation) := runs.congr (takeMst_pusher s.part own)
  have byGuide (own : from' c.guideStation) :=
    runs.congr (takeMst_guide s.part (fun k => pusherGuide (k.symm.trans own)) own)
  have byCar (own : from' c.carStation) :=
    runs.congr (takeMst_car s.part (fun k => pusherCar (k.symm.trans own)) (fun k => guideCar (k.symm.trans own)) own)
  refine ⟨fun own a ha inside => (byPusher own).congr ?_, fun own out => (byPusher own).ignores ?_,
    fun own a ha g hg inside => (byGuide own).congr ?_, fun own out => (byGuide own).ignores ?_,
    fun own a ha l hl ho inside => (byCar own).congr ?_, fun own out => (byCar own).ignores ?_,
    fun notPusher notGuide notCar => runs.ignores (takeMst_elsewhere s.part notPusher notGuide notCar),
    machineViewFreshnessExpiry_runs hc .pusher, machineViewFreshnessExpiry_runs hc .guide,
    machineViewFreshnessExpiry_runs hc .car⟩
  · rw [pusherViewOf_inRange ha inside, Option.some_or]
  · rw [pusherViewOf_outOfRange out, Option.none_or]
  · rw [guideViewOf_inRange ha inside hg, Option.some_or]
  · rw [guideViewOf_outOfRange out, Option.none_or]
  · rw [carViewOf_inRange ha inside hl ho, Option.some_or]
  · rw [carViewOf_outOfRange out, Option.none_or]

end Sys2Proof.Machine

/-! SUPPORT. The promises about the field lines and the relay on their way through a command (R121 to R128, R141): what they read
of a part, and what keeps them. -/

namespace Sys2Proof.Machine

open Sys2Proof

/-! ## The promises, with the configuration given -/

/-- A running stability timer times a sampled pin, and an input that must be known has a level. -/
def Input.Holds (known : Prop) (y : Input) : Prop :=
  (y.stability.active = true → y.pin.isSome = true) ∧ (known → y.level.isSome = true)

/-- Every input place is there, and every input of a local oven must be known. -/
structure Part.InputsHold (o : Option Configuration) (p : Part) : Prop where
  count : p.fls.inputs.length = 8
  place : ∀ (i : Nat) (x : PlaceInputs), p.fls.inputs[i]? = some x →
    ∀ input, (x.get input).Holds (∃ c, o = some c ∧ i < c.ovenCount)

/-- A running scan is at a place of a local oven, and the scan count is at most 3. -/
structure Scan.Holds (o : Option Configuration) (s : Scan) : Prop where
  ovens : ∀ c, o = some c → 1 ≤ c.ovenCount
  count : s.nackCount ≤ 3
  place : s.running = true → ∃ c, o = some c ∧ 1 ≤ s.place ∧ s.place ≤ c.ovenCount

/-- The relay is at its decision, or active before the load. -/
def Part.RelayHolds : Option Configuration → Part → Prop
  | none, p => p.mainOn = true → p.asr.relay = true
  | some c, p => p.asr.relay = relayDecision c p.places p.asr.station p.asr.configFault ∧ p.asr.configFault = false

theorem Part.relaySound_iff (p : Part) : p.RelaySound ↔ p.RelayHolds p.config := by
  cases h : p.config <;> simp [Part.RelaySound, Part.RelayHolds, h]

/-- What the promises read of a part. -/
structure LineView where
  config : Option Configuration
  mainOn : Bool
  places : List Place
  inputs : List PlaceInputs
  pwmCount : Nat
  channels : List Channel
  scan : Scan
  station : Byte
  configFault : Bool
  relay : Bool

def Part.lineView (p : Part) : LineView :=
  { config := p.config, mainOn := p.mainOn, places := p.places, inputs := p.fls.inputs, pwmCount := p.fls.pwmCount
    channels := p.fls.channels, scan := p.fls.scan, station := p.asr.station, configFault := p.asr.configFault
    relay := p.asr.relay }

/-- With the configuration `o`, what `p` promises of the lines and the relay `q` does; the applied compares and the channels
beyond the local ovens are as they were. -/
structure Part.KeepsLines (o : Option Configuration) (p q : Part) : Prop where
  config : q.config = p.config
  count : q.places.length = p.places.length
  inputs : p.InputsHold o → q.InputsHold o
  pwm : p.fls.pwmCount < 1000 → q.fls.pwmCount < 1000
  applied : q.fls.channels.map (·.applied) = p.fls.channels.map (·.applied)
  idle : ∀ j, p.places.length ≤ j → q.fls.channels[j]? = p.fls.channels[j]?
  scan : p.fls.scan.Holds o → q.fls.scan.Holds o
  relay : p.RelayHolds o → q.RelayHolds o

namespace Part.KeepsLines

variable {o : Option Configuration} {c : Configuration} {p q r : Part}

theorem refl (p : Part) : p.KeepsLines o p := ⟨rfl, rfl, id, id, rfl, fun _ _ => rfl, id, id⟩

theorem trans (h : p.KeepsLines o q) (k : q.KeepsLines o r) : p.KeepsLines o r where
  config := k.config.trans h.config
  count := k.count.trans h.count
  inputs := k.inputs ∘ h.inputs
  pwm := k.pwm ∘ h.pwm
  applied := k.applied.trans h.applied
  idle j hj := (k.idle j (h.count ▸ hj)).trans (h.idle j hj)
  scan := k.scan ∘ h.scan
  relay := k.relay ∘ h.relay

theorem of_view_eq (h : q.lineView = p.lineView) : p.KeepsLines o q := by
  simp only [Part.lineView, LineView.mk.injEq] at h
  obtain ⟨config, main, places, inputs, pwm, channels, scan, station, fault, relay⟩ := h
  refine ⟨config, by rw [places], fun held => ?_, by rw [pwm]; exact id, by rw [channels], fun _ _ => by rw [channels],
    by rw [scan]; exact id, ?_⟩
  · exact ⟨inputs ▸ held.count, inputs ▸ held.place⟩
  · cases o <;> simp [Part.RelayHolds, main, places, station, fault, relay]

/-- After a change that the promises do not see. -/
theorem after (k : q.KeepsLines o r) (h : q.lineView = p.lineView) : p.KeepsLines o r := (of_view_eq h).trans k

/-- Before a change that the promises do not see. -/
theorem before (k : p.KeepsLines o q) (h : r.lineView = q.lineView) : p.KeepsLines o r := k.trans (of_view_eq h)

theorem of_ordersOnly (h : OrdersOnly p q) : p.KeepsLines o q := of_view_eq (by rw [h]; rfl)

theorem ite {b : Prop} [Decidable b] (h : b → p.KeepsLines o q) : p.KeepsLines o (if b then q else p) := by
  split
  · next hb => exact h hb
  · exact refl p

theorem ite_both {b : Prop} [Decidable b] (h : p.KeepsLines o q) (k : p.KeepsLines o r) :
    p.KeepsLines o (if b then q else r) := by
  split
  · exact h
  · exact k

theorem withLocal {n : Nat} {f : Nat → Part} (h : ∀ i, p.KeepsLines o (f i)) : p.KeepsLines o (withLocal c n p f) := by
  unfold Machine.withLocal
  split
  · exact refl p
  · exact h _

theorem foldl {α : Type} {f : Part → α → Part} (h : ∀ (p : Part) a, p.KeepsLines o (f p a)) (l : List α) (p : Part) :
    p.KeepsLines o (l.foldl f p) := by
  induction l generalizing p with
  | nil => exact refl p
  | cons a l ih => exact (h p a).trans (ih _)

/-! ### The changes they see -/

/-- A change of the records that keeps their alarm sets, so that the relay decision is the same (R141). -/
theorem modifyPlace (i : Nat) {f : Place → Place} (hf : ∀ pl, (f pl).oven.alarms = pl.oven.alarms) :
    p.KeepsLines o (p.modifyPlace i f) := by
  have decision (d : Configuration) (set : Byte) (fault : Bool) :
      relayDecision d (p.places.modify i f) set fault = relayDecision d p.places set fault := by
    have any (l : List Place) (i : Nat) : (l.modify i f).any (fun pl => pl.oven.alarms &&& d.ovenMask != 0)
        = l.any fun pl => pl.oven.alarms &&& d.ovenMask != 0 := by
      induction l generalizing i with
      | nil => cases i <;> rfl
      | cons pl l ih =>
        cases i with
        | zero => simp [hf]
        | succ i => rw [List.modify_succ_cons, List.any_cons, List.any_cons, ih]
    simp only [relayDecision, any]
  refine ⟨rfl, modifyPlace_length p i f, fun held => ⟨held.count, held.place⟩, id, rfl, fun _ _ => rfl, id, ?_⟩
  cases o with
  | none => exact id
  | some d => exact fun held => ⟨held.1.trans (decision d _ _).symm, held.2⟩

theorem modifyOven (i : Nat) {f : Oven → Oven} (hf : ∀ x, (f x).alarms = x.alarms) : p.KeepsLines o (p.modifyOven i f) :=
  modifyPlace i fun _ => hf _

/-- A valve command written for the oven of a place (R80, R124). -/
theorem writeValve {i : Nat} (hi : i < p.places.length) (u : Nat) : p.KeepsLines o (p.writeValve i u) := by
  refine ⟨rfl, rfl, fun held => ⟨held.count, held.place⟩, id, ?_, fun j hj => ?_, id, ?_⟩
  · refine List.ext_getElem? fun j => ?_
    simp only [Part.writeValve, List.getElem?_map, List.getElem?_modify, Option.map_eq_map, Option.map_map]
    congr 1
    funext ch
    simp only [Function.comp_apply]
    split <;> rfl
  · have : i ≠ j := ne_of_lt (lt_of_lt_of_le hi hj)
    simp [Part.writeValve, this]
  · cases o <;> exact id

/-- The relay decision taken afresh (R141). -/
theorem decideRelay (hc : q.config = p.config) (hn : q.places.length = p.places.length) (hf : q.fls = p.fls)
    (ha : q.asr.configFault = p.asr.configFault) : p.KeepsLines (some c) (q.decideRelay c) := by
  refine ⟨hc, hn, fun held => ?_, ?_, ?_, fun j _ => ?_, ?_, fun held => ⟨rfl, ha.trans held.2⟩⟩
  · exact ⟨hf ▸ held.count, hf ▸ held.place⟩
  all_goals simp [hf]

/-- Another state of the scan (R125 to R128). -/
theorem withScan {s : Scan} {steps : List PortStep} (h : p.fls.scan.Holds o → s.Holds o) :
    p.KeepsLines o { p with fls := { p.fls with scan := s, port := steps } } :=
  ⟨rfl, rfl, fun held => ⟨held.count, held.place⟩, id, rfl, fun _ _ => rfl, h, by cases o <;> exact id⟩

/-- Other inputs (R121, R122). -/
theorem withInputs {l : List PlaceInputs}
    (h : p.InputsHold o → ({ p with fls := { p.fls with inputs := l } } : Part).InputsHold o) :
    p.KeepsLines o { p with fls := { p.fls with inputs := l } } :=
  ⟨rfl, rfl, h, id, rfl, fun _ _ => rfl, id, by cases o <;> exact id⟩

/-- Another PWM count (R124). -/
theorem withCount {n : Nat} (h : n < 1000) : p.KeepsLines o { p with fls := { p.fls with pwmCount := n } } :=
  ⟨rfl, rfl, fun held => ⟨held.count, held.place⟩, fun _ => h, rfl, fun _ _ => rfl, id, by cases o <;> exact id⟩

end Part.KeepsLines

/-! ## Alarms, phases, doors and offtakes -/

section
variable (o : Option Configuration) (c : Configuration) (i : Nat) (p : Part)

@[simp] theorem lineView_offer (k : Kind) (sub : Subject) (b : List Byte) : (p.offer k sub b).lineView = p.lineView := rfl
@[simp] theorem lineView_offerChr (n : Nat) (r : ChrReason) : (offerChr n r p).lineView = p.lineView := rfl
@[simp] theorem lineView_modifyContext (f : Context → Context) : (modifyContext f p).lineView = p.lineView := rfl

@[simp] theorem lineView_offerOvs : (p.offerOvs i).lineView = p.lineView := by
  unfold Part.offerOvs
  split <;> rfl

theorem setAlarms_keepsLines (set : Word16) : p.KeepsLines (some c) (setOvenAlarms c i set p) := by
  unfold setOvenAlarms
  split
  · exact .refl p
  · split
    · exact .refl p
    · have decided : p.KeepsLines (some c) ((p.modifyOven i fun x => { x with alarms := set }).decideRelay c) :=
        .decideRelay rfl (modifyPlace_length p i _) rfl rfl
      exact decided.before (lineView_offerOvs ..)

theorem hold_keepsLines (a : OvenAlarm) (on : Bool) : p.KeepsLines (some c) (holdOven c i a on p) := by
  unfold holdOven raiseOven removeOven
  split <;> split
  · exact .refl p
  · exact setAlarms_keepsLines ..
  · exact .refl p
  · exact setAlarms_keepsLines ..

theorem raise_keepsLines (a : OvenAlarm) : p.KeepsLines (some c) (raiseOven c i a p) := hold_keepsLines c i p a true

theorem remove_keepsLines (a : OvenAlarm) : p.KeepsLines (some c) (removeOven c i a p) := hold_keepsLines c i p a false

theorem setStationAlarms_keepsLines (set : Byte) : p.KeepsLines (some c) (setStationAlarms c set p) :=
  .decideRelay rfl rfl rfl rfl

theorem raiseStation_keepsLines (a : StationAlarm) : p.KeepsLines (some c) (raiseStation c a p) :=
  setStationAlarms_keepsLines ..

theorem removeStation_keepsLines (a : StationAlarm) : p.KeepsLines (some c) (removeStation c a p) :=
  setStationAlarms_keepsLines ..

theorem holdStation_keepsLines (a : StationAlarm) (on : Bool) : p.KeepsLines (some c) (holdStation c a on p) :=
  .ite_both (raiseStation_keepsLines c p a) (removeStation_keepsLines c p a)

theorem evalOverdue_keepsLines : p.KeepsLines (some c) (evalOverdue c i p) := by
  unfold evalOverdue
  split
  · exact .refl p
  · exact hold_keepsLines ..

theorem setHold_keepsLines (on : Bool) : p.KeepsLines o (setHold i on p) := by
  unfold setHold
  split
  · exact .refl p
  · split
    · exact .refl p
    · have changed : p.KeepsLines o (p.modifyOven i fun x => { x with kept := { x.kept with hold := on } }) :=
        .modifyOven i fun _ => rfl
      exact changed.before (lineView_offerOvs ..)

theorem cancelOnPhase_keepsLines (x : Oven) : p.KeepsLines o (cancelOnPhase i x p) := by
  have cancelled : p.KeepsLines o (p.modifyOven i fun x => { x with inFlight := false }) := .modifyOven i fun _ => rfl
  exact .ite fun _ => cancelled.before (lineView_offerChr ..)

theorem commitDoor_keepsLines (side : Side) (d : Door) : p.KeepsLines (some c) (commitDoor c i side d p) := by
  have stored : p.KeepsLines (some c) (p.setDoor i side d) := .modifyPlace i fun pl => by cases side <;> rfl
  unfold commitDoor
  split
  · exact .refl p
  · exact .trans (.ite_both stored (stored.before (lineView_offerOvs ..))) (hold_keepsLines ..)

theorem permitPass_keepsLines : p.KeepsLines (some c) (permitPass c i p) := by
  have one (side : Side) (q : Part) : q.KeepsLines (some c) (permitDecide c i side q) := by
    unfold permitDecide
    split
    · exact .refl q
    · dsimp only
      split
      · exact .refl q
      · exact commitDoor_keepsLines ..
  exact (one .p p).trans (one .c _)

theorem commitOfftake_keepsLines (x : Offtake) : p.KeepsLines o (commitOfftake i x p) := by
  unfold commitOfftake
  split
  · exact .refl p
  · next pl hpl =>
    have record : p.KeepsLines o (p.setOfftake i x) := .modifyPlace i fun _ => rfl
    have stored := record.trans (.writeValve (record.count ▸ (List.getElem?_eq_some_iff.mp hpl).1) x.valve)
    exact .ite_both stored (stored.before (lineView_offerOvs ..))

theorem settleOfftake_keepsLines (x : Offtake) : p.KeepsLines (some c) (settleOfftake c i x p) :=
  (commitOfftake_keepsLines _ i p x).trans (permitPass_keepsLines ..)

theorem ocuPhaseChange_keepsLines (old new : Phase) : p.KeepsLines (some c) (ocuPhaseChange c i old new p) := by
  unfold ocuPhaseChange
  split
  · exact .refl p
  · exact settleOfftake_keepsLines ..

theorem setPhase_keepsLines (new : Phase) : p.KeepsLines (some c) (setPhase c i new p) := by
  unfold setPhase
  split
  · exact .refl p
  · split
    · exact .refl p
    · have changed : p.KeepsLines (some c) (p.modifyOven i fun x => x.withPhase new) := .modifyOven i fun _ => rfl
      have shown := changed.before (lineView_offerOvs i _)
      exact ((shown.trans (evalOverdue_keepsLines ..)).trans (cancelOnPhase_keepsLines ..)).trans
        (ocuPhaseChange_keepsLines ..)

theorem setByAge_keepsLines : p.KeepsLines (some c) (setByAge c i p) := by
  unfold setByAge
  split
  · exact .refl p
  · exact setPhase_keepsLines ..

theorem loseOven_keepsLines : p.KeepsLines (some c) (loseOven c i p) :=
  (setPhase_keepsLines c i p .unknown).trans (raise_keepsLines ..)

end

end Sys2Proof.Machine

/-! SUPPORT. The push, the reports and the door changes told keep the promises about the lines and the relay (R13 to R16, R38 to
R56). -/

namespace Sys2Proof.Machine

open Sys2Proof

section
variable (c : Configuration) (i : Nat) (p : Part)

/-! ## Requests for ISOLATE and PI (R40, R55) -/

theorem setContext_keepsLines (x : Option Context) : p.KeepsLines (some c) (setContext c i x p) :=
  (permitPass_keepsLines c i { p with psq := { p.psq with context := x } }).after rfl

theorem modifyContext_keepsLines (o : Option Configuration) (f : Context → Context) : p.KeepsLines o (modifyContext f p) :=
  .of_view_eq rfl

theorem testArmed_keepsLines (n : Nat) : p.KeepsLines (some c) (testArmed c n p) := by
  unfold testArmed
  split
  · exact .refl p
  · refine .withLocal fun i => ?_
    split
    · exact .refl p
    · exact .ite fun _ => setContext_keepsLines ..

theorem askIsolate_keepsLines : p.KeepsLines (some c) (askIsolate c i p) := by
  unfold askIsolate
  split
  · exact .refl p
  · have settled := settleOfftake_keepsLines c i p
    exact .ite_both ((settled _).trans (testArmed_keepsLines ..)) (settled _)

theorem endReturn_keepsLines : p.KeepsLines (some c) (endReturn c i p) :=
  ((setHold_keepsLines _ i p true).trans (setContext_keepsLines c i _ none)).trans (setByAge_keepsLines ..)

theorem askPi_keepsLines : p.KeepsLines (some c) (askPi c i p) := by
  unfold askPi
  split
  · exact .refl p
  · have settled (x : Offtake) := (modifyContext_keepsLines p (some c) fun x => { x with piRequested := true }).trans
      (settleOfftake_keepsLines c i _ x)
    exact .ite_both ((settled _).trans (endReturn_keepsLines ..)) (settled _)

theorem returnDoorsTest_keepsLines : p.KeepsLines (some c) (returnDoorsTest c i p) := by
  unfold returnDoorsTest
  split
  · exact .ite fun _ => askPi_keepsLines ..
  · exact .refl p

/-! ## Aborts (R51, R52, R54) -/

theorem abort_keepsLines (r : AbortReason) : p.KeepsLines (some c) (abort c r p) := by
  unfold abort
  split
  · exact .refl p
  · refine .withLocal fun i => ?_
    have alarmed := (modifyContext_keepsLines p (some c) (·.aborted r)).trans (raise_keepsLines c i _ .pushAborted)
    have withdrawn := alarmed.trans (.of_ordersOnly (.withdraw _))
    exact (withdrawn.trans (permitPass_keepsLines c i _)).trans (returnDoorsTest_keepsLines ..)

theorem abortIfOpen_keepsLines (n : Nat) (r : AbortReason) : p.KeepsLines (some c) (abortIfOpen c n r p) := by
  unfold abortIfOpen
  split
  · exact .refl p
  · exact .ite fun _ => abort_keepsLines ..

theorem panelAbort_keepsLines (n : Nat) : p.KeepsLines (some c) (panelAbort c n p) := by
  unfold panelAbort
  split
  · exact .refl p
  · exact .ite fun _ => abortIfOpen_keepsLines ..

/-! ## Ram start and ram home (R44 to R50) -/

theorem closingDoorsTest_keepsLines : p.KeepsLines (some c) (closingDoorsTest c i p) := by
  unfold closingDoorsTest
  split
  · exact .ite fun _ => (setPhase_keepsLines c i p .empty).trans (setContext_keepsLines ..)
  · exact .refl p

theorem ramInContext_keepsLines (x : Context) : p.KeepsLines (some c) (ramInContext c i x p) := by
  have started (u : Bool) : p.KeepsLines (some c) (startRam c i x u p) := setContext_keepsLines ..
  have unpermitted := (started true).trans (raise_keepsLines c i _ .pushUnpermitted)
  unfold ramInContext
  split
  · exact .ite_both (started false) unpermitted
  · exact unpermitted
  · exact unpermitted.trans (askIsolate_keepsLines ..)
  · exact .refl p
  · exact raise_keepsLines ..

theorem ramStarts_keepsLines (n : Nat) : p.KeepsLines (some c) (ramStarts c i n p) := by
  unfold ramStarts
  split
  · have begun := (setPhase_keepsLines c i p .pushing).trans (setContext_keepsLines c i _ (some (Context.unannounced n)))
    have alarmed := begun.trans (raise_keepsLines c i _ .pushUnpermitted)
    exact .ite_both (alarmed.trans (askIsolate_keepsLines ..)) (loseOven_keepsLines ..)
  · exact .ite_both (ramInContext_keepsLines ..) (loseOven_keepsLines ..)

theorem offerPdn_keepsLines (o : Option Configuration) (e : PendingPdn) : p.KeepsLines o (offerPdn e p) :=
  .ite_both (.of_view_eq rfl) (.of_view_eq rfl)

theorem orderAtHome_keepsLines (kind : OrderKind) : p.KeepsLines (some c) (orderAtHome c kind p) :=
  .ite_both (.of_ordersOnly (.append kind p)) (raiseStation_keepsLines ..)

theorem ramHome_keepsLines (x : Context) (stroke : Nat) : p.KeepsLines (some c) (ramHome c i x stroke p) := by
  have quenched := (offerPdn_keepsLines p (some c) ⟨x.oven, stroke, x.unpermitted⟩).trans
    (orderAtHome_keepsLines c _ (.quench c.quenchTime))
  have ordered := quenched.trans (orderAtHome_keepsLines c _ .dump)
  exact (ordered.trans (setContext_keepsLines c i _ (some (x.home stroke)))).trans (closingDoorsTest_keepsLines ..)

theorem rmh_keepsLines (n stroke : Nat) : p.KeepsLines (some c) (match p.psq.context with
    | none => p
    | some x => if x.oven = n ∧ x.stage = .pushing then withLocal c x.oven p fun i => ramHome c i x stroke p else p) := by
  split
  · exact .refl p
  · exact .ite fun _ => .withLocal fun i => ramHome_keepsLines ..

/-! ## Limits and push asks (R41 to R50, R55) -/

theorem prepareLimit_keepsLines : p.KeepsLines (some c) (prepareLimit c p) := by
  unfold prepareLimit
  split
  · exact .refl p
  · have marked := modifyContext_keepsLines p (some c) fun x => { x with prepareLimit := .expired }
    exact .ite fun _ => .ite_both (marked.trans (abort_keepsLines ..)) marked

theorem armedLimit_keepsLines : p.KeepsLines (some c) (armedLimit c p) := by
  unfold armedLimit
  split
  · exact .refl p
  · exact .ite fun _ => abort_keepsLines ..

theorem rmhLimit_keepsLines : p.KeepsLines (some c) (rmhLimit c p) := by
  unfold rmhLimit
  split
  · exact .refl p
  · exact .ite fun _ => .withLocal fun i => (modifyContext_keepsLines p _ _).trans (raise_keepsLines ..)

theorem doorLimit_keepsLines : p.KeepsLines (some c) (doorLimit c p) := by
  unfold doorLimit
  split
  · exact .refl p
  · exact .ite fun _ => .withLocal fun i => (modifyContext_keepsLines p _ _).trans (raise_keepsLines ..)

theorem pushAsk_keepsLines (n : Nat) : p.KeepsLines (some c) (pushAsk c i n p) := by
  have answered : p.KeepsLines (some c) (answerArmed c i n p) := by
    unfold answerArmed
    split
    · exact .of_view_eq rfl
    · exact .ite fun _ => .of_view_eq rfl
  unfold pushAsk
  split
  · exact .of_view_eq rfl
  · exact .ite_both answered (.of_view_eq rfl)

/-! ## The round won and the SPOT's outcome (R39, R53, R56) -/

theorem orderSpot_keepsLines (n : Nat) : p.KeepsLines (some c) (orderSpot c n p) :=
  .ite_both ((Part.KeepsLines.of_ordersOnly (.append _ p)).before rfl) (abort_keepsLines ..)

theorem takeWin_keepsLines (n : Nat) : p.KeepsLines (some c) (takeWin c n p) := by
  refine .withLocal fun i => .ite fun _ => ?_
  have begun := (setPhase_keepsLines c i p .pushing).trans (setContext_keepsLines c i _ (some (Context.won n)))
  exact (begun.trans (askIsolate_keepsLines c i _)).trans (orderSpot_keepsLines ..)

theorem takeOutcome_keepsLines (r : Outcome) : p.KeepsLines (some c) (takeOutcome c r p) := by
  have heard := modifyContext_keepsLines p (some c) fun x => { x with spotAwaited := false }
  unfold takeOutcome
  split
  · exact .refl p
  · refine .ite fun _ => ?_
    cases r with
    | done =>
      refine .trans ?_ (testArmed_keepsLines ..)
      exact heard.before rfl
    | refused => exact .ite_both (heard.trans (abort_keepsLines ..)) heard
    | timeout => exact .ite_both (heard.trans (abort_keepsLines ..)) heard

/-! ## Reports told (R14, R15, R40, R51, R55) -/

theorem chargeBegins_keepsLines : p.KeepsLines (some c) (chargeBegins c i p) := by
  unfold chargeBegins
  split
  · exact .refl p
  · have freed : p.KeepsLines (some c) (p.modifyOven i fun o => { o with inFlight := false }) := .modifyOven i fun _ => rfl
    have charging := freed.trans (setPhase_keepsLines c i _ .charging)
    have timed := charging.trans (.modifyOven i (f := fun o => { o with chargeLimit := .running chargeLimitMs }) fun _ => rfl)
    exact .ite fun _ => .ite_both (timed.before rfl) (timed.trans (.modifyOven i fun _ => rfl))

/-- A charge start cancelled with its request for ISOLATE. -/
theorem chargeCancelled_keepsLines (n : Nat) (r : ChrReason) : p.KeepsLines (some c) (chargeCancelled c i n r p) := by
  have freed : p.KeepsLines (some c) (p.modifyOven i fun o => { o with inFlight := false }) := .modifyOven i fun _ => rfl
  exact (freed.before (lineView_offerChr _ n r)).trans (askIsolate_keepsLines ..)

theorem chargeFails_keepsLines : p.KeepsLines (some c) (chargeFails c i p) := by
  unfold chargeFails
  split
  · exact .refl p
  · exact .ite fun _ => chargeCancelled_keepsLines c i p _ .cap

theorem returnAnswered_keepsLines (n : Nat) : p.KeepsLines (some c) (returnAnswered c i n p) := by
  unfold returnAnswered
  split
  · exact .refl p
  · exact .ite fun _ => endReturn_keepsLines ..

theorem tellReport_keepsLines (n : Nat) (r : Report) : p.KeepsLines (some c) (tellReport c i n r p) := by
  cases r with
  | aspirateReached => exact chargeBegins_keepsLines ..
  | aspirateFailed => exact chargeFails_keepsLines ..
  | isolateReached => exact testArmed_keepsLines ..
  | isolateFailed => exact abortIfOpen_keepsLines ..
  | piEntered => exact returnAnswered_keepsLines ..
  | returnFailed => exact returnAnswered_keepsLines ..

theorem tellOfftake_keepsLines (new : Offtake) (alarm : Option OvenAlarm) :
    p.KeepsLines (some c) (tellOfftake c i new alarm p) := by
  unfold tellOfftake
  split
  · exact .refl p
  · next pl _ =>
    have stored := commitOfftake_keepsLines (some c) i p new
    have told (q : Part) (hq : p.KeepsLines (some c) q) : p.KeepsLines (some c) (match reportOf pl.offtake new with
        | none => q
        | some r => tellReport c i pl.oven.number r q) := by
      split
      · exact hq
      · exact hq.trans (tellReport_keepsLines ..)
    refine .trans ?_ (permitPass_keepsLines ..)
    cases alarm with
    | none => exact told _ stored
    | some a => exact told _ (stored.trans (raise_keepsLines ..))

/-! ## Door changes told (R16, R40 to R55) -/

theorem returnToPrepare_keepsLines (x : Context) : p.KeepsLines (some c) (returnToPrepare c i x p) := by
  have back := setContext_keepsLines c i p (some { x with stage := .prepare, armedLimit := .stopped, permit := .stopped })
  exact .ite_both (back.trans (abort_keepsLines ..)) back

theorem psqDoorChange_keepsLines (old new : DoorState) (x : Context) :
    p.KeepsLines (some c) (psqDoorChange c i old new x p) := by
  unfold psqDoorChange
  split
  · exact .ite_both (abort_keepsLines ..) (testArmed_keepsLines ..)
  · exact .ite_both (abort_keepsLines ..) (.ite fun _ => returnToPrepare_keepsLines ..)
  · exact .refl p
  · exact closingDoorsTest_keepsLines ..
  · exact .ite_both ((modifyContext_keepsLines p _ _).trans (askIsolate_keepsLines ..)) (returnDoorsTest_keepsLines ..)

theorem cancelOnDoor_keepsLines (new : DoorState) : p.KeepsLines (some c) (cancelOnDoor c i new p) := by
  unfold cancelOnDoor
  split
  · exact .refl p
  · exact .ite fun _ => chargeCancelled_keepsLines c i p _ .doors

theorem tellDoor_keepsLines (old new : DoorState) : p.KeepsLines (some c) (tellDoor c i old new p) := by
  have cancelled := cancelOnDoor_keepsLines c i p new
  unfold tellDoor
  split
  · exact .refl p
  · split
    · exact .refl p
    · dsimp only
      split
      · exact cancelled
      · exact .ite_both (cancelled.trans (psqDoorChange_keepsLines ..)) cancelled

theorem changeDoor_keepsLines (side : Side) (d : Door) : p.KeepsLines (some c) (changeDoor c i side d p) := by
  unfold changeDoor
  split
  · exact .refl p
  · have stored := commitDoor_keepsLines c i p side d
    exact (stored.trans (.foldl (fun q a => raise_keepsLines c i q a) _ _)).trans (tellDoor_keepsLines ..)

end

end Sys2Proof.Machine

/-! SUPPORT. What the commands of a loaded part do keeps the promises about the lines and the relay (R2 to R56, R66 to R92, R100
to R135). -/

namespace Sys2Proof.Machine

open Sys2Proof

section
variable (c : Configuration) (i : Nat) (p : Part)

/-! ## Switches and timers (R60, R66 to R68, R74, R85 to R91) -/

theorem deliver_keepsLines (input : SwitchInput) (v : Bool) : p.KeepsLines (some c) (deliver c i input v p) := by
  unfold deliver
  split
  · unfold offtakeSwitch
    split
    · exact .refl p
    · exact .ite_both (tellOfftake_keepsLines ..) (tellOfftake_keepsLines ..)
  · unfold doorSwitch
    split
    · exact .refl p
    · dsimp only
      split
      · exact changeDoor_keepsLines ..
      · exact changeDoor_keepsLines ..
      · exact changeDoor_keepsLines ..
      · exact .refl p

theorem leakExpires_keepsLines (side : Side) : p.KeepsLines (some c) (leakExpires c side i p) := by
  unfold leakExpires
  split
  · exact .refl p
  · exact .ite fun _ => changeDoor_keepsLines ..

theorem clearExpires_keepsLines (side : Side) : p.KeepsLines (some c) (clearExpires c side i p) := by
  unfold clearExpires
  split
  · exact .refl p
  · exact .ite fun _ => changeDoor_keepsLines ..

theorem leakingSpellExpires_keepsLines (side : Side) : p.KeepsLines (some c) (leakingSpellExpires c side i p) := by
  unfold leakingSpellExpires
  split
  · exact .refl p
  · exact .ite fun _ => commitDoor_keepsLines ..

theorem sealedSpellExpires_keepsLines (side : Side) : p.KeepsLines (some c) (sealedSpellExpires c side i p) := by
  unfold sealedSpellExpires
  split
  · exact .refl p
  · exact .ite fun _ => commitDoor_keepsLines ..

theorem valveTimerExpires_keepsLines : p.KeepsLines (some c) (valveTimerExpires c i p) := by
  unfold valveTimerExpires
  split
  · exact .refl p
  · exact .ite fun _ => tellOfftake_keepsLines ..

theorem capTimerExpires_keepsLines : p.KeepsLines (some c) (capTimerExpires c i p) := by
  unfold capTimerExpires
  split
  · exact .refl p
  · exact .ite fun _ => tellOfftake_keepsLines ..

theorem highTimerExpires_keepsLines : p.KeepsLines (some c) (highTimerExpires c i p) := by
  unfold highTimerExpires
  split
  · exact .refl p
  · exact .ite fun _ => (commitOfftake_keepsLines ..).trans (raise_keepsLines ..)

theorem aspirateHoldExpires_keepsLines : p.KeepsLines (some c) (aspirateHoldExpires c i p) := by
  unfold aspirateHoldExpires
  split
  · exact .refl p
  · exact .ite fun _ => settleOfftake_keepsLines ..

/-! ## Samples and the scan (R72 to R92, R125 to R128) -/

theorem countSample_keepsLines (x : Int) : p.KeepsLines (some c) (countSample c i x p) := by
  unfold countSample
  split
  · exact .refl p
  · exact .ite_both ((commitOfftake_keepsLines ..).trans (remove_keepsLines ..)) (commitOfftake_keepsLines ..)

theorem timeSample_keepsLines (x : Int) : p.KeepsLines (some c) (timeSample c i x p) := by
  unfold timeSample
  split
  · exact .refl p
  · exact .ite_both ((commitOfftake_keepsLines ..).trans (remove_keepsLines ..)) (commitOfftake_keepsLines ..)

theorem controlSample_keepsLines (x : Int) : p.KeepsLines (some c) (controlSample c i x p) := by
  unfold controlSample
  split
  · exact .refl p
  · exact .ite_both (commitOfftake_keepsLines ..) (.ite fun _ => commitOfftake_keepsLines ..)

theorem validSample_keepsLines (code : Nat) : p.KeepsLines (some c) (validSample c i code p) :=
  (((countSample_keepsLines c i p _).trans (timeSample_keepsLines ..)).trans (controlSample_keepsLines ..)).trans
    (permitPass_keepsLines ..)

theorem invalidSample_keepsLines : p.KeepsLines (some c) (invalidSample c i p) := by
  refine .trans ?_ (permitPass_keepsLines ..)
  unfold countInvalidSample
  split
  · exact .refl p
  · have alarmed (x : Offtake) := (commitOfftake_keepsLines (some c) i p x).trans (raise_keepsLines c i _ .pressureSensor)
    exact .ite_both (.ite_both ((alarmed _).trans (commitOfftake_keepsLines ..)) (alarmed _)) (commitOfftake_keepsLines ..)

/-- A scan that stands still is at no place. -/
theorem Scan.Holds.ended {o : Option Configuration} {s : Scan} (h : s.Holds o) {n : Nat} (hn : n ≤ 3) :
    ({ s with running := false, nackCount := n } : Scan).Holds o := ⟨h.ovens, hn, nofun⟩

theorem endScan_keepsLines (early : Bool) : p.KeepsLines (some c) (endScan c early p) := by
  have ended (n : Nat) (hn : p.fls.scan.nackCount ≤ 3 → n ≤ 3) : p.KeepsLines (some c) { p with fls := { p.fls with
      scan := { p.fls.scan with running := false, nackCount := n }, port := [] } } :=
    .withScan fun held => held.ended (hn held.count)
  unfold endScan
  dsimp only
  split
  · exact .ite_both ((ended _ fun _ => Nat.min_le_left ..).trans (raiseStation_keepsLines ..))
      (ended _ fun _ => Nat.min_le_left ..)
  · split
    · exact ended _ id
    · exact (ended _ fun _ => Nat.zero_le _).trans (removeStation_keepsLines ..)

theorem nextPlace_keepsLines : p.KeepsLines (some c) (nextPlace c p) := by
  unfold nextPlace
  split
  · next below => exact .withScan fun held => ⟨held.ovens, held.count, fun _ => ⟨c, rfl, Nat.le_add_left .., below⟩⟩
  · exact endScan_keepsLines ..

theorem transactionDone_keepsLines (code : Nat) : p.KeepsLines (some c) (transactionDone c code p) :=
  .ite fun _ => .trans (.ite_both (validSample_keepsLines ..) (invalidSample_keepsLines ..)) (nextPlace_keepsLines ..)

theorem channelNack_keepsLines : p.KeepsLines (some c) (channelNack c p) :=
  .ite fun _ => ((invalidSample_keepsLines ..).trans (nextPlace_keepsLines ..)).before rfl

/-- A scan that a failed transaction ends. -/
theorem scanFails_keepsLines : p.KeepsLines (some c) (endScan c true (failRest c p)).sendStop :=
  .before (.trans (.foldl (fun q j => invalidSample_keepsLines c j q) _ p) (endScan_keepsLines ..)) rfl

theorem addressFails_keepsLines : p.KeepsLines (some c) (addressFails c p) := by
  have noticed : p.KeepsLines (some c)
      { p with fls := { p.fls with scan := { p.fls.scan with addressNack := true } } } :=
    .withScan fun held => ⟨held.ovens, held.count, held.place⟩
  exact .ite fun _ => noticed.trans (scanFails_keepsLines ..)

theorem clockFails_keepsLines : p.KeepsLines (some c) (clockFails c p) := .ite fun _ => scanFails_keepsLines ..

theorem quarterSecond_keepsLines : p.KeepsLines (some c) (roundRobinOvs c (startScan c p)) := by
  have scan : p.KeepsLines (some c) (startScan c p) := by
    unfold startScan
    split
    · exact .refl p
    · exact .withScan fun held => ⟨held.ovens, held.count, fun _ => ⟨c, rfl, Nat.le_refl 1, held.ovens c rfl⟩⟩
  exact scan.before (lineView_offerOvs _ (startScan c p))

/-! ## The oven commands (R2 to R18) -/

theorem minuteAt_keepsLines : p.KeepsLines (some c) (minuteAt c p i) := by
  unfold minuteAt
  split
  · exact .refl p
  · have aged : p.KeepsLines (some c) (p.modifyOven i fun o => { o with kept := o.kept.older }) := .modifyOven i fun _ => rfl
    exact .trans (.ite_both (aged.trans (setPhase_keepsLines ..)) aged) (evalOverdue_keepsLines ..)

theorem takeOut_keepsLines : p.KeepsLines (some c) (takeOut c i p) :=
  ((setPhase_keepsLines c i p .out).trans (setHold_keepsLines ..)).trans (askIsolate_keepsLines ..)

theorem panelOut_keepsLines : p.KeepsLines (some c) (panelOut c i p) := by
  unfold panelOut
  split
  · exact takeOut_keepsLines ..
  · exact takeOut_keepsLines ..
  · exact .refl p

theorem panelIn_keepsLines : p.KeepsLines (some c) (panelIn c i p) := .ite fun _ => setPhase_keepsLines ..

theorem panelTarget_keepsLines (value : Word16) : p.KeepsLines (some c) (panelTarget value c i p) := by
  unfold panelTarget
  split
  · exact .refl p
  · have set : p.KeepsLines (some c)
        (p.modifyOven i fun o => { o with kept := { o.kept with target := clampTarget value.toNat } }) :=
      .modifyOven i fun _ => rfl
    exact .trans (.ite_both (set.trans (setByAge_keepsLines ..)) set) (evalOverdue_keepsLines ..)

theorem panelDeclare_keepsLines (value : Word16) (phase : Byte) : p.KeepsLines (some c) (panelDeclare value phase c i p) := by
  refine .ite fun _ => ?_
  split
  · have aged : p.KeepsLines (some c)
        (p.modifyOven i fun o => { o with kept := { o.kept with age := min maxAge value.toNat } }) := .modifyOven i fun _ => rfl
    exact (aged.trans (setByAge_keepsLines c i _)).trans (evalOverdue_keepsLines ..)
  · exact takeOut_keepsLines ..
  · exact .refl p

theorem panelClear_keepsLines (n : Nat) : p.KeepsLines (some c) (panelClear c n p) := by
  refine .ite_both (setStationAlarms_keepsLines ..) (.withLocal fun i => ?_)
  unfold clearOvenAlarms
  split
  · exact .refl p
  · exact setAlarms_keepsLines ..

theorem chargeAsk_keepsLines : p.KeepsLines (some c) (chargeAsk c i p) := by
  have answered (n : Nat) (r : ChrReason) : p.KeepsLines (some c) (offerChr n r p) := .of_view_eq rfl
  have asked : p.KeepsLines (some c) (p.modifyOven i fun o => { o with inFlight := true }) := .modifyOven i fun _ => rfl
  have aspirate (q : Part) : q.KeepsLines (some c) (askAspirate c i q) := by
    unfold askAspirate
    split
    · exact .refl q
    · exact tellOfftake_keepsLines ..
  unfold chargeAsk
  split
  · exact .refl p
  · exact .ite_both (answered ..) (.ite_both (answered ..) (.ite_both (answered ..) (asked.trans (aspirate _))))

theorem chargeEnd_keepsLines : p.KeepsLines (some c) (chargeEnd c i p) := by
  have aged : p.KeepsLines (some c) (p.modifyOven i fun o => { o with kept := { o.kept with age := 0 } }) :=
    .modifyOven i fun _ => rfl
  exact .ite fun _ => aged.trans (setPhase_keepsLines ..)

theorem chargeLimit_keepsLines : p.KeepsLines (some c) (chargeLimit c i p) := by
  unfold chargeLimit
  split
  · exact .refl p
  · have stopped : p.KeepsLines (some c) (p.modifyOven i fun o => { o with chargeLimit := .stopped }) :=
      .modifyOven i fun _ => rfl
    exact .ite fun _ => stopped.trans (raise_keepsLines ..)

/-! ## The bid round and the car orders (R26 to R36, R100 to R105) -/

theorem startRound_keepsLines (o : Option Configuration) (key : BidKey) : p.KeepsLines o (startRound key p) :=
  .ite_both (.of_view_eq rfl) (.of_view_eq rfl)

theorem evaluateRound_keepsLines : p.KeepsLines (some c) (evaluateRound c p) := by
  refine .ite fun _ => ?_
  split
  · exact .refl p
  · exact startRound_keepsLines ..

theorem evaluation_keepsLines (low : Bool) :
    p.KeepsLines (some c) (holdStation c .backupLow low ((evaluateRound c p).hearBackup low)) := by
  refine .trans ?_ (holdStation_keepsLines ..)
  exact (evaluateRound_keepsLines c p).before rfl

theorem takeBid_keepsLines (r : Rival) : p.KeepsLines (some c) (takeBid c r p) := by
  have deferred : p.KeepsLines (some c) { p with bsu := p.bsu.deferTo c r.station } := .of_view_eq rfl
  have answered : p.KeepsLines (some c) (answerRival c r p) := by
    refine .ite_both ?_ deferred
    split
    · exact deferred
    · exact .ite_both (startRound_keepsLines ..) deferred
  refine .ite_both (.refl p) (.ite_both (raiseStation_keepsLines ..) ?_)
  split
  · exact answered
  · exact .refl p
  · exact .of_view_eq rfl

theorem decideRound_keepsLines : p.KeepsLines (some c) (decideRound c p) := by
  unfold decideRound
  split
  · exact .ite fun _ => .ite_both (.after (takeWin_keepsLines c { p with bsu := p.bsu.win } _) rfl) (.of_view_eq rfl)
  · exact .refl p

theorem headLeaves_keepsLines (head : Order) (left : List Order) (r : Outcome) :
    p.KeepsLines (some c) (headLeaves c head left r p) := by
  have removed : p.KeepsLines (some c) { p with qou := { p.qou with orders := left } } := .of_view_eq rfl
  exact .trans (.ite_both (removed.trans (takeOutcome_keepsLines ..)) removed) (.of_ordersOnly (.offerHead _))

theorem carReply_keepsLines (id verdict : Nat) : p.KeepsLines (some c) (carReply c id verdict p) := by
  unfold carReply
  split
  · next head rest v _ _ =>
    refine .ite fun _ => .ite fun _ => ?_
    cases v with
    | accept => exact .ite_both (.refl p) (.of_view_eq rfl)
    | done => exact headLeaves_keepsLines ..
    | refuse => exact headLeaves_keepsLines ..
  · exact .refl p

theorem deadline_keepsLines : p.KeepsLines (some c) (deadline c p) := by
  unfold deadline
  split
  · exact .refl p
  · have emptied := (raiseStation_keepsLines c { p with qou := { p.qou with orders := [] } } .carTimeout).after (p := p) rfl
    have alarmed (b : Bool) : p.KeepsLines (some c) (if b then raiseStation c .hotCar _ else _) :=
      .ite_both (emptied.trans (raiseStation_keepsLines ..)) emptied
    exact .ite fun _ => .ite_both ((alarmed _).trans (takeOutcome_keepsLines ..)) (alarmed _)

/-! ## The battery line and the views (R110 to R119, R131 to R135, R143) -/

theorem tellRemoval_keepsLines (o : Option Configuration) : p.KeepsLines o (tellRemoval p) := by
  have chp (q : Part) (i : Nat) : q.KeepsLines o (reofferChp q i) := by
    unfold reofferChp
    split
    · exact .refl q
    · exact .ite fun _ => .ite fun _ => .after (.modifyOven i fun _ => rfl) (lineView_offer ..)
  have pdn (q : Part) (e : PendingPdn) : q.KeepsLines o (reofferPdn q e) := .ite fun _ => .of_view_eq rfl
  exact ((Part.KeepsLines.of_ordersOnly (.offerHead p)).trans (.foldl chp _ _)).trans (.foldl pdn _ _)

theorem heardBack_keepsLines (o : Option Configuration) (k : Kind) (sub : Subject) : p.KeepsLines o (heardBack c k sub p) := by
  unfold heardBack
  split
  · exact .ite fun _ => .of_view_eq rfl
  · unfold orderHeardBack
    split
    · exact .refl p
    · exact .ite fun _ => .of_view_eq rfl
  · exact .refl p

theorem takePdn_keepsLines (o : Option Configuration) (n : Nat) : p.KeepsLines o (takePdn c n p) := .ite fun _ => .of_view_eq rfl

theorem routeEcho_keepsLines (o : Option Configuration) (k : Kind) (sub : Subject) : p.KeepsLines o (routeEcho c k sub p) := by
  unfold routeEcho
  split
  · exact takePdn_keepsLines ..
  · exact .refl p

theorem succeed_keepsLines : p.KeepsLines (some c) (succeed c p) := by
  unfold succeed
  split
  · exact .refl p
  · next a _ =>
    have counted := (removeStation_keepsLines c { p with bli := { p.bli.endAttempt with failed := 0 } } .lineSilent).after
      (p := p) rfl
    have heard := counted.trans (heardBack_keepsLines c _ _ a.kind a.subject)
    refine .trans ?_ (routeEcho_keepsLines ..)
    refine .ite_both heard (.trans ?_ (tellRemoval_keepsLines ..))
    exact heard.before rfl

theorem fail_keepsLines : p.KeepsLines (some c) (fail c p) := by
  have silenced (q : Part) : q.KeepsLines (some c) (enterSilence c q) := by
    have alarmed := (raiseStation_keepsLines c { q with bli := { q.bli with silent := .running silentMs } } .lineSilent).after
      (p := q) rfl
    refine .trans ?_ (.foldl (fun r _ => tellRemoval_keepsLines r _) _ _)
    exact alarmed.before rfl
  unfold fail
  split
  · exact .refl p
  · have counted : p.KeepsLines (some c) { p with bli := { p.bli.endAttempt with failed := p.bli.failed + 1 } } :=
      .of_view_eq rfl
    exact .ite_both (counted.trans (silenced _)) counted

theorem beginAttempt_keepsLines : p.KeepsLines (some c) (beginAttempt c p) := by
  unfold beginAttempt
  split
  · exact .ite_both (.refl p) (.of_view_eq rfl)
  · exact .refl p

theorem loseContention_keepsLines (urgency station : Nat) : p.KeepsLines (some c) (loseContention c urgency station p) := by
  unfold loseContention
  split
  · exact .refl p
  · exact .ite fun _ => .of_view_eq rfl

theorem takeMst_keepsLines (station : Nat) (position activity load aligned owner : Byte) :
    p.KeepsLines (some c) (takeMst c station position activity load aligned owner p) := by
  refine .ite_both ?_ (.ite_both ?_ (.ite fun _ => ?_))
  all_goals
    split
    · exact .refl p
    · exact .of_view_eq rfl

theorem takeOvs_keepsLines (n : Nat) (phase : Phase) (age : Nat) : p.KeepsLines (some c) (takeOvs c n phase age p) :=
  .ite_both (raiseStation_keepsLines ..) (.ite_both (.of_view_eq rfl) (.ite fun _ => .of_view_eq rfl))

theorem ovs_keepsLines (n : Nat) (word : Word16) : p.KeepsLines (some c) (match phaseOfCode (stateWordPhase word) with
    | none => p
    | some phase => takeOvs c n phase (stateWordAge word) p) := by
  split
  · exact .refl p
  · exact takeOvs_keepsLines ..

theorem takeScs_keepsLines (o : Option Configuration) (station stage : Nat) : p.KeepsLines o (takeScs station stage p) := by
  have listed : p.KeepsLines o { p with lvt := { p.lvt with peers := withPeer station p.lvt.peers } } := .of_view_eq rfl
  exact .ite_both (.refl p) (.ite_both (.of_view_eq rfl) (.ite_both listed (.ite_both (listed.before rfl) listed)))

theorem scsPeriod_keepsLines : p.KeepsLines (some c) (scsPeriod c p) := .ite fun _ => .of_view_eq rfl

end

end Sys2Proof.Machine

/-! SUPPORT. What every command does to the field lines and the relay: it keeps the promises, or ends a PWM period, or stops the
part, or starts it (R121 to R129, R141, R147 to R149). -/

namespace Sys2Proof.Machine

open Sys2Proof

/-! ## The inputs of a place (R121, R122) -/

theorem PlaceInputs.mem_all_iff (x : PlaceInputs) (y : Input) : y ∈ x.all ↔ ∃ input, y = x.get input := by
  constructor
  · intro h
    simp only [PlaceInputs.all, List.mem_cons, List.not_mem_nil, or_false] at h
    rcases h with rfl | rfl | rfl | rfl | rfl | rfl | rfl | rfl | rfl
    exacts [⟨.valveClosed, rfl⟩, ⟨.capOpen, rfl⟩, ⟨.capClosed, rfl⟩, ⟨.present .p, rfl⟩, ⟨.latched .p, rfl⟩,
      ⟨.leak .p, rfl⟩, ⟨.present .c, rfl⟩, ⟨.latched .c, rfl⟩, ⟨.leak .c, rfl⟩]
  · rintro ⟨input, rfl⟩
    exact x.get_mem_all input

theorem PlaceInputs.get_sample (pins : Pins) (i : Nat) (x : PlaceInputs) (input : SwitchInput) :
    (x.sample pins i).get input = (x.get input).sample (pinLevel pins i input) := by
  rcases input with _ | _ | _ | side | side | side
  case valveClosed | capOpen | capClosed => rfl
  all_goals cases side <;> rfl

namespace Input.Holds

variable {known : Prop} {y : Input}

theorem fresh (h : ¬known) : Input.fresh.Holds known := ⟨nofun, fun k => absurd k h⟩

/-- A sample stores the pin that the timer then times, and leaves the level. -/
theorem sample (h : y.Holds known) (v : Bool) : (y.sample v).Holds known := by
  refine ⟨fun _ => ?_, fun k => (Input.sample_level v y).symm ▸ h.2 k⟩
  unfold Input.sample
  split
  · split <;> rfl
  · split
    · next same => simp [same]
    · rfl

/-- The end of a spell takes the pin it has timed for the level. -/
theorem settle (h : y.Holds known) (active : y.stability.active = true) : y.settle.Holds known :=
  ⟨nofun, fun _ => h.1 active⟩

/-- A load makes every input known. -/
theorem atLoad {known' : Prop} (h : y.Holds known) : y.atLoad.Holds known' := by
  unfold Input.atLoad
  split
  · next l hl => exact ⟨h.1, fun _ => by simp [hl]⟩
  · refine ⟨fun active => ?_, fun _ => rfl⟩
    dsimp only at active ⊢
    split at active
    · next on => simp [on]
    · cases active

end Input.Holds

theorem Part.InputsSound.hold {p : Part} (h : p.InputsSound) : p.InputsHold p.config := by
  obtain ⟨count, timed, levels⟩ := h
  refine ⟨count, fun i x hx input => ⟨timed x (List.mem_of_getElem? hx) _ (x.get_mem_all input), ?_⟩⟩
  rintro ⟨c, hc, hi⟩
  obtain ⟨-, -, known⟩ := levels c (by simp [hc])
  exact known x (List.mem_of_getElem? ((List.getElem?_take_of_lt hi).trans hx)) _ (x.get_mem_all input)

theorem Part.InputsHold.sound {p : Part} (h : p.InputsHold p.config) (places : p.PlacesSound) : p.InputsSound := by
  refine ⟨h.count, fun x hx y hy => ?_, fun c hc => ?_⟩
  · obtain ⟨i, hi⟩ := List.getElem?_of_mem hx
    obtain ⟨input, rfl⟩ := (x.mem_all_iff y).mp hy
    exact (h.place i x hi input).1
  · obtain ⟨range, length, -⟩ := places.2 c hc
    obtain ⟨-, -, -, -, -, -, ovens, -⟩ := range
    refine ⟨ovens, length, fun x hx y hy => ?_⟩
    obtain ⟨i, hi⟩ := List.getElem?_of_mem hx
    obtain ⟨input, rfl⟩ := (x.mem_all_iff y).mp hy
    have below : i < c.ovenCount := lt_of_lt_of_le (List.getElem?_eq_some_iff.mp hi).1 (List.length_take_le ..)
    have at_i := (List.getElem?_take_of_lt below).symm.trans hi
    exact (h.place i x at_i input).2 ⟨c, Option.mem_toList.mp hc, below⟩

/-! ## Time and pins (R2, R121, R122, R124) -/

section
variable (p : Part)

theorem minute_keepsLines : p.KeepsLines p.config (minute p) := by
  unfold minute
  split
  · exact .of_view_eq rfl
  · next c hc => exact hc.symm ▸ .foldl (fun q i => minuteAt_keepsLines c i q) _ p

theorem debounce_keepsLines (i : Nat) (input : SwitchInput) : p.KeepsLines p.config (debounce i input p) := by
  unfold debounce
  split
  · exact .refl p
  · next x hx =>
    refine .ite fun active => ?_
    have stored : p.KeepsLines p.config { p with fls := { p.fls with
        inputs := p.fls.inputs.modify i fun y => y.set input (x.get input).settle } } := by
      refine .withInputs fun held => ⟨(List.length_modify ..).trans held.count, fun j x' hj other => ?_⟩
      obtain ⟨y, hy, rfl⟩ := Option.map_eq_some_iff.mp ((List.getElem?_modify ..).symm.trans hj)
      by_cases hij : i = j
      · subst hij
        obtain rfl : x = y := Option.some.inj (hx.symm.trans hy)
        rw [if_pos rfl]
        by_cases same : other = input
        · subst same
          rw [PlaceInputs.get_set_same]
          exact (held.place i x hx _).settle active
        · rw [PlaceInputs.get_set_other _ _ same]
          exact held.place i x hx other
      · rw [if_neg hij]
        exact held.place j y hy other
    dsimp only
    split
    · next c _ v hc _ _ => exact stored.trans (hc.symm ▸ deliver_keepsLines c i _ input v)
    · exact stored

theorem millisecond_keepsLines (pins : Pins) : p.KeepsLines p.config (millisecond pins p) := by
  unfold millisecond
  split
  · exact .refl p
  · refine .before (.withInputs fun held => ⟨(List.length_mapIdx ..).trans held.count, fun j x' hj input => ?_⟩) rfl
    obtain ⟨x, hx, rfl⟩ := Option.map_eq_some_iff.mp ((List.getElem?_mapIdx ..).symm.trans hj)
    split
    · rw [PlaceInputs.get_sample]
      exact (held.place j x hx input).sample _
    · exact held.place j x hx input

theorem compareMatch_keepsLines (i : Nat) : p.KeepsLines p.config (compareMatch i p) := by
  unfold compareMatch
  split
  · exact .refl p
  · exact .ite fun below => .withCount below.1

/-! ## Loads and supplies that neither stop nor start the part -/

/-- A load that fails, while none is loaded, holds the relay active. -/
theorem failLoad_keepsLines (h : p.config = none) : p.KeepsLines p.config (failLoad p) :=
  ⟨h.symm, rfl, fun held => ⟨held.count, held.place⟩, id, rfl, fun _ _ => rfl, id, h.symm ▸ fun _ _ => rfl⟩

theorem beginLoad_keepsLines (h : p.config = none) : p.KeepsLines p.config (beginLoad p) :=
  .of_view_eq (by simp only [Part.lineView, h]; rfl)

theorem loseBackup_keepsLines : p.KeepsLines p.config (loseBackup p) := .ite_both (.of_view_eq rfl) (.of_view_eq rfl)

end

/-! ## Every command that keeps them -/

/-- The answer is a next state, which keeps what the part of `s` promises. -/
def State.AnswerKeepsLines (s : State) (r : Host.Outcome State Fault Refusal) : Prop :=
  ∃ q, r = .next { s with part := q } ∧ s.part.KeepsLines s.part.config q

section
variable {s : State}

theorem State.update_keepsLines {f : Part → Part} (h : s.part.KeepsLines s.part.config (f s.part)) :
    s.AnswerKeepsLines (s.update f) := ⟨_, rfl, h⟩

theorem State.whenLoaded_keepsLines {f : Configuration → Part → Part}
    (h : ∀ c, s.part.KeepsLines (some c) (f c s.part)) : s.AnswerKeepsLines (s.whenLoaded f) := by
  refine State.update_keepsLines ?_
  cases hc : s.part.config with
  | none => exact .refl _
  | some c => exact h c

theorem panelAt_keepsLines {h : Header} {oven : Byte} {f : Configuration → Nat → Part → Part}
    (hf : ∀ c i, s.part.KeepsLines (some c) (f c i s.part)) : s.AnswerKeepsLines (panelAt h oven f s) :=
  State.whenLoaded_keepsLines fun c => .ite fun _ => .withLocal fun i => hf c i

end

/-- Every command but the end of a PWM period and those that stop or start the part keeps the promises. -/
theorem exec_keepsLines (i : Instr) (s : State) (hp : i ≠ .pwmPeriodEnd) (hs : Claims.startsOrStops i = false) :
    s.AnswerKeepsLines (exec i s) := by
  cases i with
  | pwmPeriodEnd => exact absurd rfl hp
  | configLoadComplete | resetAsserted | resetReleased | mainSupplyApplied | mainSupplyLost => cases hs
  | minuteExpiry => exact State.update_keepsLines (minute_keepsLines _)
  | debounceExpiry place input =>
    unfold exec execDebounceExpiry
    exact State.update_keepsLines (.ite_both (.refl _) (debounce_keepsLines ..))
  | millisecondExpiry pins => exact State.update_keepsLines (millisecond_keepsLines ..)
  | pwmCompareMatch place =>
    unfold exec execPwmCompareMatch
    exact State.update_keepsLines (.ite_both (.refl _) (compareMatch_keepsLines ..))
  | configLoadClockTimeout =>
    exact State.update_keepsLines (.ite fun reading => failLoad_keepsLines _ (config_of_reading reading))
  | configRetryExpiry => exact State.update_keepsLines (.ite fun failed => beginLoad_keepsLines _ (config_of_failed failed.1))
  | backupSupplyLost => exact State.update_keepsLines (loseBackup_keepsLines _)
  | pnlHold h oven => exact panelAt_keepsLines fun c i => setHold_keepsLines ..
  | pnlRelease h oven => exact panelAt_keepsLines fun c i => setHold_keepsLines ..
  | pnlOut h oven => exact panelAt_keepsLines fun c i => panelOut_keepsLines ..
  | pnlIn h oven => exact panelAt_keepsLines fun c i => panelIn_keepsLines ..
  | pnlTarget h oven value => exact panelAt_keepsLines fun c i => panelTarget_keepsLines ..
  | pnlDeclare h oven value phase => exact panelAt_keepsLines fun c i => panelDeclare_keepsLines ..
  | pnlAbort h oven => exact State.whenLoaded_keepsLines fun c => .ite fun _ => panelAbort_keepsLines ..
  | pnlClear h oven => exact State.whenLoaded_keepsLines fun c => .ite fun _ => panelClear_keepsLines ..
  | cha h oven => exact State.whenLoaded_keepsLines fun c => .ite fun _ => .withLocal fun i => chargeAsk_keepsLines ..
  | che h oven => exact State.whenLoaded_keepsLines fun c => .ite fun _ => .withLocal fun i => chargeEnd_keepsLines ..
  | chargeLimitExpiry oven =>
    unfold exec execChargeLimitExpiry
    exact State.whenLoaded_keepsLines fun c => .withLocal fun i => chargeLimit_keepsLines ..
  | evaluationExpiry low =>
    unfold exec execEvaluationExpiry
    exact State.whenLoaded_keepsLines fun c => evaluation_keepsLines ..
  | bid h oven lateness => exact State.whenLoaded_keepsLines fun c => .ite fun _ => takeBid_keepsLines ..
  | windowExpiry => exact State.whenLoaded_keepsLines fun c => decideRound_keepsLines ..
  | holdOffExpiry =>
    unfold exec execHoldOffExpiry
    exact State.whenLoaded_keepsLines fun c => .of_view_eq rfl
  | deferralExpiry => exact State.whenLoaded_keepsLines fun c => .ite fun _ => .of_view_eq rfl
  | pas h oven => exact State.whenLoaded_keepsLines fun c => .ite fun _ => .withLocal fun i => pushAsk_keepsLines ..
  | rms h oven => exact State.whenLoaded_keepsLines fun c => .ite fun _ => .withLocal fun i => ramStarts_keepsLines ..
  | rmh h oven stroke => exact State.whenLoaded_keepsLines fun c => .ite fun _ => rmh_keepsLines ..
  | prepareLimitExpiry => exact State.whenLoaded_keepsLines fun c => prepareLimit_keepsLines ..
  | armedLimitExpiry => exact State.whenLoaded_keepsLines fun c => armedLimit_keepsLines ..
  | permitTimerExpiry => exact State.whenLoaded_keepsLines fun c => .of_view_eq rfl
  | rmhLimitExpiry => exact State.whenLoaded_keepsLines fun c => rmhLimit_keepsLines ..
  | doorLimitExpiry => exact State.whenLoaded_keepsLines fun c => doorLimit_keepsLines ..
  | leakTimerExpiry oven side =>
    unfold exec execLeakTimerExpiry
    exact State.whenLoaded_keepsLines fun c => .withLocal fun i => leakExpires_keepsLines ..
  | clearTimerExpiry oven side =>
    unfold exec execClearTimerExpiry
    exact State.whenLoaded_keepsLines fun c => .withLocal fun i => clearExpires_keepsLines ..
  | leakingSpellExpiry oven side =>
    unfold exec execLeakingSpellExpiry
    exact State.whenLoaded_keepsLines fun c => .withLocal fun i => leakingSpellExpires_keepsLines ..
  | sealedSpellExpiry oven side =>
    unfold exec execSealedSpellExpiry
    exact State.whenLoaded_keepsLines fun c => .withLocal fun i => sealedSpellExpires_keepsLines ..
  | valveMotionTimerExpiry oven =>
    unfold exec execValveMotionTimerExpiry
    exact State.whenLoaded_keepsLines fun c => .withLocal fun i => valveTimerExpires_keepsLines ..
  | capMotionTimerExpiry oven =>
    unfold exec execCapMotionTimerExpiry
    exact State.whenLoaded_keepsLines fun c => .withLocal fun i => capTimerExpires_keepsLines ..
  | pressureHighTimerExpiry oven =>
    unfold exec execPressureHighTimerExpiry
    exact State.whenLoaded_keepsLines fun c => .withLocal fun i => highTimerExpires_keepsLines ..
  | aspirateHoldExpiry oven =>
    unfold exec execAspirateHoldExpiry
    exact State.whenLoaded_keepsLines fun c => .withLocal fun i => aspirateHoldExpires_keepsLines ..
  | quarterSecondExpiry =>
    unfold exec execQuarterSecondExpiry
    exact State.whenLoaded_keepsLines fun c => quarterSecond_keepsLines ..
  | transactionComplete first second => exact State.whenLoaded_keepsLines fun c => transactionDone_keepsLines ..
  | channelByteNack => exact State.whenLoaded_keepsLines fun c => channelNack_keepsLines ..
  | addressNack => exact State.whenLoaded_keepsLines fun c => addressFails_keepsLines ..
  | clockHoldTimeout => exact State.whenLoaded_keepsLines fun c => clockFails_keepsLines ..
  | qcr h id verdict reason => exact State.whenLoaded_keepsLines fun c => .ite fun _ => carReply_keepsLines ..
  | deadlineExpiry => exact State.whenLoaded_keepsLines fun c => deadline_keepsLines ..
  | mst h position activity load aligned owner => exact State.whenLoaded_keepsLines fun c => .ite fun _ => takeMst_keepsLines ..
  | machineViewFreshnessExpiry view =>
    unfold exec execMachineViewFreshnessExpiry
    exact State.whenLoaded_keepsLines fun c => .of_view_eq rfl
  | ovs h oven stateWord lateness doors offtake pressure alarms =>
    exact State.whenLoaded_keepsLines fun c => .ite fun _ => ovs_keepsLines ..
  | neighbourViewFreshnessExpiry view =>
    unfold exec execNeighbourViewFreshnessExpiry
    exact State.whenLoaded_keepsLines fun c => .of_view_eq rfl
  | pdn h oven stroke unpermitted => exact State.whenLoaded_keepsLines fun c => .ite fun _ => takePdn_keepsLines ..
  | scs h stage oven reason anchor count head alarms =>
    exact State.whenLoaded_keepsLines fun c => .ite fun _ => takeScs_keepsLines ..
  | refreshTimerExpiry station =>
    unfold exec execRefreshTimerExpiry
    exact State.whenLoaded_keepsLines fun c => .of_view_eq rfl
  | settleTimerExpiry => exact State.whenLoaded_keepsLines fun c => .ite fun _ => .of_view_eq rfl
  | lineIdleAttempt => exact State.whenLoaded_keepsLines fun c => beginAttempt_keepsLines ..
  | lostContention urgency station => exact State.whenLoaded_keepsLines fun c => loseContention_keepsLines ..
  | attemptSucceeded => exact State.whenLoaded_keepsLines fun c => succeed_keepsLines ..
  | attemptFailed => exact State.whenLoaded_keepsLines fun c => fail_keepsLines ..
  | silentExpiry => exact State.whenLoaded_keepsLines fun c => .ite fun _ => .of_view_eq rfl
  | scsPeriodExpiry => exact State.whenLoaded_keepsLines fun c => scsPeriod_keepsLines ..

/-! ## Stops and starts (R122, R124, R125, R129, R148, R149) -/

/-- The lines and the relay of a part that is stopped or begins afresh. -/
structure Part.LinesStopped (p : Part) : Prop where
  config : p.config = none
  inputs : p.fls.inputs = List.replicate 8 .fresh
  pwm : p.fls.pwmCount = 0
  channels : p.fls.channels = List.replicate 8 ⟨0, 0⟩
  scan : p.fls.scan = .start
  relay : p.mainOn = true → p.asr.relay = true

/-- What a step can make of the lines and the relay: the promises are kept, a PWM period ends, the part is stopped or begins
afresh, or it starts from the inputs as they are. -/
inductive Part.LineStep (p : Part) : Part → Prop
  | keeps {q : Part} : p.KeepsLines p.config q → p.LineStep q
  | periodEnd : p.LineStep (periodEnd p)
  | stopped {q : Part} : q.LinesStopped → p.LineStep q
  | started {c : Configuration} {low : Bool} {r : Part} : configInRange c → p.config = none → r.fls = p.fls →
      p.LineStep (startPart c low r)

section
variable (p : Part)

theorem loadDone_lineStep (acked : Bool) (block : List Byte) (low : Bool) : p.LineStep (loadDone acked block low p) := by
  unfold loadDone
  split
  · next reading =>
    split
    · exact .keeps (failLoad_keepsLines p (config_of_reading reading))
    · next loads => exact .started (loadBlock_inRange loads) (config_of_reading reading) rfl
  · exact .keeps (.refl p)

theorem assertReset_lineStep : p.LineStep (assertReset p) := by
  unfold assertReset
  split
  · exact .keeps (.refl p)
  · split
    · exact .stopped ⟨rfl, rfl, rfl, rfl, rfl, fun _ => rfl⟩
    · exact .keeps (.of_view_eq rfl)

theorem releaseReset_lineStep : p.LineStep (releaseReset p) := by
  unfold releaseReset
  split
  · split
    · exact .stopped ⟨rfl, rfl, rfl, rfl, rfl, fun _ => rfl⟩
    · exact .keeps (.of_view_eq rfl)
  · exact .keeps (.refl p)

theorem applyMain_lineStep : p.LineStep (applyMain p) := by
  unfold applyMain
  split
  · exact .keeps (.refl p)
  · split <;> exact .stopped ⟨rfl, rfl, rfl, rfl, rfl, fun _ => rfl⟩

/-- Without its main supply the part drives no relay (R123). -/
theorem loseMain_lineStep : p.LineStep (loseMain p) := by
  unfold loseMain
  split
  · dsimp only
    split <;> exact .stopped ⟨rfl, rfl, rfl, rfl, rfl, nofun⟩
  · exact .keeps (.refl p)

end

theorem exec_lineStep (i : Instr) (s : State) : ∃ q, s.Runs i q ∧ s.part.LineStep q := by
  by_cases hp : i = .pwmPeriodEnd
  · subst hp
    exact ⟨_, rfl, .periodEnd⟩
  · cases hs : Claims.startsOrStops i with
    | false =>
      obtain ⟨q, runs, keeps⟩ := exec_keepsLines i s hp hs
      exact ⟨q, runs, .keeps keeps⟩
    | true =>
      cases i with
      | configLoadComplete acked block low => exact ⟨_, rfl, loadDone_lineStep s.part acked block low⟩
      | resetAsserted => exact ⟨_, rfl, assertReset_lineStep s.part⟩
      | resetReleased => exact ⟨_, rfl, releaseReset_lineStep s.part⟩
      | mainSupplyApplied => exact ⟨_, rfl, applyMain_lineStep s.part⟩
      | mainSupplyLost => exact ⟨_, rfl, loseMain_lineStep s.part⟩
      | _ => cases hs

theorem step_lineStep {s t : State} (next : step s = .next t) : s.part.LineStep t.part := by
  unfold step at next
  split at next
  · cases next
    exact .keeps (.refl _)
  · next i rest _ =>
    obtain ⟨q, runs, lines⟩ := exec_lineStep i { s with pending := rest }
    cases runs.symm.trans next
    exact lines

end Sys2Proof.Machine

/-! SUPPORT. The promises about the inputs, the field lines and the relay hold after every step (R121 to R128, R141). -/

namespace Sys2Proof.Machine

open Sys2Proof

variable {p q : Part}

/-! ## The inputs (R121, R122) -/

theorem Part.LinesStopped.inputsHold (h : p.LinesStopped) : p.InputsHold p.config := by
  refine ⟨by simp [h.inputs], fun i x hx input => ?_⟩
  rw [h.inputs] at hx
  obtain rfl := List.eq_of_mem_replicate (List.mem_of_getElem? hx)
  rw [PlaceInputs.get_fresh]
  exact .fresh fun ⟨c, hc, _⟩ => absurd (h.config.symm.trans hc) nofun

/-- A start makes every input of a local oven known, and takes the others afresh. -/
theorem startPart_inputsHold {o : Option Configuration} (held : p.InputsHold o) (c : Configuration) (low : Bool) {r : Part}
    (hr : r.fls = p.fls) : (startPart c low r).InputsHold (some c) := by
  have inputs : (startPart c low r).fls.inputs = inputsAtLoad c p.fls.inputs :=
    congrArg (fun f : Fls => inputsAtLoad c f.inputs) hr
  refine ⟨by rw [inputs, inputsAtLoad, List.length_mapIdx, held.count], fun i x' hx' input => ?_⟩
  rw [inputs, inputsAtLoad, List.getElem?_mapIdx] at hx'
  obtain ⟨x, hx, rfl⟩ := Option.map_eq_some_iff.mp hx'
  split
  · rw [PlaceInputs.get_atLoad]
    exact (held.place i x hx input).atLoad
  · next beyond =>
    rw [PlaceInputs.get_fresh]
    refine .fresh ?_
    rintro ⟨d, hd, below⟩
    cases hd
    exact beyond below

theorem Part.LineStep.inputsHold (h : p.LineStep q) (held : p.InputsHold p.config) : q.InputsHold q.config := by
  cases h with
  | keeps keeps => exact keeps.config.symm ▸ keeps.inputs held
  | periodEnd => exact ⟨held.count, held.place⟩
  | stopped rest => exact rest.inputsHold
  | started _ _ same => exact startPart_inputsHold held _ _ same

/-! ## The relay (R123, R141) -/

theorem Part.RelayHolds.periodEnd {o : Option Configuration} (h : p.RelayHolds o) : (Machine.periodEnd p).RelayHolds o := by
  cases o <;> exact h

theorem Part.LineStep.relaySound (h : p.LineStep q) (held : p.RelaySound) : q.RelaySound := by
  rw [Part.relaySound_iff] at held ⊢
  cases h with
  | keeps keeps => exact keeps.config.symm ▸ keeps.relay held
  | periodEnd => exact held.periodEnd
  | stopped rest => exact rest.config.symm ▸ rest.relay
  | started => exact ⟨rfl, rfl⟩

/-- Settles O13, by the relay decision that follows every change of the alarm sets. -/
theorem relayFollowsTheDecision : Obligations.RelayFollowsTheDecision := fun _ _ sound next =>
  (step_lineStep next).relaySound sound

/-! ## The channels and the scan (R124 to R128) -/

/-- The promise about the field lines, but for the inputs and for the compare buffers that the valve commands fill. -/
structure Part.LinesHold (p : Part) : Prop where
  count : p.fls.channels.length = 8
  pwm : p.fls.pwmCount < 1000
  applied : ∀ ch ∈ p.fls.channels, ch.applied ≤ 1000
  idle : ∀ j ch, p.places.length ≤ j → p.fls.channels[j]? = some ch → ch.buffered ≤ 1000
  scan : p.fls.scan.Holds p.config

theorem Part.FieldLinesSound.hold (h : p.FieldLinesSound) (places : p.PlacesSound) : p.LinesHold := by
  obtain ⟨-, count, pwm, compares, nacks, scan⟩ := h
  refine ⟨count, pwm, fun ch hch => (compares ch hch).1, fun j ch _ hj => (compares ch (List.mem_of_getElem? hj)).2, ?_, nacks,
    fun running => ?_⟩
  · intro c hc
    obtain ⟨⟨-, -, -, -, -, ovens, -⟩, -⟩ := places.2 c (by simp [hc])
    exact ovens
  · obtain ⟨c, hc, at_place⟩ := scan running
    exact ⟨c, Option.mem_toList.mp hc, at_place⟩

/-- A sound offtake's valve command is a compare (R83, R124). -/
theorem Offtake.Sound.valve_le {c : Configuration} {o : Offtake} (h : o.Sound c) (hc : configInRange c) : o.valve ≤ 1000 := by
  obtain ⟨pi, aspirate, isolate, hold, -⟩ := h
  obtain ⟨-, -, -, -, -, -, -, -, -, -, -, uMax, uFail, -⟩ := hc
  cases hm : o.mode with
  | pi => exact (pi hm).2.trans uMax
  | aspirate => exact (aspirate hm).le
  | isolate => exact (isolate hm).trans_le (Nat.zero_le _)
  | hold => exact (hold hm).trans_le uFail

theorem Part.LinesHold.sound (h : p.LinesHold) (inputs : p.fls.inputs.length = 8) (places : p.PlacesSound)
    (offtakes : p.OfftakesSound) : p.FieldLinesSound := by
  refine ⟨inputs, h.count, h.pwm, fun ch hch => ⟨h.applied ch hch, ?_⟩, h.scan.count, fun running => ?_⟩
  · obtain ⟨j, hj⟩ := List.getElem?_of_mem hch
    cases hpl : p.places[j]? with
    | none => exact h.idle j ch (List.getElem?_eq_none_iff.mp hpl) hj
    | some pl =>
      cases hc : p.config with
      | none => simp [places.1 hc] at hpl
      | some c =>
        have held := offtakes.hold hc
        have buffered := held.buffer j pl hpl
        rw [hj] at buffered
        exact (Option.some.inj buffered).trans_le ((held.sound j pl hpl).valve_le (places.2 c (by simp [hc])).1)
  · obtain ⟨c, hc, at_place⟩ := h.scan.place running
    exact ⟨c, Option.mem_toList.mpr hc, at_place⟩

theorem Part.KeepsLines.linesHold (h : p.KeepsLines p.config q) (held : p.LinesHold) : q.LinesHold := by
  refine ⟨?_, h.pwm held.pwm, fun ch hch => ?_, fun j ch hj hch => ?_, h.config.symm ▸ h.scan held.scan⟩
  · have := congrArg List.length h.applied
    simpa [held.count] using this
  · have before : ch.applied ∈ p.fls.channels.map (·.applied) := h.applied ▸ List.mem_map_of_mem hch
    obtain ⟨old, hold, same⟩ := List.mem_map.mp before
    exact same ▸ held.applied old hold
  · rw [h.count] at hj
    exact held.idle j ch hj ((h.idle j hj).symm.trans hch)

/-- A period end applies the compares that the buffers hold. -/
theorem periodEnd_linesHold (h : p.FieldLinesSound) (places : p.PlacesSound) : (periodEnd p).LinesHold := by
  have held := h.hold places
  obtain ⟨-, -, -, compares, -⟩ := h
  refine ⟨(List.length_map ..).trans held.count, Nat.zero_lt_succ _, fun ch hch => ?_, fun j ch hj hch => ?_, held.scan⟩
  · obtain ⟨old, hold, rfl⟩ := List.mem_map.mp hch
    exact (compares old hold).2
  · obtain ⟨old, hold, rfl⟩ := Option.map_eq_some_iff.mp ((List.getElem?_map ..).symm.trans hch)
    exact held.idle j old hj hold

theorem Scan.Holds.start {o : Option Configuration} (h : ∀ c, o = some c → 1 ≤ c.ovenCount) : Scan.start.Holds o :=
  ⟨h, Nat.zero_le _, nofun⟩

theorem Part.LinesStopped.linesHold (h : p.LinesStopped) : p.LinesHold := by
  refine ⟨by simp [h.channels], by simp [h.pwm], fun ch hch => ?_, fun j ch _ hch => ?_, ?_⟩
  · rw [h.channels] at hch
    simp [List.eq_of_mem_replicate hch]
  · rw [h.channels] at hch
    simp [List.eq_of_mem_replicate (List.mem_of_getElem? hch)]
  · rw [h.scan, h.config]
    exact .start nofun

/-- A start applies nothing, and buffers a valve command for each local oven alone (R124, R148). -/
theorem startPart_linesHold {c : Configuration} (hc : configInRange c) (low : Bool) {r : Part} (pwm : r.fls.pwmCount < 1000) :
    (startPart c low r).LinesHold := by
  have channel (j : Nat) (ch : Channel) (h : (startPart c low r).fls.channels[j]? = some ch) :
      ch.applied = 0 ∧ ((startPart c low r).places.length ≤ j → ch.buffered = 0) := by
    obtain ⟨j', hj', rfl⟩ := Option.map_eq_some_iff.mp ((List.getElem?_map ..).symm.trans h)
    obtain ⟨hlt, rfl⟩ := List.getElem?_eq_some_iff.mp hj'
    rw [List.getElem_range]
    split
    · exact ⟨rfl, fun _ => rfl⟩
    · next pl hpl => exact ⟨rfl, fun beyond => absurd (List.getElem?_eq_some_iff.mp hpl).1 (Nat.not_lt.mpr beyond)⟩
  refine ⟨by simp [startPart, startChannels], pwm, fun ch hch => ?_, fun j ch hj hch => ?_, .start fun d hd => ?_⟩
  · obtain ⟨j, hj⟩ := List.getElem?_of_mem hch
    exact (channel j ch hj).1.trans_le (Nat.zero_le _)
  · exact ((channel j ch hch).2 hj).trans_le (Nat.zero_le _)
  · cases hd
    obtain ⟨-, -, -, -, -, ovens, -⟩ := hc
    exact ovens

theorem Part.LineStep.linesHold (h : p.LineStep q) (lines : p.FieldLinesSound) (places : p.PlacesSound) : q.LinesHold := by
  cases h with
  | keeps keeps => exact keeps.linesHold (lines.hold places)
  | periodEnd => exact periodEnd_linesHold lines places
  | stopped rest => exact rest.linesHold
  | started range _ same => exact startPart_linesHold range _ (same ▸ (lines.hold places).pwm)

/-- Settles O10, by what a step can make of the lines; the valve commands in the compare buffers are those of sound offtakes. -/
theorem fieldLinesStayInRange : Obligations.FieldLinesStayInRange := by
  intro s t places inputs next
  have lines := step_lineStep next
  have held := lines.inputsHold inputs.hold
  have places' : t.part.PlacesSound := (placesAndAgesStayInRange s t places next).1
  refine ⟨held.sound places', fun offtakes sound => ?_⟩
  exact (lines.linesHold sound places).sound held.count places' (offtakesFollowTheirMode s t places offtakes next)

end Sys2Proof.Machine

/-! SUPPORT. The outputs of a part without records, and the part right after reset (R122, R124, R129, R138, R144, R149). -/

namespace Sys2Proof.Machine

open Sys2Proof

/-! ## The output pins (R63, R83, R124, R129) -/

theorem permitPin_of_empty {p : Part} (h : p.places = []) (i : Nat) (side : Side) : p.permitPin i side = false := by
  simp [Part.permitPin, h]

theorem capPin_of_empty {p : Part} (h : p.places = []) (i : Nat) : p.capPin i = false := by simp [Part.capPin, h]

theorem valvePin_iff {p : Part} {i : Nat} {ch : Channel} (h : p.fls.channels[i]? = some ch) :
    p.valvePin i = true ↔ p.fls.pwmCount < ch.applied := by simp [Part.valvePin, h]

/-- With no compare applied no valve output is active. -/
theorem Part.LinesStopped.valvePin {p : Part} (h : p.LinesStopped) (i : Nat) : p.valvePin i = false := by
  unfold Part.valvePin
  split
  · rfl
  · next ch hch =>
    rw [h.channels] at hch
    simp [List.eq_of_mem_replicate (List.mem_of_getElem? hch)]

/-! ## Reset -/

theorem reset_linesStopped : Part.reset.LinesStopped := ⟨rfl, rfl, rfl, rfl, rfl, fun _ => rfl⟩

theorem Bli.start_sound : Bli.start.Sound := by simp [Bli.Sound, Bli.start]

/-- Without a configuration nothing is promised of one. -/
theorem forall_config_of_unloaded {p : Part} (h : p.config = none) {P : Configuration → Prop} : ∀ c ∈ p.config.toList, P c :=
  fun _ hc => absurd (h.symm.trans (Option.mem_toList.mp hc)) nofun

/-- Without records and configuration, and with the start values of every block, every promise is kept. -/
theorem reset_sound : Part.reset.Sound := by
  have unloaded : Part.reset.config = none := rfl
  have empty : Part.reset.places = [] := rfl
  have places : Part.reset.PlacesSound := ⟨fun _ => empty, forall_config_of_unloaded unloaded⟩
  have ages : Part.reset.AgesSound := ⟨by simp [empty], by simp [Part.reset, RetainedDomain.blank]⟩
  have phases : Part.reset.PhasesSound := by
    simp [Part.PhasesSound, Part.phases, RetainedDomain.phases, Part.reset, RetainedDomain.blank, noOpenNeighbours, Psq.start]
  have doors : Part.reset.DoorsSound := ⟨fun _ => empty, forall_config_of_unloaded unloaded⟩
  have offtakes : Part.reset.OfftakesSound := Part.offtakesSound_of_empty unloaded empty
  have peers : Part.reset.PeersSound := by simp [Part.PeersSound, Part.reset, Lvt.start]
  have inputs := reset_linesStopped.inputsHold
  have relay : Part.reset.RelaySound := ⟨fun _ _ => rfl, forall_config_of_unloaded unloaded⟩
  exact ⟨places, ages, phases, (contextSound_iff _).mpr Psq.start_sound, doors, offtakes, Bsu.start_sound,
    (Qou.sound_iff _).mpr .start, inputs.sound places, peers, Bli.start_sound, relay,
    reset_linesStopped.linesHold.sound inputs.count places offtakes⟩

/-- Settles O14, by the start values of each block. -/
theorem resetIsSound : Obligations.ResetIsSound :=
  ⟨reset_sound, rfl, rfl, rfl, rfl, rfl, rfl, rfl, rfl, rfl, fun i side =>
    ⟨permitPin_of_empty rfl i side, capPin_of_empty rfl i, reset_linesStopped.valvePin i⟩⟩

end Sys2Proof.Machine

/-! SUPPORT. The valve outputs (R124), and the samples and spells of the switch inputs (R121, R122). -/

namespace Sys2Proof.Machine

open Sys2Proof

/-! ## The valve outputs (R124) -/

theorem compareMatch_eq {p : Part} {i : Nat} {ch : Channel} (h : p.fls.channels[i]? = some ch) : compareMatch i p
    = if ch.applied < 1000 ∧ p.fls.pwmCount ≤ ch.applied then { p with fls := { p.fls with pwmCount := ch.applied } }
      else p := by
  simp [compareMatch, h]

theorem pwmCompareMatch_runs (s : State) (i : Nat) : s.Runs (.pwmCompareMatch (i + 1)) (compareMatch i s.part) := by
  simp [State.Runs, exec, execPwmCompareMatch]

/-- Settles O50, by the meaning of the two PWM events; every other command keeps the applied compares. -/
theorem valveOutputsFollowTheirCompares : Obligations.ValveOutputsFollowTheirCompares := by
  intro s
  refine ⟨fun i ch hch => ⟨valvePin_iff hch, fun below ahead => ?_, fun passed => ?_⟩, rfl, fun i hp hs => ?_⟩
  · have runs := (pwmCompareMatch_runs s i).congr ((compareMatch_eq hch).trans (if_pos ⟨below, ahead⟩))
    refine ⟨_, runs, ?_, rfl⟩
    simp [Part.valvePin, hch]
  · exact (pwmCompareMatch_runs s i).ignores ((compareMatch_eq hch).trans (if_neg (by omega)))
  · obtain ⟨q, runs, keeps⟩ := exec_keepsLines i s hp hs
    exact ⟨q, runs, keeps.applied⟩

/-! ## One sample of the pins (R121, R122) -/

/-- A stability timer that runs on, or starts at 50 ms. -/
theorem Timer.runOn_debounce (t : Timer) : t.runOn debounceMs = if t = .stopped then .running 50 else t := by
  cases t <;> rfl

/-- The table of R121 for an input with a debounced level. -/
theorem Input.sample_of_level {y : Input} {l : Bool} (h : y.level = some l) (v : Bool) : y.sample v
    = { pin := some v, level := some l
        stability := if v = l then .stopped else if y.stability = .stopped then .running 50 else y.stability } := by
  unfold Input.sample
  simp only [h, Timer.runOn_debounce]
  split <;> rfl

/-- A first level needs the same spell of one pin level (R122). -/
theorem Input.sample_of_no_level {y : Input} (h : y.level = none) (v : Bool) : y.sample v
    = { pin := some v, level := none
        stability := if y.pin = some v then (if y.stability = .stopped then .running 50 else y.stability)
          else .running 50 } := by
  unfold Input.sample
  simp only [h, Timer.runOn_debounce]
  split
  · next same => rw [same]
  · rfl

theorem lt_sampledPlaces_iff (p : Part) (i : Nat) :
    i < sampledPlaces p ↔ (p.config = none → i < 8) ∧ ∀ c, p.config = some c → i < c.ovenCount := by
  cases h : p.config <;> simp [sampledPlaces, h]

theorem millisecond_of_stopped {p : Part} (h : p.dividers = none) (pins : Pins) : millisecond pins p = p := by
  simp [millisecond, h]

theorem millisecond_eq {p : Part} {d : Nat} (h : p.dividers = some d) (pins : Pins) : millisecond pins p = { p with
    dividers := some ((d + 1) % 1000)
    fls := { p.fls with
      inputs := p.fls.inputs.mapIdx fun i x => if i < sampledPlaces p then x.sample pins i else x } } := by
  simp [millisecond, h]

/-! ## The end of a spell (R121, R122) -/

theorem debounceExpiry_runs (s : State) (i : Nat) (input : SwitchInput) :
    s.Runs (.debounceExpiry (i + 1) input) (debounce i input s.part) := by
  simp [State.Runs, exec, execDebounceExpiry]

theorem debounce_of_stopped {p : Part} {i : Nat} {x : PlaceInputs} {input : SwitchInput} (h : p.fls.inputs[i]? = some x)
    (stopped : (x.get input).stability.active = false) : debounce i input p = p := by
  simp [debounce, h, stopped]

/-- A first level, and any level before the load, is set and told to nobody. -/
theorem debounce_untold {p : Part} {i : Nat} {x : PlaceInputs} {input : SwitchInput} {v : Bool}
    (h : p.fls.inputs[i]? = some x) (pin : (x.get input).pin = some v) (active : (x.get input).stability.active = true)
    (untold : (x.get input).level = none ∨ p.config = none) : debounce i input p = p.withLevel i input v := by
  have settled : (x.get input).settle = { pin := some v, level := some v, stability := .stopped } := by
    simp [Input.settle, pin]
  simp only [debounce, h, if_pos active, settled]
  rcases untold with level | unloaded
  · rw [level]
    cases p.config <;> rfl
  · rw [unloaded]
    rfl

/-- Settles O60, by the table of one input's sample and the end of its spell. -/
theorem millisecondSamplesThePins : Obligations.MillisecondSamplesThePins := by
  intro s pins
  refine ⟨fun stopped => ?_, fun d hd => ?_, fun i x input v hx pin => ⟨fun active untold => ?_, fun stopped => ?_⟩⟩
  · exact State.Runs.ignores (q := millisecond pins s.part) rfl (millisecond_of_stopped stopped pins)
  · refine ⟨_, State.Runs.congr (q := millisecond pins s.part) rfl (millisecond_eq hd pins), rfl, List.length_mapIdx .., ?_⟩
    intro i x hx debounced
    have sampled : debounced ↔ i < sampledPlaces s.part := (lt_sampledPlaces_iff s.part i).symm
    refine ⟨_, (List.getElem?_mapIdx ..).trans (congrArg _ hx), fun off => if_neg (mt sampled.mpr off), fun on input => ?_⟩
    have record : (if i < sampledPlaces s.part then x.sample pins i else x).get input
        = (x.get input).sample (pinLevel pins i input) := by
      rw [if_pos (sampled.mp on), PlaceInputs.get_sample]
    exact ⟨fun l level => record.trans (Input.sample_of_level level _),
      fun level => record.trans (Input.sample_of_no_level level _)⟩
  · exact (debounceExpiry_runs s i input).congr (debounce_untold hx pin active untold)
  · exact (debounceExpiry_runs s i input).ignores (debounce_of_stopped hx stopped)

end Sys2Proof.Machine

/-! SUPPORT. The OVS and SCS payloads against the layout of R150, field by field, and the two periods that offer them
(R125, R142, R143). -/

namespace Sys2Proof.Machine

open Sys2Proof

/-! ## The fields of the formats (R150) -/

/-- A word of a number is its remainder by 65536 in two's complement. -/
theorem bytesOfInt16_eq_signedBytes (x : Int) : bytesOfInt16 x = Claims.signedBytes x := by
  rw [bytesOfInt16, BitVec.toNat_ofInt]
  rfl

theorem doorState_code_eq (d : DoorState) : d.code = Claims.doorCode d := by cases d <;> rfl

theorem stateWordOf_eq {r : Retained} (age : r.age ≤ 4095) :
    stateWordOf r = (if r.hold then 32768 else 0) + Claims.phaseCode r.phase * 4096 + r.age := by
  have code : r.phase.code = Claims.phaseCode r.phase := by cases r.phase <;> rfl
  rw [stateWordOf, code, Nat.mod_eq_of_lt (by omega)]

theorem offtakeWordOf_eq {o : Offtake} (valve : o.valve ≤ 1000) :
    offtakeWordOf o = Claims.modeCode o.mode * 16384 + Claims.subCode o.sub * 4096 + o.valve := by
  have mode : o.mode.code = Claims.modeCode o.mode := by cases o.mode <;> rfl
  have sub : subCode o.sub = Claims.subCode o.sub := by rcases o.sub with _ | _ | _ | _ <;> rfl
  rw [offtakeWordOf, mode, sub, Nat.mod_eq_of_lt (by omega)]

theorem pressureBytes_eq (x : Option Int) : pressureBytes x = match x with
    | none => [0x80, 0x00]
    | some v => Claims.signedBytes v := by
  cases x with
  | none => rfl
  | some v => exact bytesOfInt16_eq_signedBytes v

/-- With age and valve in the range of their fields, the payload is the one of R142 and R150. -/
theorem ovsPayload_eq {pl : Place} (age : pl.oven.kept.age ≤ 4095) (valve : pl.offtake.valve ≤ 1000) :
    ovsPayload pl = Claims.ovs pl := by
  rw [ovsPayload, stateWordOf_eq age, offtakeWordOf_eq valve, pressureBytes_eq, bytesOfInt16_eq_signedBytes,
    doorState_code_eq, doorState_code_eq]
  rfl

theorem headByte_eq (orders : List Order) : byteOf (headByte orders) = Claims.headByte orders := by
  cases orders with
  | nil => rfl
  | cons o _ =>
    obtain ⟨_, kind, state⟩ := o
    cases kind <;> cases state <;> rfl

theorem stage_code_eq (x : Stage) : x.code = Claims.stageCode x := by cases x <;> rfl

theorem abortReason_code_eq (x : AbortReason) : x.code = Claims.reasonCode x := by cases x <;> rfl

theorem scsPayload_eq (p : Part) : scsPayload p = Claims.scs p := by
  rw [scsPayload, headByte_eq, Claims.scs]
  cases p.psq.context with
  | none => cases p.lvt.anchor <;> rfl
  | some x =>
    cases h : x.reason <;> cases p.lvt.anchor <;> simp [h, byteOf, stage_code_eq, abortReason_code_eq]

/-! ## The two periods (R125, R142, R143) -/

/-- A scan begins at place 1 with its first transaction on the port (R125, R126). -/
theorem startScan_eq (c : Configuration) (p : Part) : startScan c p = { p with
    fls := if p.fls.scan.running then p.fls
      else { p.fls with
        scan := { p.fls.scan with running := true, place := 1, addressNack := false }
        port := [.start, .write c.converterAddress, .byte 0, .repeatedStart, .read c.converterAddress, .readAck, .readNack,
          .stop] } } := by
  unfold startScan
  split <;> rfl

/-- The oven in turn is offered with its payload as the part stands. -/
theorem offerOvs_of_place {p : Part} {i : Nat} {pl : Place} (h : p.places[i]? = some pl) :
    p.offerOvs i = p.offer .ovs (.oven pl.oven.number) (ovsPayload pl) := by
  simp [Part.offerOvs, h]

theorem scsPeriod_of_stopped {p : Part} (h : p.asr.scsPeriod.active = false) (c : Configuration) : scsPeriod c p = p := by
  simp [scsPeriod, h]

theorem scsPeriod_of_running {p : Part} (h : p.asr.scsPeriod.active = true) (c : Configuration) : scsPeriod c p = { p with
    bli := (p.bli.offer .scs .station (Claims.scs p)).1
    asr := { p.asr with scsPeriod := .running 2000 } } := by
  rw [scsPeriod, if_pos h, scsPayload_eq]
  rfl

/-- Settles O57, by the formats of the two telegrams and what each period does. -/
theorem periodicReportsAreOffered : Obligations.PeriodicReportsAreOffered := by
  intro s c hc
  have scs : s.Runs .scsPeriodExpiry (scsPeriod c s.part) := State.whenLoaded_some hc _
  refine ⟨fun pl hpl age valve _ => ?_, fun running => scs.congr (scsPeriod_of_running running c),
    fun stopped => scs.ignores (scsPeriod_of_stopped stopped c)⟩
  have turn : s.Runs .quarterSecondExpiry (roundRobinOvs c (startScan c s.part)) :=
    State.whenLoaded_some hc fun c p => roundRobinOvs c (startScan c p)
  refine turn.congr ?_
  have here : (startScan c s.part).places[(startScan c s.part).asr.roundRobin]? = some pl := by rwa [startScan_eq]
  rw [roundRobinOvs, offerOvs_of_place here, ovsPayload_eq age valve, startScan_eq]
  rfl

end Sys2Proof.Machine

/-! SUPPORT. A scan that a failed transaction ends (R127, R128): the invalid samples of the places left, one after the other,
and the count, alarm and stop at its end. -/

namespace Sys2Proof.Machine

open Sys2Proof

/-! ## The samples of the places left (R73, R127) -/

/-- A place after an invalid sample, with no door to take its permit from. -/
def Place.sampleFailed (c : Configuration) (pl : Place) : Place :=
  (pl.withOfftake (Claims.invalidCounted c pl.offtake)).withAlarms (Claims.invalidAlarms pl)

/-- From `p` to `q` the places of `l` have counted an invalid sample each; of the rest, only what such samples may touch differs. -/
structure Part.FailsSamples (c : Configuration) (l : List Nat) (p q : Part) : Prop where
  failed : ∀ j ∈ l, ∀ pl, p.places[j]? = some pl → q.places[j]? = some (pl.sampleFailed c)
  others : ∀ j ∉ l, q.places[j]? = p.places[j]?
  rest : q = { p with
    places := q.places
    bli := { p.bli with queue := q.bli.queue, attempt := q.bli.attempt, offerClock := q.bli.offerClock }
    fls := { p.fls with channels := q.fls.channels }
    asr := { p.asr with relay := q.asr.relay } }

theorem Part.FailsSamples.nil (c : Configuration) (p : Part) : p.FailsSamples c [] p :=
  ⟨fun _ hj => absurd hj List.not_mem_nil, fun _ _ => rfl, rfl⟩

/-- The sample of one place leaves the others to be sampled as they were. -/
theorem Part.FailsSamples.cons {c : Configuration} {i : Nat} {l : List Nat} {p q : Part} (fresh : i ∉ l)
    (here : ∀ pl, p.places[i]? = some pl → (invalidSample c i p).places[i]? = some (pl.sampleFailed c))
    (later : (invalidSample c i p).FailsSamples c l q) : p.FailsSamples c (i :: l) q where
  failed j hj pl hpl := by
    rcases List.mem_cons.mp hj with rfl | hj
    · exact (later.others j fresh).trans (here pl hpl)
    · have other : j ≠ i := fun e => fresh (e ▸ hj)
      exact later.failed j hj pl (((OvenOnly.invalidSample c i p).places j other).trans hpl)
  others j hj := by
    obtain ⟨other, hj⟩ := List.ne_and_not_mem_of_not_mem_cons hj
    exact (later.others j hj).trans ((OvenOnly.invalidSample c i p).places j other)
  rest := by rw [later.rest, (OvenOnly.invalidSample c i p).rest]

theorem invalidSamples_failsSamples (c : Configuration) {l : List Nat} {p : Part} (once : l.Nodup)
    (latched : ∀ j ∈ l, ∀ pl, p.places[j]? = some pl → pl.NoneReleased) :
    p.FailsSamples c l (l.foldl (fun p i => invalidSample c i p) p) := by
  induction l generalizing p with
  | nil => exact .nil c p
  | cons i l ih =>
    obtain ⟨fresh, once⟩ := List.nodup_cons.mp once
    refine .cons fresh (fun pl hpl => ?_) (ih once fun j hj pl hpl => ?_)
    · exact ((Part.shows_self hpl).invalidSample (latched i List.mem_cons_self pl hpl) c).place
    · have other : j ≠ i := fun e => fresh (e ▸ hj)
      exact latched j (List.mem_cons_of_mem i hj) pl (((OvenOnly.invalidSample c i p).places j other).symm.trans hpl)

theorem mem_drop_range_iff {k n j : Nat} : j ∈ (List.range n).drop k ↔ k ≤ j ∧ j < n := by
  simp only [List.range_eq_range', List.drop_range', List.mem_range'_1]
  omega

/-- The current place and every later one are sampled, each once. -/
theorem failRest_failsSamples (c : Configuration) {p : Part} (latched : ∀ pl ∈ p.places, pl.NoneReleased) :
    p.FailsSamples c ((List.range c.ovenCount).drop (p.fls.scan.place - 1)) (failRest c p) :=
  invalidSamples_failsSamples c (List.nodup_range.sublist (List.drop_sublist ..))
    fun _ _ pl hpl => latched pl (List.mem_of_getElem? hpl)

/-! ## The end of the scan (R128) -/

/-- The scan of `p` ended early in `q`: the count by its address-NACK flag, SAMPLE_PORT at 3, and a stop on the port. -/
structure Part.BreaksScan (p q : Part) : Prop where
  places : q.places = p.places
  scan : q.fls.scan = { p.fls.scan with
    running := false
    nackCount := if p.fls.scan.addressNack then min 3 (p.fls.scan.nackCount + 1) else p.fls.scan.nackCount }
  port : q.fls.port = [.stop]
  station : q.asr.station = if p.fls.scan.addressNack = true ∧ min 3 (p.fls.scan.nackCount + 1) = 3
    then p.asr.station ||| 0x08 else p.asr.station
  rest : q = { p with
    fls := { p.fls with scan := q.fls.scan, port := q.fls.port }
    asr := { p.asr with station := q.asr.station, relay := q.asr.relay } }

theorem endScan_early_eq (c : Configuration) (p : Part) :
    let count := if p.fls.scan.addressNack then min 3 (p.fls.scan.nackCount + 1) else p.fls.scan.nackCount
    let ended := { p with fls := { p.fls with scan := { p.fls.scan with running := false, nackCount := count }, port := [] } }
    endScan c true p = if p.fls.scan.addressNack = true ∧ min 3 (p.fls.scan.nackCount + 1) = 3
      then raiseStation c .samplePort ended else ended := by
  cases nack : p.fls.scan.addressNack <;> simp [endScan, nack]

theorem endScan_breaksScan (c : Configuration) (p : Part) : p.BreaksScan (endScan c true p).sendStop := by
  rw [endScan_early_eq]
  by_cases third : p.fls.scan.addressNack = true ∧ min 3 (p.fls.scan.nackCount + 1) = 3
  · rw [if_pos third]
    exact ⟨rfl, rfl, rfl, (if_pos third).symm, rfl⟩
  · rw [if_neg third]
    exact ⟨rfl, rfl, rfl, (if_neg third).symm, rfl⟩

/-! ## The two failed transactions (R127) -/

/-- The part as the scan ends, with what ended it. -/
def Part.withNack (p : Part) (address : Bool) : Part :=
  { p with fls := { p.fls with scan := { p.fls.scan with addressNack := address } } }

/-- A broken scan, by an address not acknowledged or by a clock held low. -/
def brokenScan (c : Configuration) (address : Bool) (p : Part) : Part :=
  (endScan c true (failRest c (p.withNack address))).sendStop

/-- The samples of the places left and then the end of the scan differ from the part before in nothing else. -/
theorem Part.BreaksScan.rest_of_sampled {c : Configuration} {address : Bool} {l : List Nat} {p q r : Part}
    (sampled : (p.withNack address).FailsSamples c l r) (ended : r.BreaksScan q) : q = { p with
      places := q.places
      bli := { p.bli with queue := q.bli.queue, attempt := q.bli.attempt, offerClock := q.bli.offerClock }
      fls := { p.fls with channels := q.fls.channels, scan := q.fls.scan, port := q.fls.port }
      asr := { p.asr with station := q.asr.station, relay := q.asr.relay } } := by
  rw [ended.rest, sampled.rest]
  rfl

theorem addressFails_running {c : Configuration} {p : Part} (h : p.fls.scan.running = true) :
    addressFails c p = brokenScan c true p := by
  rw [addressFails, if_pos h]
  rfl

theorem clockFails_running {c : Configuration} {p : Part} (h : p.fls.scan.running = true)
    (quiet : p.fls.scan.addressNack = false) : clockFails c p = brokenScan c false p := by
  have same : p.withNack false = p := by rw [Part.withNack, ← quiet]
  rw [clockFails, if_pos h, brokenScan, same]

theorem addressFails_idle {c : Configuration} {p : Part} (h : p.fls.scan.running = false) : addressFails c p = p := by
  simp [addressFails, h]

theorem clockFails_idle {c : Configuration} {p : Part} (h : p.fls.scan.running = false) : clockFails c p = p := by
  simp [clockFails, h]

/-- Settles O49: the places left are sampled one after the other, and the scan ends by its flag. -/
theorem brokenScanFailsTheRest : Obligations.BrokenScanFailsTheRest := by
  intro s c e address hc sound he latched
  have nack : s.Runs .addressNack (addressFails c s.part) := State.whenLoaded_some hc _
  have held : s.Runs .clockHoldTimeout (clockFails c s.part) := State.whenLoaded_some hc _
  refine ⟨fun first last running quiet => ?_, fun idle => ?_⟩
  · have runs : s.Runs e (brokenScan c address s.part) := by
      subst he
      cases address
      · exact held.congr (clockFails_running running quiet)
      · exact nack.congr (addressFails_running running)
    have count : s.part.places.length = c.ovenCount := (sound.2 c (Option.mem_toList.mpr hc)).2.1
    have sampled := failRest_failsSamples c (p := s.part.withNack address) fun pl hpl =>
      Place.noneReleased_of (latched pl hpl).1 (latched pl hpl).2
    have ended : (failRest c (s.part.withNack address)).BreaksScan (brokenScan c address s.part) := endScan_breaksScan c _
    generalize failRest c (s.part.withNack address) = r at sampled ended
    refine ⟨_, runs, fun j before => ?_, fun j pl after hpl => ?_, ?_, ended.port, ?_, ended.rest_of_sampled sampled⟩
    · have passed : j ∉ (List.range c.ovenCount).drop (s.part.fls.scan.place - 1) := fun h => by
        have := mem_drop_range_iff.mp h
        omega
      exact (congrArg (·[j]?) ended.places).trans (sampled.others j passed)
    · have present : j < s.part.places.length := (List.getElem?_eq_some_iff.mp hpl).1
      have left : j ∈ (List.range c.ovenCount).drop (s.part.fls.scan.place - 1) := mem_drop_range_iff.mpr (by omega)
      exact (congrArg (·[j]?) ended.places).trans (sampled.failed j left pl hpl)
    · rw [ended.scan, sampled.rest]
      rfl
    · rw [ended.station, sampled.rest]
      rfl
  · subst he
    cases address
    · exact held.ignores (clockFails_idle idle)
    · exact nack.ignores (addressFails_idle idle)

end Sys2Proof.Machine

/-! SUPPORT. The configuration block against R147 and R151: the fields of its layout, the structure test, and what loads. -/

namespace Sys2Proof.Machine

open Sys2Proof

/-! ## The layout (R151) -/

theorem clampNat_eq_within {lo hi : Nat} (h : lo ≤ hi) (v : Nat) : clampNat lo hi v = Claims.within lo hi v := by
  unfold clampNat Claims.within
  split
  · omega
  · split <;> omega

/-- A field of one byte fills the range 0 to 255. -/
theorem clampNat_one (block : List Byte) (k : Nat) : clampNat 0 255 (Claims.one block k) = Claims.one block k := by
  have byte : Claims.one block k < 256 := (block.getD k 0).isLt
  unfold clampNat
  omega

/-- The zero codes stand two bytes apart, the panel stations one. -/
theorem zeroCodes_offsets (f : Nat → Nat) :
    (List.range 8).map (fun k => f (52 + 2 * k)) = [52, 54, 56, 58, 60, 62, 64, 66].map f := rfl

theorem panelStations_offsets (f : Nat → Nat) : (List.range 4).map (fun k => f (72 + k)) = [72, 73, 74, 75].map f := rfl

theorem parseBlock_eq_readFrom (block : List Byte) : parseBlock block = Claims.readFrom block := by
  have one : byteAt block = Claims.one block := rfl
  have two : wordAt block = Claims.two block := rfl
  have zeroCodes := zeroCodes_offsets fun k => clampNat 0 4095 (Claims.two block k)
  have panels := panelStations_offsets (Claims.one block)
  simp only [parseBlock, one, two, zeroCodes, panels, clampNat_one, Nat.min_comm 10]
  simp (disch := omega) only [clampNat_eq_within]
  simp only [Claims.readFrom]

/-! ## The structure test (R147) -/

/-- A list as long as a range that holds all of it is a permutation of it. -/
theorem classOrderPasses_iff (c : Configuration) : classOrderPasses c = true ↔ c.classOrder.Perm (List.range c.step) := by
  simp only [classOrderPasses, Bool.and_eq_true, beq_iff_eq, List.all_eq_true, List.contains_iff_mem]
  refine ⟨fun ⟨length, all⟩ => ?_, fun perm => ⟨?_, fun r hr => perm.mem_iff.mpr hr⟩⟩
  · have within : (List.range c.step).Subperm c.classOrder := List.nodup_range.subperm all
    exact (within.perm_of_length_le (by simp [length])).symm
  · simpa using perm.length_eq

theorem machinesPass_iff (c : Configuration) : machinesPass c = true
    ↔ (∀ m ∈ machineStations c, 1 ≤ m ∧ m ≤ 63 ∧ m ≠ c.station) ∧ (machineStations c).Nodup := by
  simp only [machinesPass, Bool.and_eq_true, decide_eq_true_eq, List.all_eq_true, isStationNumber_iff, bne_iff_ne, and_assoc]

/-- A panel entry of 0 stands for none. -/
theorem panelPasses_iff (c : Configuration) (m : Nat) : panelPasses c m = true
    ↔ m ≤ 63 ∧ (m ≠ 0 → m ≠ c.station ∧ m ∉ machineStations c) := by
  by_cases none : m = 0
  · simp [panelPasses, none]
  · simp [panelPasses, none, isStationNumber, Nat.one_le_iff_ne_zero, and_assoc]

theorem structurePasses_iff (c : Configuration) : structurePasses c = true ↔ Claims.structureHolds c := by
  have lastOven : c.firstOven + c.ovenCount - 1 ≤ c.batteryOvens ↔ c.firstOven + c.ovenCount ≤ c.batteryOvens + 1 := by omega
  simp only [structurePasses, Bool.and_eq_true, decide_eq_true_eq, isStationNumber_iff, classOrderPasses_iff,
    machinesPass_iff, List.all_eq_true, panelPasses_iff, lastOven, and_assoc]
  simp only [Claims.structureHolds, machineStations, and_assoc]

/-! ## What loads (R147) -/

theorem loadBlock_eq_some_iff (acked : Bool) (block : List Byte) (c : Configuration) : loadBlock acked block = some c ↔
    acked = true ∧ block.length = 86
      ∧ ((block.take 84).map fun b => b.toNat).sum % 65536 = Claims.two block 84 ∧ Claims.one block 0 = 1
      ∧ Claims.structureHolds (Claims.readFrom block) ∧ c = Claims.readFrom block := by
  have check : checkPasses block = true ↔ ((block.take 84).map fun b => b.toNat).sum % 65536 = Claims.two block 84 := by
    simp only [checkPasses, beq_iff_eq]
    rfl
  have version : versionPasses block = true ↔ Claims.one block 0 = 1 := by
    simp only [versionPasses, beq_iff_eq]
    rfl
  simp only [loadBlock, check, version, parseBlock_eq_readFrom, structurePasses_iff, Option.ite_none_right_eq_some,
    Option.some.injEq, and_assoc, eq_comm (a := c)]

end Sys2Proof.Machine

/-! SUPPORT. A failed load and its retry (R147, R148), and what the reset line and the supplies leave (R129, R144, R145, R149). -/

namespace Sys2Proof.Machine

open Sys2Proof

/-! ## The load (R147, R148) -/

section
variable {p : Part}

theorem loadDone_failed (reading : p.load = .reading) {acked : Bool} {block : List Byte} (fails : loadBlock acked block = none)
    (low : Bool) : loadDone acked block low p = failLoad p := by
  simp [loadDone, reading, fails]

theorem loadDone_unread (h : p.load ≠ .reading) (acked : Bool) (block : List Byte) (low : Bool) :
    loadDone acked block low p = p := if_neg h

/-! ## What the retained domain keeps (R145) -/

theorem retainedCopy_of_loaded {c : Configuration} (h : p.load = .loaded c) :
    p.retainedCopy = { p.retained with records := p.places.map fun pl => pl.oven.kept } := by
  simp [Part.retainedCopy, Part.config, h]

theorem retainedCopy_of_unloaded (h : ∀ c, p.load ≠ .loaded c) : p.retainedCopy = p.retained := by
  unfold Part.retainedCopy Part.config
  split
  · rfl
  · next hc =>
    split at hc
    · next c loaded => exact absurd loaded (h c)
    · cases hc

theorem retains_of_copy {q : Part} (h : q.retained = p.retainedCopy) : Claims.retains p q := by
  unfold Claims.retains
  rw [h]
  by_cases loaded : ∃ c, p.load = .loaded c
  · obtain ⟨c, hc⟩ := loaded
    rw [retainedCopy_of_loaded hc]
    exact ⟨rfl, rfl, rfl, fun _ _ => rfl, fun none => absurd hc (none c)⟩
  · have unloaded : ∀ c, p.load ≠ .loaded c := fun c hc => loaded ⟨c, hc⟩
    rw [retainedCopy_of_unloaded unloaded]
    exact ⟨rfl, rfl, rfl, fun c hc => absurd hc (unloaded c), fun _ => rfl⟩

/-! ## A part stopped, and one that begins (R129, R149) -/

/-- A stop leaves every block at its start values, whatever it makes of the relay. -/
theorem stopped_partStopped (p : Part) (relay : Bool) : Claims.partStopped (p.stopped relay) := by
  have lines : (p.stopped true).LinesStopped := ⟨rfl, rfl, rfl, rfl, rfl, fun _ => rfl⟩
  have pins (j : Nat) (side : Side) : (p.stopped relay).permitPin j side = false ∧ (p.stopped relay).capPin j = false
      ∧ (p.stopped relay).valvePin j = false := ⟨permitPin_of_empty rfl j side, capPin_of_empty rfl j, lines.valvePin j⟩
  exact ⟨⟨rfl, rfl, rfl, rfl, rfl, rfl, rfl, rfl, rfl, rfl, rfl, rfl, pins, rfl, rfl, rfl⟩, rfl, rfl, rfl⟩

/-- A part with main supply and the line released begins from what it retained. -/
theorem begin_partBegins {p q : Part} (main : q.mainOn = true) (released : q.resetHeld = false)
    (backup : q.backupOn = p.backupOn) (copy : q.retainedCopy = p.retainedCopy) : Claims.partBegins p q.begin :=
  ⟨(stopped_partStopped q true).1, retains_of_copy copy, rfl, rfl, rfl, rfl, main, released, backup⟩

/-! ## The reset line and the supplies (R129, R144, R145, R149) -/

theorem assertReset_powered (held : p.resetHeld = false) (main : p.mainOn = true) :
    assertReset p = { p.stopped true with resetHeld := true } := by simp [assertReset, held, main]

theorem assertReset_unpowered (held : p.resetHeld = false) (main : p.mainOn = false) :
    assertReset p = { p with resetHeld := true } := by simp [assertReset, held, main]

theorem assertReset_held (held : p.resetHeld = true) : assertReset p = p := if_pos held

theorem releaseReset_powered (held : p.resetHeld = true) (main : p.mainOn = true) :
    releaseReset p = { p with resetHeld := false }.begin := by simp [releaseReset, held, main]

theorem releaseReset_unpowered (held : p.resetHeld = true) (main : p.mainOn = false) :
    releaseReset p = { p with resetHeld := false } := by simp [releaseReset, held, main]

theorem releaseReset_released (held : p.resetHeld = false) : releaseReset p = p := by simp [releaseReset, held]

theorem applyMain_on (main : p.mainOn = true) : applyMain p = p := if_pos main

theorem applyMain_released (main : p.mainOn = false) (held : p.resetHeld = false) :
    applyMain p = { p with mainOn := true }.begin := by simp [applyMain, main, held]

theorem applyMain_held (main : p.mainOn = false) (held : p.resetHeld = true) :
    applyMain p = { p.stopped true with mainOn := true } := by simp [applyMain, main, held]

theorem loseMain_off (main : p.mainOn = false) : loseMain p = p := by simp [loseMain, main]

theorem loseMain_backed (main : p.mainOn = true) (backup : p.backupOn = true) :
    loseMain p = { p.stopped false with mainOn := false } := by simp [loseMain, main, backup]

theorem loseMain_alone (main : p.mainOn = true) (backup : p.backupOn = false) :
    loseMain p = { p.stopped false with mainOn := false }.forget := by simp [loseMain, main, backup]

theorem loseBackup_on (main : p.mainOn = true) : loseBackup p = { p with backupOn := false } := if_pos main

theorem loseBackup_off (main : p.mainOn = false) : loseBackup p = { p with backupOn := false }.forget := by
  simp [loseBackup, main]

end

/-! ## The commands -/

/-- The loss of the main supply stops the part; the retained domain stands on the backup supply alone (R145). -/
theorem mainSupplyLost_stops {s : State} (main : s.part.mainOn = true) : ∃ q, s.Runs .mainSupplyLost q ∧ Claims.partStopped q
    ∧ q.mainOn = false ∧ q.resetHeld = s.part.resetHeld ∧ q.asr.relay = false ∧ q.backupOn = s.part.backupOn
    ∧ (s.part.backupOn = true → Claims.retains s.part q)
    ∧ (s.part.backupOn = false → q.retained.valid = false ∧ q.retained.records = []) := by
  have runs : s.Runs .mainSupplyLost (loseMain s.part) := rfl
  cases backup : s.part.backupOn with
  | true => exact ⟨_, runs.congr (loseMain_backed main backup), stopped_partStopped s.part false, rfl, rfl, rfl, backup,
      fun _ => retains_of_copy rfl, nofun⟩
  | false => exact ⟨_, runs.congr (loseMain_alone main backup), stopped_partStopped s.part false, rfl, rfl, rfl, backup,
      nofun, fun _ => ⟨rfl, rfl⟩⟩

/-- Settles O59, clause by clause: what loads, a failed load and its retry, the reset line, the supplies. -/
theorem loadsFailAndSuppliesStopThePart : Obligations.LoadsFailAndSuppliesStopThePart := by
  intro s acked block low
  have done : s.Runs (.configLoadComplete acked block low) (loadDone acked block low s.part) := rfl
  have held : s.Runs .configLoadClockTimeout (if s.part.load = .reading then failLoad s.part else s.part) := rfl
  have retry : s.Runs .configRetryExpiry
      (if s.part.load = .failed ∧ s.part.retry.active = true then beginLoad s.part else s.part) := rfl
  have asserted : s.Runs .resetAsserted (assertReset s.part) := rfl
  have released : s.Runs .resetReleased (releaseReset s.part) := rfl
  have applied : s.Runs .mainSupplyApplied (applyMain s.part) := rfl
  have lost : s.Runs .mainSupplyLost (loseMain s.part) := rfl
  have drained : s.Runs .backupSupplyLost (loseBackup s.part) := rfl
  refine ⟨loadBlock_eq_some_iff acked block, fun reading fails => done.congr (loadDone_failed reading fails low),
    fun reading => held.congr (if_pos reading),
    fun idle => ⟨done.ignores (loadDone_unread idle acked block low), held.ignores (if_neg idle)⟩,
    fun failed active => retry.congr (if_pos ⟨failed, active⟩), fun other => retry.ignores (if_neg fun h => other h.1),
    fun line main => ?resetStops, fun line main => asserted.congr (assertReset_unpowered line main),
    fun line => asserted.ignores (assertReset_held line), fun line main => ?resetBegins,
    fun line main => released.congr (releaseReset_unpowered line main),
    fun line => released.ignores (releaseReset_released line),
    fun main => ⟨mainSupplyLost_stops main, applied.ignores (applyMain_on main), drained.congr (loseBackup_on main)⟩,
    fun main => ⟨lost.ignores (loseMain_off main), fun line => ?supplyBegins, fun line => ?supplyHeld,
      drained.congr (loseBackup_off main)⟩⟩
  case resetStops =>
    exact ⟨_, asserted.congr (assertReset_powered line main), stopped_partStopped s.part true, retains_of_copy rfl,
      main, rfl, rfl, rfl⟩
  case resetBegins =>
    exact ⟨_, released.congr (releaseReset_powered line main), begin_partBegins main rfl rfl rfl⟩
  case supplyBegins =>
    exact ⟨_, applied.congr (applyMain_released main line), begin_partBegins rfl line rfl rfl⟩
  case supplyHeld =>
    exact ⟨_, applied.congr (applyMain_held main line), stopped_partStopped s.part true, retains_of_copy rfl,
      rfl, line, rfl⟩

end Sys2Proof.Machine

/-! SUPPORT. The transmit queue after an offer (R132, R133): one item replaced in place, a new entry in its place by urgency, or
nothing. -/

namespace Sys2Proof.Machine

open Sys2Proof

/-! ## An entry replaced, and an entry placed (R133) -/

theorem TxEntry.isItem_iff {e : TxEntry} {k : Kind} {sub : Subject} :
    e.isItem k sub = true ↔ e.kind = k ∧ e.subject = sub := by
  simp [TxEntry.isItem]

theorem TxEntry.isItem_false_iff {e : TxEntry} {k : Kind} {sub : Subject} :
    e.isItem k sub = false ↔ ¬(e.kind = k ∧ e.subject = sub) := by
  rw [← TxEntry.isItem_iff, Bool.not_eq_true]

/-- What an offer makes of an entry that stands: the payload replaced in the one of its item. -/
def TxEntry.refill (k : Kind) (sub : Subject) (payload : List Byte) (e : TxEntry) : TxEntry :=
  if e.isItem k sub then { e with payload := payload } else e

section
variable {k : Kind} {sub : Subject} {payload : List Byte} {e : TxEntry}

@[simp] theorem TxEntry.refill_kind : (e.refill k sub payload).kind = e.kind := by unfold TxEntry.refill; split <;> rfl
@[simp] theorem TxEntry.refill_subject : (e.refill k sub payload).subject = e.subject := by
  unfold TxEntry.refill; split <;> rfl
@[simp] theorem TxEntry.refill_offerTime : (e.refill k sub payload).offerTime = e.offerTime := by
  unfold TxEntry.refill; split <;> rfl

theorem TxEntry.refill_payload (h : e.kind = k ∧ e.subject = sub) : (e.refill k sub payload).payload = payload := by
  simp [TxEntry.refill, TxEntry.isItem_iff.mpr h]

theorem TxEntry.refill_other (h : ¬(e.kind = k ∧ e.subject = sub)) : e.refill k sub payload = e := by
  simp [TxEntry.refill, TxEntry.isItem_false_iff.mpr h]

end

/-- In a queue in order a new entry stands between those of equal or lower urgency number and those of higher. -/
theorem insertEntry_split {q : List TxEntry} (sorted : q.Pairwise TxEntry.before) (e : TxEntry) : ∃ front back,
    q = front ++ back ∧ insertEntry e q = front ++ e :: back
      ∧ (∀ x ∈ front, x.kind.urgency ≤ e.kind.urgency) ∧ ∀ x ∈ back, e.kind.urgency < x.kind.urgency := by
  induction q with
  | nil => exact ⟨[], [], rfl, rfl, by simp, by simp⟩
  | cons y ys ih =>
    obtain ⟨first, rest⟩ := List.pairwise_cons.mp sorted
    by_cases lower : e.kind.urgency < y.kind.urgency
    · refine ⟨[], y :: ys, rfl, by simp [insertEntry, lower], by simp, List.forall_mem_cons.mpr ⟨lower, fun x hx => ?_⟩⟩
      rcases first x hx with h | h <;> omega
    · obtain ⟨front, back, rfl, placed, le, lt⟩ := ih rest
      refine ⟨y :: front, back, rfl, by simp [insertEntry, lower, placed], ?_, lt⟩
      exact List.forall_mem_cons.mpr ⟨Nat.le_of_not_lt lower, le⟩

/-! ## A queue in order (R132) -/

/-- At most eight entries in rising urgency and offer time, never two of one item, each offered before the clock. -/
structure QueueInOrder (queue : List TxEntry) (clock : Nat) : Prop where
  length : queue.length ≤ 8
  sorted : queue.Pairwise TxEntry.before
  distinct : queue.Pairwise fun x y => ¬(x.kind = y.kind ∧ x.subject = y.subject)
  offered : ∀ e ∈ queue, e.offerTime < clock

namespace QueueInOrder

variable {queue : List TxEntry} {clock : Nat}

/-- Entries may leave anywhere in the queue. -/
theorem sublist (h : QueueInOrder queue clock) {left : List TxEntry} (hl : left.Sublist queue) : QueueInOrder left clock :=
  ⟨hl.length_le.trans h.length, h.sorted.sublist hl, h.distinct.sublist hl, fun e he => h.offered e (hl.subset he)⟩

/-- A payload replaced in place changes nothing that the order looks at. -/
theorem refill (h : QueueInOrder queue clock) (k : Kind) (sub : Subject) (payload : List Byte) :
    QueueInOrder (queue.map (TxEntry.refill k sub payload)) clock where
  length := by simpa using h.length
  sorted := by simpa [List.pairwise_map, TxEntry.before] using h.sorted
  distinct := by simpa [List.pairwise_map] using h.distinct
  offered := by simpa using h.offered

/-- A new item, offered at the clock's count, is placed in order. -/
theorem insert (h : QueueInOrder queue clock) (room : queue.length < 8) {k : Kind} {sub : Subject}
    (new : ∀ e ∈ queue, ¬(e.kind = k ∧ e.subject = sub)) (payload : List Byte) :
    QueueInOrder (insertEntry ⟨k, sub, payload, clock⟩ queue) (clock + 1) := by
  have length : (insertEntry ⟨k, sub, payload, clock⟩ queue).length ≤ 8 := by
    rw [insertEntry_length]
    exact room
  have offered : ∀ e ∈ insertEntry ⟨k, sub, payload, clock⟩ queue, e.offerTime < clock + 1 := by
    intro e he
    rcases mem_insertEntry.mp he with rfl | he
    · exact Nat.lt_succ_self clock
    · exact Nat.lt_succ_of_lt (h.offered e he)
  obtain ⟨front, back, rfl, placed, le, lt⟩ := insertEntry_split h.sorted ⟨k, sub, payload, clock⟩
  rw [placed] at length offered ⊢
  obtain ⟨sortedFront, sortedBack, sortedAcross⟩ := List.pairwise_append.mp h.sorted
  obtain ⟨distinctFront, distinctBack, distinctAcross⟩ := List.pairwise_append.mp h.distinct
  refine ⟨length, ?_, ?_, offered⟩
  · refine List.pairwise_append.mpr ⟨sortedFront, List.pairwise_cons.mpr ⟨fun x hx => .inl (lt x hx), sortedBack⟩, ?_⟩
    refine fun x hx => List.forall_mem_cons.mpr ⟨?_, sortedAcross x hx⟩
    exact (lt_or_eq_of_le (le x hx)).imp_right fun same => ⟨same, h.offered x (List.mem_append_left _ hx)⟩
  · refine List.pairwise_append.mpr ⟨distinctFront, List.pairwise_cons.mpr ⟨fun x hx same => ?_, distinctBack⟩, ?_⟩
    · exact new x (List.mem_append_right _ hx) ⟨same.1.symm, same.2.symm⟩
    · exact fun x hx => List.forall_mem_cons.mpr ⟨new x (List.mem_append_left _ hx), distinctAcross x hx⟩

end QueueInOrder

/-- The failed attempt count is at most 32, and below while not silent; in silence no attempt is on the line (R135). -/
structure Bli.CountHolds (b : Bli) : Prop where
  count : b.failed ≤ 32
  below : b.silent.active = false → b.failed < 32
  quiet : b.attempt.isSome = true → b.silent.active = false

theorem Bli.sound_iff (b : Bli) : b.Sound ↔ QueueInOrder b.queue b.offerClock ∧ b.CountHolds :=
  ⟨fun ⟨length, sorted, distinct, offered, count, below, quiet⟩ =>
      ⟨⟨length, sorted, distinct, offered⟩, ⟨count, below, quiet⟩⟩,
    fun ⟨queue, count⟩ =>
      ⟨queue.length, queue.sorted, queue.distinct, queue.offered, count.count, count.below, count.quiet⟩⟩

/-- An offer, refused or taken, keeps the queue in order. -/
theorem Bli.Sound.offer {b : Bli} (h : b.Sound) (k : Kind) (sub : Subject) (payload : List Byte) :
    (b.offer k sub payload).1.Sound := by
  obtain ⟨queue, count⟩ := b.sound_iff.mp h
  rcases offer_cases b k sub payload with ⟨-, -, taken⟩ | ⟨new, room, -, taken⟩ | ⟨-, -, -, refused⟩
  · rw [taken, Bli.sound_iff]
    exact ⟨queue.refill k sub payload, count.count, count.below, fun on => count.quiet (by simpa using on)⟩
  · rw [taken, Bli.sound_iff]
    refine ⟨queue.insert room (fun e he => ?_) payload, count.count, count.below, count.quiet⟩
    exact TxEntry.isItem_false_iff.mp (new e he)
  · rwa [refused]

/-- Settles O15, by the three cases of an offer and the place of a new entry. -/
theorem offersAreTakenByTheQueue : Obligations.OffersAreTakenByTheQueue := by
  intro b k sub payload sound
  obtain ⟨queue, -⟩ := b.sound_iff.mp sound
  rcases offer_cases b k sub payload with
    ⟨⟨x, hx, item⟩, taken, becomes⟩ | ⟨new, room, taken, becomes⟩ | ⟨new, full, refused, same⟩
  · have there := TxEntry.isItem_iff.mp item
    refine ⟨fun _ => ⟨taken, ?_⟩, fun none => absurd there (none x hx), fun none => absurd there (none x hx)⟩
    have refilled : (b.offer k sub payload).1.queue = b.queue.map (TxEntry.refill k sub payload) := by rw [becomes]; rfl
    rw [refilled]
    refine ⟨by simp, fun e he hk hs => ?_, fun e he other => ?_, by rw [becomes]; rfl⟩
    · obtain ⟨old, -, rfl⟩ := List.mem_map.mp he
      exact TxEntry.refill_payload ⟨by simpa using hk, by simpa using hs⟩
    · obtain ⟨old, mem, rfl⟩ := List.mem_map.mp he
      rwa [TxEntry.refill_other (by simpa using other)]
  · refine ⟨fun ⟨e, he, item⟩ => absurd item (TxEntry.isItem_false_iff.mp (new e he)),
      fun _ _ => ?_, fun _ full => by omega⟩
    rw [becomes]
    exact ⟨taken, rfl, insertEntry_split queue.sorted ⟨k, sub, payload, b.offerClock⟩⟩
  · refine ⟨fun ⟨e, he, item⟩ => absurd item (TxEntry.isItem_false_iff.mp (new e he)),
      fun _ room => by omega, fun _ _ => ?_⟩
    exact Prod.ext same refused

end Sys2Proof.Machine

/-! SUPPORT. The transmit unit on its way through a command: what the ovens, the push and the car orders make of it is made by
offers alone (R133). -/

namespace Sys2Proof.Machine

open Sys2Proof

/-! ## Offers, one after another -/

/-- The second transmit unit is the first after some offers, taken or refused. -/
inductive Bli.Offers (b : Bli) : Bli → Prop
  | refl : b.Offers b
  | offer {b' : Bli} (k : Kind) (sub : Subject) (payload : List Byte) : b.Offers b' → b.Offers (b'.offer k sub payload).1

theorem Bli.Sound.offers {b b' : Bli} (h : b.Sound) (k : b.Offers b') : b'.Sound := by
  induction k with
  | refl => exact h
  | offer k sub payload _ ih => exact ih.offer k sub payload

namespace Bli.Offers

variable {b : Bli} {p q : Part}

theorem ite {a : Prop} [Decidable a] (h : b.Offers p.bli) (k : b.Offers q.bli) : b.Offers (if a then p else q).bli := by
  split
  · exact h
  · exact k

theorem withLocal {c : Configuration} {n : Nat} {f : Nat → Part} (h : b.Offers p.bli) (k : ∀ i, b.Offers (f i).bli) :
    b.Offers (withLocal c n p f).bli := by
  unfold Machine.withLocal
  split
  · exact h
  · exact k _

theorem foldl {α : Type} {f : Part → α → Part} (step : ∀ (p : Part) a, b.Offers p.bli → b.Offers (f p a).bli)
    (l : List α) (h : b.Offers p.bli) : b.Offers (l.foldl f p).bli :=
  List.foldlRecOn l f (motive := fun p => b.Offers p.bli) h fun p hp a _ => step p a hp

variable {c : Configuration} {i : Nat}

/-! ## Alarms, phases, doors and offtakes -/

theorem offerOvs (h : b.Offers p.bli) : b.Offers (p.offerOvs i).bli := by
  unfold Part.offerOvs
  split
  · exact h
  · exact .offer _ _ _ h

theorem setAlarms {set : Word16} (h : b.Offers p.bli) : b.Offers (setOvenAlarms c i set p).bli := by
  unfold setOvenAlarms
  split
  · exact h
  · exact .ite h (.offerOvs h)

theorem hold {a : OvenAlarm} {on : Bool} (h : b.Offers p.bli) : b.Offers (holdOven c i a on p).bli := by
  unfold holdOven raiseOven removeOven
  split <;> split
  · exact h
  · exact .setAlarms h
  · exact h
  · exact .setAlarms h

theorem raise {a : OvenAlarm} (h : b.Offers p.bli) : b.Offers (raiseOven c i a p).bli := .hold (on := true) h

theorem remove {a : OvenAlarm} (h : b.Offers p.bli) : b.Offers (removeOven c i a p).bli := .hold (on := false) h

theorem evalOverdue (h : b.Offers p.bli) : b.Offers (evalOverdue c i p).bli := by
  unfold Machine.evalOverdue
  split
  · exact h
  · exact .hold h

theorem holdStation {a : StationAlarm} {on : Bool} (h : b.Offers p.bli) : b.Offers (holdStation c a on p).bli := .ite h h

theorem setHold {hold : Bool} (h : b.Offers p.bli) : b.Offers (setHold i hold p).bli := by
  unfold Machine.setHold
  split
  · exact h
  · exact .ite h (.offerOvs h)

theorem cancelOnPhase {o : Oven} (h : b.Offers p.bli) : b.Offers (cancelOnPhase i o p).bli := .ite (.offer _ _ _ h) h

theorem commitDoor {side : Side} {d : Door} (h : b.Offers p.bli) : b.Offers (commitDoor c i side d p).bli := by
  unfold Machine.commitDoor
  split
  · exact h
  · exact .hold (.ite h (.offerOvs h))

theorem permitPass (h : b.Offers p.bli) : b.Offers (permitPass c i p).bli := by
  have one (side : Side) {p : Part} (h : b.Offers p.bli) : b.Offers (permitDecide c i side p).bli := by
    unfold permitDecide
    split
    · exact h
    · exact .ite h (.commitDoor h)
  exact one .c (one .p h)

theorem commitOfftake {o : Offtake} (h : b.Offers p.bli) : b.Offers (commitOfftake i o p).bli := by
  unfold Machine.commitOfftake
  split
  · exact h
  · exact .ite h (.offerOvs h)

theorem settleOfftake {o : Offtake} (h : b.Offers p.bli) : b.Offers (settleOfftake c i o p).bli :=
  .permitPass (.commitOfftake h)

theorem ocuPhaseChange {old new : Phase} (h : b.Offers p.bli) : b.Offers (ocuPhaseChange c i old new p).bli := by
  unfold Machine.ocuPhaseChange
  split
  · exact h
  · exact .settleOfftake h

theorem setPhase {new : Phase} (h : b.Offers p.bli) : b.Offers (setPhase c i new p).bli := by
  unfold Machine.setPhase
  split
  · exact h
  · exact .ite h (.ocuPhaseChange (.cancelOnPhase (.evalOverdue (.offerOvs h))))

theorem setByAge (h : b.Offers p.bli) : b.Offers (setByAge c i p).bli := by
  unfold Machine.setByAge
  split
  · exact h
  · exact .setPhase h

theorem loseOven (h : b.Offers p.bli) : b.Offers (loseOven c i p).bli := .raise (.setPhase h)

/-! ## The car orders (R96, R98, R106) -/

theorem qouOfferHead (h : b.Offers p.bli) : b.Offers (qouOfferHead p).bli := by
  unfold Machine.qouOfferHead
  split
  · exact h
  · exact .ite (.ite (.offer _ _ _ h) h) h

theorem qouAppend {kind : OrderKind} (h : b.Offers p.bli) : b.Offers (qouAppend kind p).bli :=
  .ite (.qouOfferHead h) h

theorem qouWithdraw (h : b.Offers p.bli) : b.Offers (qouWithdraw p).bli := .qouAppend h

/-! ## The push (R38 to R56) -/

theorem setContext {x : Option Context} (h : b.Offers p.bli) : b.Offers (setContext c i x p).bli :=
  .permitPass h

theorem testArmed {n : Nat} (h : b.Offers p.bli) : b.Offers (testArmed c n p).bli := by
  unfold Machine.testArmed
  split
  · exact h
  · refine .withLocal h fun i => ?_
    split
    · exact h
    · exact .ite (.setContext h) h

theorem endReturn (h : b.Offers p.bli) : b.Offers (endReturn c i p).bli := .setByAge (.setContext (.setHold h))

theorem askPi (h : b.Offers p.bli) : b.Offers (askPi c i p).bli := by
  unfold Machine.askPi
  split
  · exact h
  · have settled (o : Offtake) :
        b.Offers (Machine.settleOfftake c i o (modifyContext (fun x => { x with piRequested := true }) p)).bli :=
      .settleOfftake h
    exact .ite (.endReturn (settled _)) (settled _)

theorem askIsolate (h : b.Offers p.bli) : b.Offers (askIsolate c i p).bli := by
  unfold Machine.askIsolate
  split
  · exact h
  · exact .ite (.testArmed (.settleOfftake h)) (.settleOfftake h)

theorem returnDoorsTest (h : b.Offers p.bli) : b.Offers (returnDoorsTest c i p).bli := by
  unfold Machine.returnDoorsTest
  split
  · exact .ite (.askPi h) h
  · exact h

theorem abort {r : AbortReason} (h : b.Offers p.bli) : b.Offers (abort c r p).bli := by
  unfold Machine.abort
  split
  · exact h
  · exact .withLocal h fun _ => .returnDoorsTest (.permitPass (.qouWithdraw (.raise h)))

theorem abortIfOpen {n : Nat} {r : AbortReason} (h : b.Offers p.bli) : b.Offers (abortIfOpen c n r p).bli := by
  unfold Machine.abortIfOpen
  split
  · exact h
  · exact .ite (.abort h) h

theorem closingDoorsTest (h : b.Offers p.bli) : b.Offers (closingDoorsTest c i p).bli := by
  unfold Machine.closingDoorsTest
  split
  · exact .ite (.setContext (.setPhase h)) h
  · exact h

theorem returnToPrepare {x : Context} (h : b.Offers p.bli) : b.Offers (returnToPrepare c i x p).bli :=
  .ite (.abort (.setContext h)) (.setContext h)

theorem takeOutcome {r : Outcome} (h : b.Offers p.bli) : b.Offers (takeOutcome c r p).bli := by
  unfold Machine.takeOutcome
  split
  · exact h
  · refine .ite ?_ h
    cases r with
    | done => exact .testArmed h
    | refused => exact .ite (.abort h) h
    | timeout => exact .ite (.abort h) h

theorem orderSpot {n : Nat} (h : b.Offers p.bli) : b.Offers (orderSpot c n p).bli := .ite (.qouAppend h) (.abort h)

theorem takeWin {n : Nat} (h : b.Offers p.bli) : b.Offers (takeWin c n p).bli :=
  .withLocal h fun _ => .ite (.orderSpot (.askIsolate (.setContext (.setPhase h)))) h

theorem pushAsk {n : Nat} (h : b.Offers p.bli) : b.Offers (pushAsk c i n p).bli := by
  have refused {r : PrfReason} : b.Offers (offerPrf n r p).bli := .offer _ _ _ h
  have answered : b.Offers (answerArmed c i n p).bli := by
    unfold answerArmed
    split
    · exact refused
    · exact .ite (.offer _ _ _ h) h
  unfold Machine.pushAsk
  split
  · exact refused
  · exact .ite answered refused

theorem ramStarts {n : Nat} (h : b.Offers p.bli) : b.Offers (ramStarts c i n p).bli := by
  have outside : b.Offers (ramOutside c i n p).bli :=
    .ite (.askIsolate (.raise (.setContext (.setPhase h)))) (.loseOven h)
  have inContext (x : Context) : b.Offers (ramInContext c i x p).bli := by
    have started {u : Bool} : b.Offers (startRam c i x u p).bli := .setContext h
    unfold ramInContext
    split
    · exact .ite started (.raise started)
    · exact .raise started
    · exact .askIsolate (.raise started)
    · exact h
    · exact .raise h
  unfold Machine.ramStarts
  split
  · exact outside
  · exact .ite (inContext _) (.loseOven h)

theorem offerPdn {e : PendingPdn} (h : b.Offers p.bli) : b.Offers (offerPdn e p).bli := .ite (.offer _ _ _ h) h

theorem orderAtHome {kind : OrderKind} (h : b.Offers p.bli) : b.Offers (orderAtHome c kind p).bli := .ite (.qouAppend h) h

theorem ramHome {x : Context} {stroke : Nat} (h : b.Offers p.bli) : b.Offers (ramHome c i x stroke p).bli :=
  .closingDoorsTest (.setContext (.orderAtHome (.orderAtHome (.offerPdn h))))

theorem prepareLimit (h : b.Offers p.bli) : b.Offers (prepareLimit c p).bli := by
  unfold Machine.prepareLimit
  split
  · exact h
  · exact .ite (.ite (.abort h) h) h

theorem armedLimit (h : b.Offers p.bli) : b.Offers (armedLimit c p).bli := by
  unfold Machine.armedLimit
  split
  · exact h
  · exact .ite (.abort h) h

theorem rmhLimit (h : b.Offers p.bli) : b.Offers (rmhLimit c p).bli := by
  unfold Machine.rmhLimit
  split
  · exact h
  · exact .ite (.withLocal h fun _ => .raise h) h

theorem doorLimit (h : b.Offers p.bli) : b.Offers (doorLimit c p).bli := by
  unfold Machine.doorLimit
  split
  · exact h
  · exact .ite (.withLocal h fun _ => .raise h) h

theorem panelAbort {n : Nat} (h : b.Offers p.bli) : b.Offers (panelAbort c n p).bli := by
  unfold Machine.panelAbort
  split
  · exact h
  · exact .ite (.abortIfOpen h) h

/-! ## Reports and door changes told (R13 to R16, R40 to R55) -/

theorem chargeBegins (h : b.Offers p.bli) : b.Offers (chargeBegins c i p).bli := by
  unfold Machine.chargeBegins
  split
  · exact h
  · have charging : b.Offers (Machine.setPhase c i .charging (p.modifyOven i fun o => { o with inFlight := false })).bli :=
      .setPhase h
    exact .ite (.ite (.offer _ _ _ charging) charging) h

/-- A charge start cancelled with its request for ISOLATE. -/
theorem chargeCancelled {n : Nat} {r : ChrReason} (h : b.Offers p.bli) : b.Offers (chargeCancelled c i n r p).bli :=
  .askIsolate (.offer _ _ _ h)

theorem chargeFails (h : b.Offers p.bli) : b.Offers (chargeFails c i p).bli := by
  unfold Machine.chargeFails
  split
  · exact h
  · exact .ite (.chargeCancelled h) h

theorem returnAnswered {n : Nat} (h : b.Offers p.bli) : b.Offers (returnAnswered c i n p).bli := by
  unfold Machine.returnAnswered
  split
  · exact h
  · exact .ite (.endReturn h) h

theorem tellReport {n : Nat} {r : Report} (h : b.Offers p.bli) : b.Offers (tellReport c i n r p).bli := by
  cases r with
  | aspirateReached => exact .chargeBegins h
  | aspirateFailed => exact .chargeFails h
  | isolateReached => exact .testArmed h
  | isolateFailed => exact .abortIfOpen h
  | piEntered => exact .returnAnswered h
  | returnFailed => exact .returnAnswered h

theorem tellOfftake {new : Offtake} {alarm : Option OvenAlarm} (h : b.Offers p.bli) :
    b.Offers (tellOfftake c i new alarm p).bli := by
  have stored : b.Offers (Machine.commitOfftake i new p).bli := .commitOfftake h
  unfold Machine.tellOfftake
  split
  · exact h
  · refine .permitPass ?_
    cases alarm
    · dsimp only
      split
      · exact stored
      · exact .tellReport stored
    · dsimp only
      split
      · exact .raise stored
      · exact .tellReport (.raise stored)

theorem cancelOnDoor {new : DoorState} (h : b.Offers p.bli) : b.Offers (cancelOnDoor c i new p).bli := by
  unfold Machine.cancelOnDoor
  split
  · exact h
  · exact .ite (.chargeCancelled h) h

theorem psqDoorChange {old new : DoorState} {x : Context} (h : b.Offers p.bli) :
    b.Offers (psqDoorChange c i old new x p).bli := by
  unfold Machine.psqDoorChange
  split
  · exact .ite (.abort h) (.testArmed h)
  · exact .ite (.abort h) (.ite (.returnToPrepare h) h)
  · exact h
  · exact .closingDoorsTest h
  · exact .ite (.askIsolate h) (.returnDoorsTest h)

theorem tellDoor {old new : DoorState} (h : b.Offers p.bli) : b.Offers (tellDoor c i old new p).bli := by
  have cancelled : b.Offers (Machine.cancelOnDoor c i new p).bli := .cancelOnDoor h
  unfold Machine.tellDoor
  split
  · exact h
  · split
    · exact h
    · dsimp only
      split
      · exact cancelled
      · exact .ite (.psqDoorChange cancelled) cancelled

theorem changeDoor {side : Side} {d : Door} (h : b.Offers p.bli) : b.Offers (changeDoor c i side d p).bli := by
  unfold Machine.changeDoor
  split
  · exact h
  · exact .tellDoor (.foldl (fun _ _ => .raise) _ (.commitDoor h))

end Bli.Offers

end Sys2Proof.Machine

/-! SUPPORT. The commands of the ovens, the bids, the car, the scan and the switches make offers alone. -/

namespace Sys2Proof.Machine

open Sys2Proof

namespace Bli.Offers

variable {b : Bli} {c : Configuration} {i : Nat} {p : Part}

/-! ## Switches and timers (R60 to R68, R74, R85 to R91) -/

theorem deliver {input : SwitchInput} {level : Bool} (h : b.Offers p.bli) : b.Offers (deliver c i input level p).bli := by
  unfold Machine.deliver
  split
  · unfold offtakeSwitch
    split
    · exact h
    · exact .ite (.tellOfftake h) (.tellOfftake h)
  · unfold doorSwitch
    split
    · exact h
    · dsimp only
      split
      · exact .changeDoor h
      · exact .changeDoor h
      · exact .changeDoor h
      · exact h

theorem debounce {input : SwitchInput} (h : b.Offers p.bli) : b.Offers (debounce i input p).bli := by
  unfold Machine.debounce
  split
  · exact h
  · refine .ite ?_ h
    dsimp only
    split
    · exact .deliver h
    · exact h

theorem leakExpires {side : Side} (h : b.Offers p.bli) : b.Offers (leakExpires c side i p).bli := by
  unfold Machine.leakExpires
  split
  · exact h
  · exact .ite (.changeDoor h) h

theorem clearExpires {side : Side} (h : b.Offers p.bli) : b.Offers (clearExpires c side i p).bli := by
  unfold Machine.clearExpires
  split
  · exact h
  · exact .ite (.changeDoor h) h

theorem leakingSpellExpires {side : Side} (h : b.Offers p.bli) : b.Offers (leakingSpellExpires c side i p).bli := by
  unfold Machine.leakingSpellExpires
  split
  · exact h
  · exact .ite (.commitDoor h) h

theorem sealedSpellExpires {side : Side} (h : b.Offers p.bli) : b.Offers (sealedSpellExpires c side i p).bli := by
  unfold Machine.sealedSpellExpires
  split
  · exact h
  · exact .ite (.commitDoor h) h

theorem valveTimerExpires (h : b.Offers p.bli) : b.Offers (valveTimerExpires c i p).bli := by
  unfold Machine.valveTimerExpires
  split
  · exact h
  · exact .ite (.tellOfftake h) h

theorem capTimerExpires (h : b.Offers p.bli) : b.Offers (capTimerExpires c i p).bli := by
  unfold Machine.capTimerExpires
  split
  · exact h
  · exact .ite (.tellOfftake h) h

theorem highTimerExpires (h : b.Offers p.bli) : b.Offers (highTimerExpires c i p).bli := by
  unfold Machine.highTimerExpires
  split
  · exact h
  · exact .ite (.raise (.commitOfftake h)) h

theorem aspirateHoldExpires (h : b.Offers p.bli) : b.Offers (aspirateHoldExpires c i p).bli := by
  unfold Machine.aspirateHoldExpires
  split
  · exact h
  · exact .ite (.settleOfftake h) h

/-! ## Samples and the scan (R72 to R92, R125 to R128, R142) -/

theorem countSample {x : Int} (h : b.Offers p.bli) : b.Offers (countSample c i x p).bli := by
  unfold Machine.countSample
  split
  · exact h
  · exact .ite (.remove (.commitOfftake h)) (.commitOfftake h)

theorem timeSample {x : Int} (h : b.Offers p.bli) : b.Offers (timeSample c i x p).bli := by
  unfold Machine.timeSample
  split
  · exact h
  · exact .ite (.remove (.commitOfftake h)) (.commitOfftake h)

theorem controlSample {x : Int} (h : b.Offers p.bli) : b.Offers (controlSample c i x p).bli := by
  unfold Machine.controlSample
  split
  · exact h
  · exact .ite (.commitOfftake h) (.ite (.commitOfftake h) h)

theorem validSample {code : Nat} (h : b.Offers p.bli) : b.Offers (validSample c i code p).bli :=
  .permitPass (.controlSample (.timeSample (.countSample h)))

theorem invalidSample (h : b.Offers p.bli) : b.Offers (invalidSample c i p).bli := by
  refine .permitPass ?_
  unfold countInvalidSample
  split
  · exact h
  · have alarmed {o : Offtake} : b.Offers (raiseOven c i .pressureSensor (Machine.commitOfftake i o p)).bli :=
      .raise (.commitOfftake h)
    exact .ite (.ite (.commitOfftake alarmed) alarmed) (.commitOfftake h)

theorem endScan {early : Bool} (h : b.Offers p.bli) : b.Offers (endScan c early p).bli := .ite (.ite h h) (.ite h h)

theorem nextPlace (h : b.Offers p.bli) : b.Offers (nextPlace c p).bli := .ite h (.endScan h)

theorem transactionDone {code : Nat} (h : b.Offers p.bli) : b.Offers (transactionDone c code p).bli :=
  .ite (.nextPlace (.ite (.validSample h) (.invalidSample h))) h

theorem channelNack (h : b.Offers p.bli) : b.Offers (channelNack c p).bli := .ite (.nextPlace (.invalidSample h)) h

theorem failRest (h : b.Offers p.bli) : b.Offers (failRest c p).bli := .foldl (fun _ _ => .invalidSample) _ h

theorem addressFails (h : b.Offers p.bli) : b.Offers (addressFails c p).bli :=
  .ite (.endScan (.failRest h)) h

theorem clockFails (h : b.Offers p.bli) : b.Offers (clockFails c p).bli := .ite (.endScan (.failRest h)) h

theorem startScan (h : b.Offers p.bli) : b.Offers (startScan c p).bli := .ite h h

theorem roundRobinOvs (h : b.Offers p.bli) : b.Offers (roundRobinOvs c p).bli := .offerOvs h

/-! ## The oven commands (R2 to R18) -/

theorem minute (h : b.Offers p.bli) : b.Offers (minute p).bli := by
  have one (c : Configuration) (p : Part) (i : Nat) (h : b.Offers p.bli) : b.Offers (minuteAt c p i).bli := by
    unfold minuteAt
    split
    · exact h
    · exact .evalOverdue (.ite (.setPhase h) h)
  unfold Machine.minute
  split
  · exact h
  · exact .foldl (one _) _ h

theorem takeOut (h : b.Offers p.bli) : b.Offers (takeOut c i p).bli := .askIsolate (.setHold (.setPhase h))

theorem panelOut (h : b.Offers p.bli) : b.Offers (panelOut c i p).bli := by
  unfold Machine.panelOut
  split
  · exact .takeOut h
  · exact .takeOut h
  · exact h

theorem panelIn (h : b.Offers p.bli) : b.Offers (panelIn c i p).bli := .ite (.setPhase h) h

theorem panelTarget {value : Word16} (h : b.Offers p.bli) : b.Offers (panelTarget value c i p).bli := by
  unfold Machine.panelTarget
  split
  · exact h
  · exact .evalOverdue (.ite (.setByAge h) h)

theorem panelDeclare {value : Word16} {phase : Byte} (h : b.Offers p.bli) : b.Offers (panelDeclare value phase c i p).bli := by
  refine .ite ?_ h
  split
  · exact .evalOverdue (.setByAge h)
  · exact .takeOut h
  · exact h

theorem panelClear {n : Nat} (h : b.Offers p.bli) : b.Offers (panelClear c n p).bli := by
  refine .ite h (.withLocal h fun i => ?_)
  unfold clearOvenAlarms
  split
  · exact h
  · exact .setAlarms h

theorem chargeAsk (h : b.Offers p.bli) : b.Offers (chargeAsk c i p).bli := by
  have aspirate {p : Part} (h : b.Offers p.bli) : b.Offers (askAspirate c i p).bli := by
    unfold askAspirate
    split
    · exact h
    · exact .tellOfftake h
  unfold Machine.chargeAsk
  split
  · exact h
  · exact .ite (.offer _ _ _ h) (.ite (.offer _ _ _ h) (.ite (.offer _ _ _ h) (aspirate h)))

theorem chargeEnd (h : b.Offers p.bli) : b.Offers (chargeEnd c i p).bli := .ite (.setPhase h) h

theorem chargeLimit (h : b.Offers p.bli) : b.Offers (chargeLimit c i p).bli := by
  unfold Machine.chargeLimit
  split
  · exact h
  · exact .ite (.raise h) h

/-! ## The bid round and the car orders (R26 to R36, R100 to R105) -/

theorem startRound {key : BidKey} (h : b.Offers p.bli) : b.Offers (startRound key p).bli := .ite (.offer _ _ _ h) h

theorem evaluateRound (h : b.Offers p.bli) : b.Offers (evaluateRound c p).bli := by
  refine .ite ?_ h
  split
  · exact h
  · exact .startRound h

theorem takeBid {r : Rival} (h : b.Offers p.bli) : b.Offers (takeBid c r p).bli := by
  have answered : b.Offers (answerRival c r p).bli := by
    refine .ite ?_ h
    split
    · exact h
    · exact .ite (.startRound h) h
  refine .ite h (.ite h ?_)
  split
  · exact answered
  · exact h
  · exact h

theorem decideRound (h : b.Offers p.bli) : b.Offers (decideRound c p).bli := by
  unfold Machine.decideRound
  split
  · exact .ite (.ite (.takeWin h) h) h
  · exact h

theorem headLeaves {head : Order} {left : List Order} {r : Outcome} (h : b.Offers p.bli) :
    b.Offers (headLeaves c head left r p).bli :=
  .qouOfferHead (.ite (.takeOutcome h) h)

theorem carReply {id verdict : Nat} (h : b.Offers p.bli) : b.Offers (carReply c id verdict p).bli := by
  unfold Machine.carReply
  split
  · next v _ _ =>
    refine .ite (.ite ?_ h) h
    cases v with
    | accept => exact .ite h h
    | done => exact .headLeaves h
    | refuse => exact .headLeaves h
  · exact h

theorem deadline (h : b.Offers p.bli) : b.Offers (deadline c p).bli := by
  unfold Machine.deadline
  split
  · exact h
  · exact .ite (.ite (.takeOutcome (.ite h h)) (.ite h h)) h

/-! ## The outputs, the views and the periods (R110 to R124, R143) -/

theorem compareMatch (h : b.Offers p.bli) : b.Offers (compareMatch i p).bli := by
  unfold Machine.compareMatch
  split
  · exact h
  · exact .ite h h

theorem millisecond {pins : Pins} (h : b.Offers p.bli) : b.Offers (millisecond pins p).bli := by
  unfold Machine.millisecond
  split
  · exact h
  · exact h

theorem takeMst {station : Nat} {position activity load aligned owner : Byte} (h : b.Offers p.bli) :
    b.Offers (takeMst c station position activity load aligned owner p).bli := by
  refine .ite ?_ (.ite ?_ (.ite ?_ h))
  all_goals
    split
    · exact h
    · exact h

theorem takeOvs {n : Nat} {phase : Phase} {age : Nat} (h : b.Offers p.bli) : b.Offers (takeOvs c n phase age p).bli :=
  .ite h (.ite h (.ite h h))

theorem takePdn {n : Nat} (h : b.Offers p.bli) : b.Offers (takePdn c n p).bli := .ite h h

theorem takeScs {station stage : Nat} (h : b.Offers p.bli) : b.Offers (takeScs station stage p).bli :=
  .ite h (.ite h (.ite h (.ite h h)))

theorem scsPeriod (h : b.Offers p.bli) : b.Offers (scsPeriod c p).bli := .ite (.offer _ _ _ h) h

/-! ## A removal told (R134, step 4) -/

theorem tellRemoval (h : b.Offers p.bli) : b.Offers (tellRemoval p).bli := by
  have chp (p : Part) (i : Nat) (h : b.Offers p.bli) : b.Offers (reofferChp p i).bli := by
    unfold reofferChp
    split
    · exact h
    · exact .ite (.ite (.offer _ _ _ h) h) h
  have pdn (p : Part) (e : PendingPdn) (h : b.Offers p.bli) : b.Offers (reofferPdn p e).bli := .ite (.offer _ _ _ h) h
  exact .foldl pdn _ (.foldl chp _ (.qouOfferHead h))

end Bli.Offers

end Sys2Proof.Machine

/-! SUPPORT. What every command makes of the transmit unit: offers alone, an attempt begun or ended, silence, or the start value;
each keeps it sound (R131 to R135, R138). -/

namespace Sys2Proof.Machine

open Sys2Proof

/-! ## Attempts, verdicts and silence keep the unit sound (R131, R134, R135) -/

namespace Bli.Sound

variable {b : Bli} (h : b.Sound)
include h

/-- Entries may leave anywhere in the queue. -/
theorem sublist {left : List TxEntry} (hl : left.Sublist b.queue) : ({ b with queue := left } : Bli).Sound := by
  obtain ⟨queue, count⟩ := b.sound_iff.mp h
  exact (Bli.sound_iff _).mpr ⟨queue.sublist hl, count.count, count.below, count.quiet⟩

/-- Outside silence an attempt may begin. -/
theorem begin (loud : b.silent.active = false) (a : Attempt) : ({ b with attempt := some a } : Bli).Sound := by
  obtain ⟨queue, count⟩ := b.sound_iff.mp h
  exact (Bli.sound_iff _).mpr ⟨queue, count.count, count.below, fun _ => loud⟩

theorem endAttempt : b.endAttempt.Sound := by
  obtain ⟨queue, count⟩ := b.sound_iff.mp h
  exact (Bli.sound_iff _).mpr ⟨queue, count.count, count.below, nofun⟩

/-- A count below 32, its attempt over. -/
theorem counted {n : Nat} (hn : n < 32) : ({ b with attempt := none, failed := n } : Bli).Sound := by
  obtain ⟨queue, -⟩ := b.sound_iff.mp h
  exact (Bli.sound_iff _).mpr ⟨queue, hn.le, fun _ => hn, nofun⟩

/-- A count of at most 32 with silence begun, its attempt over. -/
theorem silenced {n : Nat} (hn : n ≤ 32) (toward : Nat) :
    ({ b with attempt := none, failed := n, silent := .running toward } : Bli).Sound := by
  obtain ⟨queue, -⟩ := b.sound_iff.mp h
  exact (Bli.sound_iff _).mpr ⟨queue, hn, nofun, nofun⟩

/-- The end of silence, in which no attempt was on the line. -/
theorem silenceEnds : ({ b with silent := .stopped, failed := 0 } : Bli).Sound := by
  obtain ⟨queue, -⟩ := b.sound_iff.mp h
  exact (Bli.sound_iff _).mpr ⟨queue, Nat.zero_le _, fun _ => Nat.zero_lt_succ _, fun _ => rfl⟩

/-- While an attempt is on the line the count is below 32. -/
theorem failed_lt {a : Attempt} (ha : b.attempt = some a) : b.failed < 32 := by
  obtain ⟨-, count⟩ := b.sound_iff.mp h
  exact count.below (count.quiet (by simp [ha]))

end Bli.Sound

section
variable (c : Configuration) {p : Part} (h : p.bli.Sound)
include h

theorem beginAttempt_sound : (beginAttempt c p).bli.Sound := by
  unfold beginAttempt
  split
  · split
    · exact h
    · next loud => exact h.begin (Bool.not_eq_true _ ▸ loud) _
  · exact h

theorem loseContention_sound (urgency station : Nat) : (loseContention c urgency station p).bli.Sound := by
  unfold loseContention
  split
  · exact h
  · split
    · exact h.endAttempt
    · exact h

theorem tellRemoval_sound : (tellRemoval p).bli.Sound := h.offers (.tellRemoval .refl)

/-- A clean echo ends the attempt, begins the count afresh and drops the entry, unless it was replaced; what follows is offers. -/
theorem succeed_sound : (succeed c p).bli.Sound := by
  cases ha : p.bli.attempt with
  | none => simpa [succeed, ha] using h
  | some a =>
    let told := heardBack c a.kind a.subject (Claims.heard c a p)
    have heard : told.bli.Sound := by
      rw [(heardBack_frame c a.kind a.subject _).bli]
      refine (h.counted (Nat.zero_lt_succ _)).sublist ?_
      split
      · exact List.Sublist.refl _
      · exact List.filter_sublist
    have removed : (if a.replaced then told else tellRemoval told).bli.Sound := by
      split
      · exact heard
      · exact tellRemoval_sound heard
    obtain ⟨lvt, routed⟩ := routeEcho_frame c a.kind a.subject (if a.replaced then told else tellRemoval told)
    rw [succeed_eq ha, routed]
    exact removed

/-- A failed attempt counts; the 32nd brings silence, drops the reports, and what follows is offers. -/
theorem fail_sound : (fail c p).bli.Sound := by
  cases ha : p.bli.attempt with
  | none => simpa [fail, ha] using h
  | some a =>
    have below : p.bli.failed < 32 := h.failed_lt ha
    simp only [fail, ha]
    split
    · let dropped := p.bli.queue.filter fun e => !e.isReport
      have silent : ({ p.bli with
          queue := dropped, attempt := none, failed := p.bli.failed + 1, silent := .running silentMs } : Bli).Sound :=
        (h.silenced below silentMs).sublist List.filter_sublist
      exact silent.offers (.foldl (fun _ _ => .tellRemoval) _ .refl)
    · next few => exact h.counted (Nat.lt_of_not_le few)

end

/-! ## What every command makes of the transmit unit -/

/-- The commands that are about the attempt on the line, or about silence. -/
def onTheLine : Instr → Bool
  | .lineIdleAttempt => true
  | .lostContention _ _ => true
  | .attemptSucceeded => true
  | .attemptFailed => true
  | .silentExpiry => true
  | _ => false

/-- The answer is a next state, whose transmit unit is that of `s` after some offers. -/
def State.AnswerOffers (s : State) (r : Host.Outcome State Fault Refusal) : Prop :=
  ∃ q, r = .next { s with part := q } ∧ s.part.bli.Offers q.bli

section
variable {s : State}

theorem State.update_offers {f : Part → Part} (h : s.part.bli.Offers (f s.part).bli) : s.AnswerOffers (s.update f) :=
  ⟨_, rfl, h⟩

theorem State.whenLoaded_offers {f : Configuration → Part → Part} (h : ∀ c, s.part.bli.Offers (f c s.part).bli) :
    s.AnswerOffers (s.whenLoaded f) := by
  refine State.update_offers ?_
  cases s.part.config with
  | none => exact .refl
  | some c => exact h c

theorem panelAt_offers {h : Header} {oven : Byte} {f : Configuration → Nat → Part → Part}
    (hf : ∀ c i, s.part.bli.Offers (f c i s.part).bli) : s.AnswerOffers (panelAt h oven f s) :=
  State.whenLoaded_offers fun c => .ite (.withLocal .refl fun i => hf c i) .refl

/-- The expiry of a timer of one oven. -/
theorem ovenTimer_offers {oven : Nat} {f : Configuration → Nat → Part → Part}
    (hf : ∀ c i, s.part.bli.Offers (f c i s.part).bli) :
    s.AnswerOffers (s.whenLoaded fun c p => withLocal c oven p fun i => f c i p) :=
  State.whenLoaded_offers fun c => .withLocal .refl fun i => hf c i

end

/-- Every command but those on the line and those that stop or start the part makes offers alone. -/
theorem exec_offers (i : Instr) (s : State) (hl : onTheLine i = false) (hs : Claims.startsOrStops i = false) :
    s.AnswerOffers (exec i s) := by
  cases i with
  | lineIdleAttempt | lostContention | attemptSucceeded | attemptFailed | silentExpiry => cases hl
  | configLoadComplete | resetAsserted | resetReleased | mainSupplyApplied | mainSupplyLost => cases hs
  | minuteExpiry => exact State.update_offers (.minute .refl)
  | pnlHold h oven => exact panelAt_offers fun _ _ => .setHold .refl
  | pnlRelease h oven => exact panelAt_offers fun _ _ => .setHold .refl
  | pnlOut h oven => exact panelAt_offers fun _ _ => .panelOut .refl
  | pnlIn h oven => exact panelAt_offers fun _ _ => .panelIn .refl
  | pnlTarget h oven value => exact panelAt_offers fun _ _ => .panelTarget .refl
  | pnlDeclare h oven value phase => exact panelAt_offers fun _ _ => .panelDeclare .refl
  | pnlAbort h oven => exact State.whenLoaded_offers fun _ => .ite (.panelAbort .refl) .refl
  | pnlClear h oven => exact State.whenLoaded_offers fun _ => .ite (.panelClear .refl) .refl
  | cha h oven => exact State.whenLoaded_offers fun _ => .ite (.withLocal .refl fun _ => .chargeAsk .refl) .refl
  | che h oven => exact State.whenLoaded_offers fun _ => .ite (.withLocal .refl fun _ => .chargeEnd .refl) .refl
  | chargeLimitExpiry oven => exact ovenTimer_offers fun _ _ => .chargeLimit .refl
  | evaluationExpiry low =>
    unfold exec execEvaluationExpiry
    exact State.whenLoaded_offers fun _ => .holdStation (.evaluateRound .refl)
  | bid h oven lateness => exact State.whenLoaded_offers fun _ => .ite (.takeBid .refl) .refl
  | windowExpiry => exact State.whenLoaded_offers fun _ => .decideRound .refl
  | holdOffExpiry =>
    unfold exec execHoldOffExpiry
    exact State.whenLoaded_offers fun _ => .refl
  | deferralExpiry => exact State.whenLoaded_offers fun _ => .ite .refl .refl
  | pas h oven => exact State.whenLoaded_offers fun _ => .ite (.withLocal .refl fun _ => .pushAsk .refl) .refl
  | rms h oven => exact State.whenLoaded_offers fun _ => .ite (.withLocal .refl fun _ => .ramStarts .refl) .refl
  | rmh h oven stroke =>
    refine State.whenLoaded_offers fun _ => .ite ?_ .refl
    split
    · exact .refl
    · exact .ite (.withLocal .refl fun _ => .ramHome .refl) .refl
  | prepareLimitExpiry => exact State.whenLoaded_offers fun _ => .prepareLimit .refl
  | armedLimitExpiry => exact State.whenLoaded_offers fun _ => .armedLimit .refl
  | permitTimerExpiry => exact State.whenLoaded_offers fun _ => .refl
  | rmhLimitExpiry => exact State.whenLoaded_offers fun _ => .rmhLimit .refl
  | doorLimitExpiry => exact State.whenLoaded_offers fun _ => .doorLimit .refl
  | debounceExpiry place input =>
    unfold exec execDebounceExpiry
    exact State.update_offers (.ite .refl (.debounce .refl))
  | leakTimerExpiry oven side => exact ovenTimer_offers fun _ _ => .leakExpires .refl
  | clearTimerExpiry oven side => exact ovenTimer_offers fun _ _ => .clearExpires .refl
  | leakingSpellExpiry oven side => exact ovenTimer_offers fun _ _ => .leakingSpellExpires .refl
  | sealedSpellExpiry oven side => exact ovenTimer_offers fun _ _ => .sealedSpellExpires .refl
  | valveMotionTimerExpiry oven => exact ovenTimer_offers fun _ _ => .valveTimerExpires .refl
  | capMotionTimerExpiry oven => exact ovenTimer_offers fun _ _ => .capTimerExpires .refl
  | pressureHighTimerExpiry oven => exact ovenTimer_offers fun _ _ => .highTimerExpires .refl
  | aspirateHoldExpiry oven => exact ovenTimer_offers fun _ _ => .aspirateHoldExpires .refl
  | quarterSecondExpiry =>
    unfold exec execQuarterSecondExpiry
    exact State.whenLoaded_offers fun _ => .roundRobinOvs (.startScan .refl)
  | transactionComplete first second => exact State.whenLoaded_offers fun _ => .transactionDone .refl
  | channelByteNack => exact State.whenLoaded_offers fun _ => .channelNack .refl
  | addressNack => exact State.whenLoaded_offers fun _ => .addressFails .refl
  | clockHoldTimeout => exact State.whenLoaded_offers fun _ => .clockFails .refl
  | pwmPeriodEnd => exact State.update_offers .refl
  | qcr h id verdict reason => exact State.whenLoaded_offers fun _ => .ite (.carReply .refl) .refl
  | deadlineExpiry => exact State.whenLoaded_offers fun _ => .deadline .refl
  | mst h position activity load aligned owner => exact State.whenLoaded_offers fun _ => .ite (.takeMst .refl) .refl
  | machineViewFreshnessExpiry view =>
    unfold exec execMachineViewFreshnessExpiry
    exact State.whenLoaded_offers fun _ => .refl
  | ovs h oven stateWord lateness doors offtake pressure alarms =>
    refine State.whenLoaded_offers fun _ => .ite ?_ .refl
    split
    · exact .refl
    · exact .takeOvs .refl
  | neighbourViewFreshnessExpiry view =>
    unfold exec execNeighbourViewFreshnessExpiry
    exact State.whenLoaded_offers fun _ => .refl
  | pdn h oven stroke unpermitted => exact State.whenLoaded_offers fun _ => .ite (.takePdn .refl) .refl
  | scs h stage oven reason anchor count head alarms => exact State.whenLoaded_offers fun _ => .ite (.takeScs .refl) .refl
  | refreshTimerExpiry station =>
    unfold exec execRefreshTimerExpiry
    exact State.whenLoaded_offers fun _ => .refl
  | settleTimerExpiry => exact State.whenLoaded_offers fun _ => .ite .refl .refl
  | scsPeriodExpiry => exact State.whenLoaded_offers fun _ => .scsPeriod .refl
  | configLoadClockTimeout => exact State.update_offers (.ite .refl .refl)
  | configRetryExpiry => exact State.update_offers (.ite .refl .refl)
  | backupSupplyLost => exact State.update_offers (.ite .refl .refl)
  | millisecondExpiry pins => exact State.update_offers (.millisecond .refl)
  | pwmCompareMatch place =>
    unfold exec execPwmCompareMatch
    exact State.update_offers (.ite .refl (.compareMatch .refl))

/-! ## Every command keeps it sound -/

/-- The answer is a next state, whose transmit unit is sound if that of `s` is. -/
def State.AnswerKeepsQueue (s : State) (r : Host.Outcome State Fault Refusal) : Prop :=
  ∃ q, r = .next { s with part := q } ∧ (s.part.bli.Sound → q.bli.Sound)

section
variable {s : State}

theorem State.AnswerOffers.keepsQueue {r : Host.Outcome State Fault Refusal} (h : s.AnswerOffers r) : s.AnswerKeepsQueue r := by
  obtain ⟨q, runs, offers⟩ := h
  exact ⟨q, runs, fun sound => sound.offers offers⟩

theorem State.whenLoaded_keepsQueue {f : Configuration → Part → Part}
    (h : ∀ c, s.part.bli.Sound → (f c s.part).bli.Sound) : s.AnswerKeepsQueue (s.whenLoaded f) := by
  refine ⟨_, rfl, ?_⟩
  dsimp only
  cases s.part.config with
  | none => exact id
  | some c => exact h c

/-- A part that stops or starts has the transmit unit it had, or its start value (R138, R149). -/
theorem startsOrStops_keepsQueue {f : Part → Part} (h : (f s.part).bli = s.part.bli ∨ (f s.part).bli = .start) :
    s.AnswerKeepsQueue (s.update f) := by
  refine ⟨_, rfl, fun sound => ?_⟩
  rcases h with same | start
  · exact same ▸ sound
  · exact start ▸ Bli.start_sound

end

theorem silentExpiry_sound {p : Part} (h : p.bli.Sound) :
    (if p.bli.silent.active then { p with bli := { p.bli with silent := .stopped, failed := 0 } } else p).bli.Sound := by
  split
  · exact h.silenceEnds
  · exact h

section
variable (p : Part)

theorem loadDone_bli (acked : Bool) (block : List Byte) (low : Bool) :
    (loadDone acked block low p).bli = p.bli ∨ (loadDone acked block low p).bli = .start := by
  unfold loadDone
  split
  · split
    · exact .inl rfl
    · exact .inr rfl
  · exact .inl rfl

theorem assertReset_bli : (assertReset p).bli = p.bli ∨ (assertReset p).bli = .start := by
  unfold assertReset
  split
  · exact .inl rfl
  · split
    · exact .inr rfl
    · exact .inl rfl

theorem releaseReset_bli : (releaseReset p).bli = p.bli ∨ (releaseReset p).bli = .start := by
  unfold releaseReset
  split
  · split
    · exact .inr rfl
    · exact .inl rfl
  · exact .inl rfl

theorem applyMain_bli : (applyMain p).bli = p.bli ∨ (applyMain p).bli = .start := by
  unfold applyMain
  split
  · exact .inl rfl
  · split
    · exact .inr rfl
    · exact .inr rfl

theorem loseMain_bli : (loseMain p).bli = p.bli ∨ (loseMain p).bli = .start := by
  unfold loseMain
  split
  · dsimp only
    split
    · exact .inr rfl
    · exact .inr rfl
  · exact .inl rfl

end

/-- Every command keeps the transmit unit sound. -/
theorem exec_keepsQueue (i : Instr) (s : State) : s.AnswerKeepsQueue (exec i s) := by
  cases hl : onTheLine i with
  | true =>
    cases i with
    | lineIdleAttempt => exact State.whenLoaded_keepsQueue fun c => beginAttempt_sound c
    | lostContention urgency station => exact State.whenLoaded_keepsQueue fun c h => loseContention_sound c h _ _
    | attemptSucceeded => exact State.whenLoaded_keepsQueue fun c => succeed_sound c
    | attemptFailed => exact State.whenLoaded_keepsQueue fun c => fail_sound c
    | silentExpiry => exact State.whenLoaded_keepsQueue fun _ => silentExpiry_sound
    | _ => cases hl
  | false =>
    cases hs : Claims.startsOrStops i with
    | true =>
      cases i with
      | configLoadComplete acked block low => exact startsOrStops_keepsQueue (loadDone_bli _ acked block low)
      | resetAsserted => exact startsOrStops_keepsQueue (assertReset_bli _)
      | resetReleased => exact startsOrStops_keepsQueue (releaseReset_bli _)
      | mainSupplyApplied => exact startsOrStops_keepsQueue (applyMain_bli _)
      | mainSupplyLost => exact startsOrStops_keepsQueue (loseMain_bli _)
      | _ => cases hs
    | false => exact (exec_offers i s hl hs).keepsQueue

/-- Settles O4: what a command makes of the transmit unit is sound if the unit was. -/
theorem queueStaysOrdered : Obligations.QueueStaysOrdered := by
  intro s t sound next
  unfold step at next
  split at next
  · cases next
    exact sound
  · next i rest _ =>
    obtain ⟨q, runs, keeps⟩ := exec_keepsQueue i { s with pending := rest }
    cases runs.symm.trans next
    exact keeps sound

end Sys2Proof.Machine

/-! SUPPORT. Which commands an unloaded part takes, and which telegrams a loaded one (R136, R138, R148). -/

namespace Sys2Proof.Machine

open Sys2Proof

/-! ## Commands that need the configuration (R138, R148) -/

/-- Every command but time, pins, the load, the supplies and the reset line has a meaning on a loaded part alone. -/
theorem exec_unloaded {i : Instr} {s : State} (unloaded : s.part.config = none) (h : Claims.reachesUnloaded i = false) :
    s.Ignores i := by
  cases i with
  | minuteExpiry | debounceExpiry | millisecondExpiry | pwmPeriodEnd | pwmCompareMatch => cases h
  | configLoadComplete | configLoadClockTimeout | configRetryExpiry => cases h
  | resetAsserted | resetReleased | mainSupplyApplied | mainSupplyLost | backupSupplyLost => cases h
  | chargeLimitExpiry | leakTimerExpiry | clearTimerExpiry | leakingSpellExpiry | sealedSpellExpiry =>
    simp only [State.Ignores, exec, execChargeLimitExpiry, execLeakTimerExpiry, execClearTimerExpiry, execLeakingSpellExpiry,
      execSealedSpellExpiry, State.whenLoaded_none unloaded]
  | valveMotionTimerExpiry | capMotionTimerExpiry | pressureHighTimerExpiry | aspirateHoldExpiry =>
    simp only [State.Ignores, exec, execValveMotionTimerExpiry, execCapMotionTimerExpiry, execPressureHighTimerExpiry,
      execAspirateHoldExpiry, State.whenLoaded_none unloaded]
  | evaluationExpiry | holdOffExpiry | quarterSecondExpiry =>
    simp only [State.Ignores, exec, execEvaluationExpiry, execHoldOffExpiry, execQuarterSecondExpiry,
      State.whenLoaded_none unloaded]
  | machineViewFreshnessExpiry | neighbourViewFreshnessExpiry | refreshTimerExpiry =>
    simp only [State.Ignores, exec, execMachineViewFreshnessExpiry, execNeighbourViewFreshnessExpiry,
      execRefreshTimerExpiry, State.whenLoaded_none unloaded]
  | _ => exact State.whenLoaded_none unloaded _

/-! ## The receive filter (R136) -/

/-- The receive filter on a kind: a good check, another station, and for the kinds of R136, step 4, the one they are taken from. -/
def filterPasses (c : Configuration) (h : Header) : Kind → Bool
  | .cha => isFrom h c c.chargerStation
  | .che => isFrom h c c.chargerStation
  | .pas => isFrom h c c.pusherStation
  | .rms => isFrom h c c.pusherStation
  | .rmh => isFrom h c c.pusherStation
  | .qcr => isFrom h c c.carStation
  | .pnl => isFromPanel h c
  | _ => fromOther h c

theorem fromOther_iff (h : Header) (c : Configuration) :
    fromOther h c = true ↔ h.checkGood = true ∧ h.station.toNat ≠ c.station := by
  simp [fromOther]

theorem isFrom_iff (h : Header) (c : Configuration) (n : Nat) :
    isFrom h c n = true ↔ (h.checkGood = true ∧ h.station.toNat ≠ c.station) ∧ h.station.toNat = n := by
  simp [isFrom, fromOther_iff]

theorem isFromPanel_iff (h : Header) (c : Configuration) : isFromPanel h c = true
    ↔ (h.checkGood = true ∧ h.station.toNat ≠ c.station) ∧ h.station.toNat ≠ 0 ∧ h.station.toNat ∈ c.panelStations := by
  simp [isFromPanel, fromOther_iff, and_assoc]

theorem filterPasses_iff (c : Configuration) (h : Header) (k : Kind) : filterPasses c h k = true
    ↔ (h.checkGood = true ∧ h.station.toNat ≠ c.station) ∧ Claims.senderOf c k h.station.toNat := by
  cases k with
  | cha | che | pas | rms | rmh | qcr => exact isFrom_iff ..
  | pnl => exact isFromPanel_iff ..
  | _ => exact (fromOther_iff h c).trans (and_iff_left trivial).symm

/-- A meaning behind a filter that refuses it. -/
theorem State.whenLoaded_refused {s : State} {c : Configuration} (hc : s.part.config = some c) {filter : Configuration → Bool}
    (refused : filter c = false) (f : Configuration → Part → Part) :
    s.whenLoaded (fun c p => if filter c then f c p else p) = .next s := by
  rw [State.whenLoaded_some hc, refused]
  rfl

/-- A telegram that its filter refuses does nothing. -/
theorem exec_refused {i : Instr} {s : State} {c : Configuration} {h : Header} {k : Kind} {payload : List Byte}
    (hp : payloadOfCommand i = some (h, k, payload)) (hc : s.part.config = some c) (refused : filterPasses c h k = false) :
    s.Ignores i := by
  cases i with
  | pnlHold | pnlRelease | pnlOut | pnlIn | pnlTarget | pnlDeclare =>
    cases hp
    simp only [State.Ignores, exec, execPnlHold, execPnlRelease, execPnlOut, execPnlIn, execPnlTarget, execPnlDeclare, panelAt]
    exact State.whenLoaded_refused hc refused _
  | cha | che | pas | rms | rmh | ovs =>
    cases hp
    simp only [State.Ignores, exec, execCha, execChe, execPas, execRms, execRmh, execOvs]
    exact State.whenLoaded_refused hc refused _
  | pnlAbort | pnlClear | qcr | bid | mst | pdn | scs => cases hp; exact State.whenLoaded_refused hc refused _
  | _ => cases hp

/-- Settles O2, by what every command answers, the commands that need a configuration, and the receive filter. -/
theorem commandsAnswerOrAreIgnored : Obligations.CommandsAnswerOrAreIgnored := by
  refine ⟨fun i s => ?answers, fun i s => exec_unloaded, fun i s c h k payload hp hc dropped => ?filtered⟩
  case answers =>
    obtain ⟨q, runs, -⟩ := exec_keepsQueue i s
    exact ⟨q, runs⟩
  case filtered =>
    refine exec_refused hp hc (Bool.eq_false_iff.mpr fun passes => ?_)
    obtain ⟨⟨good, other⟩, sender⟩ := (filterPasses_iff c h k).mp passes
    rcases dropped with bad | own | stranger
    · exact absurd (bad.symm.trans good) (by decide)
    · exact other own
    · exact stranger sender

end Sys2Proof.Machine

/-! SUPPORT. The frame of a telegram command reads back as that command (R150). -/

namespace Sys2Proof.Machine

open Sys2Proof

/-! ## Words and codes (R150) -/

/-- A word is its two bytes joined. -/
theorem joinWord_bytes (w : Word16) : joinWord (w.extractLsb' 8 8) (w.extractLsb' 0 8) = w := by
  refine BitVec.eq_of_getLsbD_eq fun n hn => ?_
  simp only [joinWord, BitVec.getLsbD_append, BitVec.getLsbD_extractLsb']
  split <;> grind

theorem splitWord_injective {v w : Word16} (h : splitWord v = splitWord w) : v = w := by
  simp only [splitWord, List.cons.injEq, and_true] at h
  obtain ⟨high, low⟩ := h
  rw [← joinWord_bytes v, high, low, joinWord_bytes w]

/-- A kind's code names that kind alone. -/
theorem kindOfCode_code (k : Kind) : kindOfCode (byteOf k.code).toNat = some k := by cases k <;> rfl

theorem byteOf_payloadLength (k : Kind) : (byteOf k.payloadLength).toNat = k.payloadLength := by cases k <;> rfl

/-! ## Payloads (R150) -/

section
variable {i : Instr} {h : Header} {k : Kind} {payload : List Byte} (hp : payloadOfCommand i = some (h, k, payload))
include hp

theorem payloadOfCommand_length : payload.length = k.payloadLength := by
  cases i <;> cases hp <;> rfl

/-- A payload written by the layout of its kind reads back. -/
theorem commandOfPayload_payloadOfCommand : commandOfPayload h k payload = some i := by
  cases i with
  | pnlTarget | pnlDeclare | bid | ovs => cases hp; simp [commandOfPayload, splitWord, joinWord_bytes]
  | _ => cases hp <;> rfl

end

/-! ## Frames (R150) -/

/-- A frame of a known kind with a payload of its length reads by the payload's layout, its check compared. -/
theorem decodeFrame_frameBody (urgency station : Byte) {k : Kind} {payload : List Byte}
    (hl : payload.length = k.payloadLength) (check : Word16) :
    decodeFrame (frameBody urgency station k payload ++ splitWord check)
      = commandOfPayload ⟨urgency, station, check == crc (frameBody urgency station k payload)⟩ k payload := by
  have compared : (splitWord check == splitWord (crc (frameBody urgency station k payload)))
      = (check == crc (frameBody urgency station k payload)) := by
    rw [Bool.eq_iff_iff, beq_iff_eq, beq_iff_eq]
    exact ⟨splitWord_injective, congrArg splitWord⟩
  have total : (payload ++ splitWord check).length = k.payloadLength + 2 := by rw [List.length_append, hl]; rfl
  rw [← compared]
  simp only [frameBody, List.cons_append, List.nil_append, decodeFrame, kindOfCode_code]
  rw [if_pos ⟨hl ▸ byteOf_payloadLength k, total⟩, ← hl, List.take_left, List.drop_left]

/-- The check written for a header compares as the header says. -/
theorem check_compares (good : Bool) (w : Word16) : ((if good then w else w ^^^ 1) == w) = good := by
  cases good <;> simp

/-- Settles O3, by the frame's parts read one after another. -/
theorem framesReadBack : Obligations.FramesReadBack := by
  intro i frame _ encoded
  unfold encodeFrame at encoded
  split at encoded
  · cases encoded
  · next h k payload hp =>
    cases encoded
    rw [decodeFrame_frameBody h.urgency h.station (payloadOfCommand_length hp), check_compares]
    exact commandOfPayload_payloadOfCommand hp

end Sys2Proof.Machine

/-! SUPPORT. An attempt begun, lost or failed, and the silence that the 32nd failure brings (R131, R135). -/

namespace Sys2Proof.Machine

open Sys2Proof

/-! ## What offers leave of the transmit unit (R133) -/

namespace Bli.Offers

variable {b b' : Bli} (h : b.Offers b')
include h

/-- Offers leave the count and the silence, and put no attempt on the line. -/
theorem line : b'.failed = b.failed ∧ b'.silent = b.silent ∧ (b.attempt = none → b'.attempt = none) := by
  induction h with
  | refl => exact ⟨rfl, rfl, id⟩
  | @offer b' k sub payload _ ih =>
    obtain ⟨failed, silent, attempt⟩ := ih
    rcases offer_cases b' k sub payload with ⟨-, -, taken⟩ | ⟨-, -, -, taken⟩ | ⟨-, -, -, refused⟩
    · rw [taken]
      exact ⟨failed, silent, fun none => by simp [attempt none]⟩
    · rw [taken]
      exact ⟨failed, silent, attempt⟩
    · rw [refused]
      exact ⟨failed, silent, attempt⟩

/-- An entry stands, its payload replaced at most. -/
theorem stands {e : TxEntry} (he : e ∈ b.queue) :
    ∃ e' ∈ b'.queue, e'.kind = e.kind ∧ e'.subject = e.subject ∧ e'.offerTime = e.offerTime := by
  induction h with
  | refl => exact ⟨e, he, rfl, rfl, rfl⟩
  | @offer b' k sub payload _ ih =>
    obtain ⟨x, hx, kind, subject, time⟩ := ih
    rcases offer_cases b' k sub payload with ⟨-, -, taken⟩ | ⟨-, -, -, taken⟩ | ⟨-, -, -, refused⟩
    · rw [taken]
      exact ⟨x.refill k sub payload, List.mem_map_of_mem hx, by simpa, by simpa, by simpa⟩
    · rw [taken]
      exact ⟨x, mem_insertEntry.mpr (.inr hx), kind, subject, time⟩
    · rw [refused]
      exact ⟨x, hx, kind, subject, time⟩

end Bli.Offers

/-! ## A removal told (R134, step 4) -/

/-- No OVS and no SCS is queued. -/
def Bli.NoReports (b : Bli) : Prop := ∀ e ∈ b.queue, e.kind ≠ .ovs ∧ e.kind ≠ .scs

theorem TxEntry.isReport_eq_false_iff (e : TxEntry) : e.isReport = false ↔ e.kind ≠ .ovs ∧ e.kind ≠ .scs := by
  simp [TxEntry.isReport]

theorem Bli.NoReports.offer {b : Bli} (h : b.NoReports) {k : Kind} (hk : k ≠ .ovs ∧ k ≠ .scs) (sub : Subject)
    (payload : List Byte) : (b.offer k sub payload).1.NoReports := by
  rcases offer_cases b k sub payload with ⟨-, -, taken⟩ | ⟨-, -, -, taken⟩ | ⟨-, -, -, refused⟩
  · rw [taken]
    intro e he
    obtain ⟨x, hx, rfl⟩ := List.mem_map.mp he
    change (x.refill k sub payload).kind ≠ .ovs ∧ (x.refill k sub payload).kind ≠ .scs
    rw [TxEntry.refill_kind]
    exact h x hx
  · rw [taken]
    intro e he
    rcases mem_insertEntry.mp he with rfl | he
    · exact hk
    · exact h e he
  · rwa [refused]

/-- What a removal told leaves alone: the views, the bids, the inputs, the alarms, the push context and the kept records. -/
structure KeptAtRemoval (p q : Part) : Prop where
  fls : q.fls = p.fls
  lvt : q.lvt = p.lvt
  bsu : q.bsu = p.bsu
  asr : q.asr = p.asr
  context : q.psq.context = p.psq.context
  kept : q.places.map (fun pl => pl.oven.kept) = p.places.map fun pl => pl.oven.kept
  reports : p.bli.NoReports → q.bli.NoReports

namespace KeptAtRemoval

variable {p q r : Part}

theorem refl (p : Part) : KeptAtRemoval p p := ⟨rfl, rfl, rfl, rfl, rfl, rfl, id⟩

theorem trans (h : KeptAtRemoval p q) (k : KeptAtRemoval q r) : KeptAtRemoval p r :=
  ⟨k.fls.trans h.fls, k.lvt.trans h.lvt, k.bsu.trans h.bsu, k.asr.trans h.asr, k.context.trans h.context,
    k.kept.trans h.kept, k.reports ∘ h.reports⟩

theorem foldl {α : Type} {f : Part → α → Part} (h : ∀ (p : Part) a, KeptAtRemoval p (f p a)) (l : List α) (p : Part) :
    KeptAtRemoval p (l.foldl f p) :=
  List.foldlRecOn l f (motive := KeptAtRemoval p) (.refl p) fun q hq a _ => hq.trans (h q a)

theorem offer (p : Part) {k : Kind} (hk : k ≠ .ovs ∧ k ≠ .scs) (sub : Subject) (payload : List Byte) :
    KeptAtRemoval p (p.offer k sub payload) :=
  ⟨rfl, rfl, rfl, rfl, rfl, rfl, fun none => none.offer hk sub payload⟩

theorem withQou (p : Part) (x : Qou) : KeptAtRemoval p { p with qou := x } := ⟨rfl, rfl, rfl, rfl, rfl, rfl, id⟩

theorem withPending (p : Part) (l : List PendingPdn) : KeptAtRemoval p { p with psq := { p.psq with pendingPdn := l } } :=
  ⟨rfl, rfl, rfl, rfl, rfl, rfl, id⟩

theorem modifyOven (p : Part) (i : Nat) {f : Oven → Oven} (hf : ∀ o, (f o).kept = o.kept) :
    KeptAtRemoval p (p.modifyOven i f) := by
  refine ⟨rfl, rfl, rfl, rfl, rfl, List.ext_getElem? fun j => ?_, id⟩
  by_cases same : i = j <;> simp [Part.modifyOven, Part.modifyPlace, same, hf, Function.comp_def]

theorem offerHead (p : Part) : KeptAtRemoval p (qouOfferHead p) := by
  unfold qouOfferHead
  split
  · exact .refl p
  · split
    · split
      · exact (KeptAtRemoval.offer p (by decide) _ _).trans (.withQou _ _)
      · exact .refl p
    · exact .refl p

theorem reofferChp (p : Part) (i : Nat) : KeptAtRemoval p (reofferChp p i) := by
  rcases reofferChp_cases p i with same | ⟨n, taken⟩
  · rw [same]
    exact .refl p
  · rw [taken]
    exact (KeptAtRemoval.offer p (by decide) _ _).trans (.modifyOven _ i fun _ => rfl)

theorem reofferPdn (p : Part) (e : PendingPdn) : KeptAtRemoval p (reofferPdn p e) := by
  rcases reofferPdn_cases p e with same | taken
  · rw [same]
    exact .refl p
  · rw [taken]
    exact (KeptAtRemoval.offer p (by decide) _ _).trans (.withPending _ _)

theorem tellRemoval (p : Part) : KeptAtRemoval p (tellRemoval p) :=
  ((KeptAtRemoval.offerHead p).trans (.foldl .reofferChp _ _)).trans (.foldl .reofferPdn _ _)

end KeptAtRemoval

/-! ## The attempt (R131) -/

/-- The fields compare by urgency, then by station. -/
theorem arbitrationField_lt_iff {u v m n : Nat} (hm : m < 256) (hn : n < 256) :
    arbitrationField u m < arbitrationField v n ↔ u < v ∨ (u = v ∧ m < n) := by
  unfold arbitrationField
  omega

section
variable {c : Configuration} {p : Part}

theorem beginAttempt_begins {head : TxEntry} {rest : List TxEntry} (hq : p.bli.queue = head :: rest)
    (ha : p.bli.attempt = none) (loud : p.bli.silent.active = false) :
    beginAttempt c p = { p with bli := { p.bli with
      attempt := some ⟨head.kind, head.subject, telegramFrame c.station head.kind head.payload, false⟩ } } := by
  simp [beginAttempt, hq, ha, loud]

theorem beginAttempt_waits (h : p.bli.queue = [] ∨ p.bli.attempt.isSome = true ∨ p.bli.silent.active = true) :
    beginAttempt c p = p := by
  unfold beginAttempt
  split
  · next hq ha =>
    refine if_pos ?_
    simpa [hq, ha] using h
  · rfl

theorem loseContention_eq {a : Attempt} (ha : p.bli.attempt = some a) (hc : c.station < 256) (urgency station : Byte) :
    loseContention c urgency.toNat station.toNat p
      = if urgency.toNat < a.kind.urgency ∨ (urgency.toNat = a.kind.urgency ∧ station.toNat < c.station)
        then { p with bli := { p.bli with attempt := none } } else p := by
  simp only [loseContention, ha, arbitrationField_lt_iff station.isLt hc]
  rfl

/-! ## Failure and silence (R135) -/

theorem fail_counts {a : Attempt} (ha : p.bli.attempt = some a) (few : p.bli.failed + 1 < 32) :
    fail c p = { p with bli := { p.bli with attempt := none, failed := p.bli.failed + 1 } } := by
  simp only [fail, ha]
  exact if_neg (Nat.not_le_of_lt few)

/-- The part at the start of silence, its reports dropped and no removal told yet. -/
def Part.silenced (c : Configuration) (p : Part) : Part :=
  { raiseStation c .lineSilent p with bli := { p.bli with
      queue := p.bli.queue.filter fun e => !e.isReport, attempt := none, failed := p.bli.failed + 1
      silent := .running silentMs } }

theorem fail_silences {a : Attempt} (ha : p.bli.attempt = some a) (many : p.bli.failed + 1 = 32) :
    fail c p = (p.bli.queue.filter (·.isReport)).foldl (fun q _ => tellRemoval q) (p.silenced c) := by
  simp only [fail, ha]
  exact if_pos many.ge

theorem silenced_noReports : (p.silenced c).bli.NoReports := by
  intro e he
  have other : e.isReport = false := by simpa using (List.mem_filter.mp he).2
  exact e.isReport_eq_false_iff.mp other

theorem silenced_stands {e : TxEntry} (he : e ∈ p.bli.queue) (hk : e.kind ≠ .ovs ∧ e.kind ≠ .scs) :
    e ∈ (p.silenced c).bli.queue :=
  List.mem_filter.mpr ⟨he, by simp [e.isReport_eq_false_iff.mpr hk]⟩

end

/-- Settles O55, by the guard of each command on the line; the 32nd failure drops the reports and then makes offers
alone. -/
theorem attemptsBeginAndFail : Obligations.AttemptsBeginAndFail := by
  intro s c hc line
  have begins : s.Runs .lineIdleAttempt (beginAttempt c s.part) := State.whenLoaded_some hc _
  have lost (u n : Byte) : s.Runs (.lostContention u n) (loseContention c u.toNat n.toNat s.part) :=
    State.whenLoaded_some hc _
  have fails : s.Runs .attemptFailed (fail c s.part) := State.whenLoaded_some hc _
  have heard : s.Runs .attemptSucceeded (succeed c s.part) := attemptSucceeded_runs hc
  have ends : s.Runs .silentExpiry (if s.part.bli.silent.active = true then
      line { s.part.bli with silent := .stopped, failed := 0 } else s.part) := State.whenLoaded_some hc _
  refine ⟨fun head rest hq ha loud => begins.congr (beginAttempt_begins hq ha loud),
    fun waits => begins.ignores (beginAttempt_waits waits), ?contention,
    fun a ha => ⟨fun few => fails.congr (fail_counts ha few), fun many => ?silence⟩,
    fun none => ⟨fails.ignores (by simp [fail, none]), heard.ignores (by simp [succeed, none])⟩,
    fun silent => ends.congr (if_pos silent), fun loud => ends.ignores (if_neg (by simp [loud]))⟩
  case contention =>
    intro a u n ha _ station
    have outcome := loseContention_eq (c := c) ha station u n
    exact ⟨fun low => (lost u n).congr (outcome.trans (if_pos low)),
      fun high => (lost u n).ignores (outcome.trans (if_neg high))⟩
  case silence =>
    let begun := s.part.silenced c
    let q := (s.part.bli.queue.filter (·.isReport)).foldl (fun q _ => tellRemoval q) begun
    have offers : begun.bli.Offers q.bli := .foldl (fun _ _ => .tellRemoval) _ .refl
    have kept : KeptAtRemoval begun q := .foldl (fun q _ => .tellRemoval q) _ begun
    obtain ⟨failed, silent, attempt⟩ := offers.line
    exact ⟨q, fails.congr (fail_silences ha many), failed.trans many, silent, attempt rfl, congrArg Asr.station kept.asr,
      kept.reports silenced_noReports, fun e he ho hs => offers.stands (silenced_stands he ⟨ho, hs⟩),
      kept.fls, kept.lvt, kept.bsu, kept.context, kept.kept⟩

end Sys2Proof.Machine
